-- ==== Sys2Proof/Word.lean ====
section
/-!
DEFINITION. The words and number ranges of the part: bytes, store-page data, the index ranges of its fixed tables
(00 section 6), and `Tab`, a table of a fixed number of like records.
-/

namespace Sys2Proof

/-- A byte of a frame or of a store page. -/
abbrev Byte := BitVec 8

/-- An absolute line number, 0 to 2047 (R1). -/
abbrev LineId := Fin 2048

/-- A test bus, TB0 to TB3 (R17). -/
abbrev BusId := Fin 4

/-- A measuring unit, MU0 or MU1 (R68). -/
abbrev MuId := Fin 2

/-- A desk position, D0 to D3. -/
abbrev DeskId := Fin 4

/-- A line class, 0 to 7 (R10). -/
abbrev ClassId := Fin 8

/-- A programme number, 0 to 15 (R72). -/
abbrev ProgId := Fin 16

/-- A ticket slot, 0 to 255 (R125). -/
abbrev SlotId := Fin 256

/-- A page of the nonvolatile array, 0 to 361 (R164). -/
abbrev PageId := Fin 362

/-- A table of `n` records held as a list, with its length. -/
structure Tab (α : Type) (n : Nat) where
  items : List α
  size_eq : items.length = n
  deriving DecidableEq, Repr

/-- The table whose every record is `a`. -/
def Tab.replicate {α : Type} (n : Nat) (a : α) : Tab α n := ⟨List.replicate n a, by simp⟩

/-- The record at index `i`. -/
def Tab.get {α : Type} {n : Nat} (t : Tab α n) (i : Fin n) : α :=
  t.items.get (i.cast t.size_eq.symm)

/-- The table with the record at `i` replaced. -/
def Tab.set {α : Type} {n : Nat} (t : Tab α n) (i : Fin n) (a : α) : Tab α n :=
  ⟨t.items.set i.val a, by simp [t.size_eq]⟩

/-- The table with `f` applied to every record. -/
def Tab.map {α : Type} {n : Nat} (f : α → α) (t : Tab α n) : Tab α n :=
  ⟨t.items.map f, by simp [t.size_eq]⟩

/-- The table with every record replaced by `f` of its index and itself. -/
def Tab.mapIdx {α : Type} {n : Nat} (f : Fin n → α → α) (t : Tab α n) : Tab α n :=
  ⟨List.zipWith f (List.finRange n) t.items, by simp [t.size_eq]⟩

/-- The records with their indexes, in ascending order. -/
def Tab.indexed {α : Type} {n : Nat} (t : Tab α n) : List (Fin n × α) :=
  (List.finRange n).zip t.items

/-- The table whose record at `i` is `f i`. -/
def Tab.ofFn {α : Type} {n : Nat} (f : Fin n → α) : Tab α n :=
  ⟨(List.finRange n).map f, by simp⟩

/-- The 32 data bytes of a page of the nonvolatile array (R164). -/
abbrev PageData := Tab Byte 32

end Sys2Proof
end

