-- ==== Sys2Proof/Machine/Bytes.lean ====
section
/-!
DEFINITION. Bytes and multi-byte fields: sections 5.2 and 10.6 (most significant byte first), and the check of a
store page (R165).
-/

namespace Sys2Proof

/-- The byte of a number's low 8 bits. -/
def byteOf (n : Nat) : Byte := BitVec.ofNat 8 n

/-- A two-byte field, most significant byte first. -/
def be16 (hi lo : Byte) : Nat := hi.toNat * 256 + lo.toNat

/-- A four-byte field, most significant byte first. -/
def be32 (a b c d : Byte) : Nat := be16 a b * 65536 + be16 c d

/-- The signed value of a byte. -/
def signed8 (b : Byte) : Int := b.toInt

/-- The signed value of a four-byte field. -/
def signed32 (n : Nat) : Int := (BitVec.ofNat 32 n).toInt

/-- The two bytes of a number below 65536. -/
def bytes16 (n : Nat) : List Byte := [byteOf (n / 256), byteOf n]

/-- The four bytes of a number below 2^32. -/
def bytes32 (n : Nat) : List Byte := bytes16 (n / 65536) ++ bytes16 n

/-- The byte of a signed number in two's complement. -/
def byteOfInt (v : Int) : Byte := BitVec.ofInt 8 v

/-- The four bytes of a signed number in two's complement. -/
def bytesOfInt32 (v : Int) : List Byte := bytes32 (BitVec.ofInt 32 v).toNat

/-- Byte `i` of a page, 0 to 31. -/
def pageByte (d : PageData) (i : Nat) : Byte := d.items.getD i 0

/-- The two-byte field of a page at byte `i`. -/
def page16 (d : PageData) (i : Nat) : Nat := be16 (pageByte d i) (pageByte d (i + 1))

/-- The four-byte field of a page at byte `i`. -/
def page32 (d : PageData) (i : Nat) : Nat :=
  be32 (pageByte d i) (pageByte d (i + 1)) (pageByte d (i + 2)) (pageByte d (i + 3))

/-- A page from its leading bytes; the rest are sent as 0 (section 10.6). -/
def pageOfBytes (bs : List Byte) : PageData := Tab.ofFn fun i => bs.getD i.val 0

/-- The sum of a list of bytes as numbers. -/
def byteSum (bs : List Byte) : Nat := (bs.map BitVec.toNat).sum

/-- The check of a page's data: the bitwise inverse of their 16-bit sum (R165). -/
def pageCheck (d : PageData) : BitVec 16 := BitVec.ofNat 16 (65535 - byteSum d.items)

/-- Whether a page of data and check is good (R165). -/
def pageGood (d : PageData) (check : BitVec 16) : Bool := check == pageCheck d

/-- A bit of a number. -/
def bitOf (n i : Nat) : Bool := n.testBit i

/-- The number 1 of a set flag and 0 of a clear one. -/
def flagNat (b : Bool) : Nat := if b then 1 else 0

/-- A number held to the range from `lo` to `hi`. -/
def clampNat (lo hi n : Nat) : Nat := if n < lo then lo else if hi < n then hi else n

/-- A count increased by one, saturating at `top`. -/
def satSucc (top n : Nat) : Nat := if n < top then n + 1 else top

end Sys2Proof
end

