-- ==== Sys2Proof/Syntax.lean ====
section
/-!
DEFINITION. The commands the part takes: one constructor of `Instr` for each row of spec/opcode_table.json.
An order carries the port it arrives at, its tag and the values of its payload fields as section 10.6 lists them, not
yet checked: a value outside its range is refused by the rule that owns it.
-/

namespace Sys2Proof

/-- The six order links (00 section 1.2). -/
inductive Port where
  | desk (d : DeskId)
  | x
  | m
  deriving DecidableEq, Repr

/-- How a POR leaves the page whose write it cuts off (R173). -/
inductive CutPage where
  /-- as it was before the write -/
  | asBefore
  /-- as the write would have left it -/
  | asWritten
  /-- with contents that fail their check -/
  | failing (data : PageData) (check : BitVec 16)
  deriving DecidableEq, Repr

/-- The two forms of QUERY_TICKET (R141). -/
inductive TicketQuery where
  | byNumber (number : Nat)
  | byLine (line cls : Nat)
  deriving DecidableEq, Repr

/-- The order kinds of the kind code table (section 10.6). -/
inductive OrderKind where
  | seize | cancelWait | terminate | release | run | abort | keep | demandTest
  | lineState | lineStateIdleRange | intrude | intrudeCancel | supervise
  | queryLine | queryBus | queryMu | queryStatus
  | ticketNext | ticketHand | ticketClear | ticketPurge | queryTicket | ticketList | ticketNote
  | setClock | sweepSet | sweepEnable | sweepDisable | sweepHold | sweepResume | sweepNewPass | querySweep
  | settingsWrite | settingsRead | restart
  deriving DecidableEq, Repr

/-- The commands: one constructor for each row of the table. -/
inductive Instr where
  /-- POR (R167, R173) -/
  | por (cut : CutPage)
  /-- BYTE_RECEIVED (R177): a byte, and whether it came with its stop bit -/
  | byteReceived (p : Port) (b : Byte) (stopBit : Bool)
  /-- INTER_BYTE_GAP (R177) -/
  | interByteGap (p : Port)
  /-- PORT_RESET (R181) -/
  | portReset (p : Port)
  /-- REPORT_SENT (R179) -/
  | reportSent (p : Port)
  /-- SEIZE (R22): programme `none` is the code FFh -/
  | seize (p : Port) (tag : Byte) (line term : Nat) (prog : Option Nat)
  /-- DEMAND_TEST (R22) -/
  | demandTest (p : Port) (tag : Byte) (line prog : Nat)
  /-- CANCEL_WAIT (R33) -/
  | cancelWait (p : Port) (tag : Byte) (line : Nat)
  /-- TERMINATE (R35) -/
  | terminate (p : Port) (tag : Byte) (bus term : Nat)
  /-- RELEASE (R42) -/
  | release (p : Port) (tag : Byte) (bus : Nat)
  /-- RUN (R83): the ticket flag is optional -/
  | run (p : Port) (tag : Byte) (bus prog : Nat) (flag : Option Nat)
  /-- ABORT (R84) -/
  | abort (p : Port) (tag : Byte) (bus : Nat)
  /-- KEEP (R62) -/
  | keep (p : Port) (tag : Byte) (bus : Nat)
  /-- LINE_STATE (R53) -/
  | lineState (p : Port) (tag : Byte) (line state : Nat)
  /-- LINE_STATE_IDLE_RANGE (R54) -/
  | lineStateIdleRange (p : Port) (tag : Byte) (first last : Nat)
  /-- INTRUDE (R59) -/
  | intrude (p : Port) (tag : Byte) (line : Nat)
  /-- INTRUDE_CANCEL (R65) -/
  | intrudeCancel (p : Port) (tag : Byte) (line : Nat)
  /-- SUPERVISE (R49) -/
  | supervise (p : Port) (tag : Byte)
  /-- QUERY_LINE (R16) -/
  | queryLine (p : Port) (tag : Byte) (line : Nat)
  /-- QUERY_BUS (R46) -/
  | queryBus (p : Port) (tag : Byte) (bus : Nat)
  /-- QUERY_MU (R89) -/
  | queryMu (p : Port) (tag : Byte) (unit : Nat)
  /-- QUERY_STATUS (R180) -/
  | queryStatus (p : Port) (tag : Byte)
  /-- TICKET_NEXT (R137) -/
  | ticketNext (p : Port) (tag : Byte)
  /-- TICKET_HAND (R138) -/
  | ticketHand (p : Port) (tag : Byte) (number assignee : Nat)
  /-- TICKET_CLEAR (R139) -/
  | ticketClear (p : Port) (tag : Byte) (number : Nat)
  /-- TICKET_PURGE (R140) -/
  | ticketPurge (p : Port) (tag : Byte) (number : Nat)
  /-- QUERY_TICKET (R141) -/
  | queryTicket (p : Port) (tag : Byte) (query : TicketQuery)
  /-- TICKET_LIST (R142) -/
  | ticketList (p : Port) (tag : Byte) (first : Nat)
  /-- TICKET_NOTE (R144) -/
  | ticketNote (p : Port) (tag : Byte) (number note : Nat)
  /-- SET_CLOCK (R149) -/
  | setClock (p : Port) (tag : Byte) (day hour minute second : Nat)
  /-- SWEEP_SET (R159) -/
  | sweepSet (p : Port) (tag : Byte) (windowStart windowEnd first last prog pacing : Nat)
  /-- SWEEP_ENABLE (R160) -/
  | sweepEnable (p : Port) (tag : Byte)
  /-- SWEEP_DISABLE (R160) -/
  | sweepDisable (p : Port) (tag : Byte)
  /-- SWEEP_HOLD (R160) -/
  | sweepHold (p : Port) (tag : Byte)
  /-- SWEEP_RESUME (R160) -/
  | sweepResume (p : Port) (tag : Byte)
  /-- SWEEP_NEW_PASS (R160) -/
  | sweepNewPass (p : Port) (tag : Byte)
  /-- QUERY_SWEEP (R161): the index is present only in the longer payload -/
  | querySweep (p : Port) (tag : Byte) (selector : Nat) (index : Option Nat)
  /-- SETTINGS_WRITE (R169) -/
  | settingsWrite (p : Port) (tag : Byte) (page : Nat) (data : PageData)
  /-- SETTINGS_READ (R171) -/
  | settingsRead (p : Port) (tag : Byte) (page : Nat)
  /-- RESTART (R182) -/
  | restart (p : Port) (tag : Byte)
  /-- OPERATE_COMPLETION (R26) -/
  | operateCompletion (b : BusId)
  /-- SWITCH_COMPLETION (R36) -/
  | switchCompletion (b : BusId)
  /-- RELEASE_COMPLETION (R41) -/
  | releaseCompletion (b : BusId)
  /-- WAIT_DEADLINE_EXPIRY (R32), of the entry for a line -/
  | waitDeadlineExpiry (line : LineId)
  /-- SUPERVISION_TIMER_EXPIRY (R48) -/
  | supervisionTimerExpiry
  /-- GRACE_EXPIRY (R64) -/
  | graceExpiry (b : BusId)
  /-- WARM_UP_END (R71) -/
  | warmUpEnd (u : MuId)
  /-- STANDBY_DELAY_EXPIRY (R70) -/
  | standbyDelayExpiry (u : MuId)
  /-- HEAD_SET_UP_END (R76) -/
  | headSetUpEnd (u : MuId)
  /-- SETTLE_END (R76), with the charge meter's reading in nC and its saturation, which only a CAP phase uses (R101) -/
  | settleEnd (u : MuId) (charge : Nat) (saturated : Bool)
  /-- SAMPLE_ARRIVAL (R91): the converter's raw value in 10 mV units -/
  | sampleArrival (u : MuId) (raw : Int)
  /-- DISCHARGE_END (R87) -/
  | dischargeEnd (u : MuId)
  /-- PACING_TIMER_EXPIRY (R154) -/
  | pacingTimerExpiry
  /-- PASS_END (R156) -/
  | passEnd
  /-- CLOCK_ADVANCE (R148) -/
  | clockAdvance
  /-- SLOT_WRITE_COMPLETION (R172) -/
  | slotWriteCompletion
  /-- SETTINGS_WRITE_COMPLETION (R170) -/
  | settingsWriteCompletion
  /-- ACCESS_QUIET (R174) -/
  | accessQuiet
  /-- DRAIN_END (R174) -/
  | drainEnd
  /-- AUTOLOAD_PAGE_READ (R167) -/
  | autoloadPageRead
  /-- AUTOLOAD_COMPLETION (R168) -/
  | autoloadCompletion
  /-- RETURN_TO_MARK (R181) -/
  | returnToMark (p : Port)
  deriving DecidableEq, Repr

end Sys2Proof
end

