-- ==== Sys2Proof/Decode.lean ====
section
/-!
DEFINITION. Orders as frames (section 10.6): the kind codes, the payload of each order in both directions, and the
frame with its check. No row of spec/opcode_table.json gives bits, so `decodeTableWord` answers none.
-/

namespace Sys2Proof

/-- The kind code of an order (section 10.6). -/
def OrderKind.code : OrderKind → Byte
  | .seize => 0x01
  | .cancelWait => 0x02
  | .terminate => 0x03
  | .release => 0x04
  | .run => 0x05
  | .abort => 0x06
  | .keep => 0x07
  | .demandTest => 0x08
  | .lineState => 0x10
  | .lineStateIdleRange => 0x11
  | .intrude => 0x12
  | .intrudeCancel => 0x13
  | .supervise => 0x14
  | .queryLine => 0x18
  | .queryBus => 0x19
  | .queryMu => 0x1A
  | .queryStatus => 0x1B
  | .ticketNext => 0x20
  | .ticketHand => 0x21
  | .ticketClear => 0x22
  | .ticketPurge => 0x23
  | .queryTicket => 0x24
  | .ticketList => 0x25
  | .ticketNote => 0x26
  | .setClock => 0x30
  | .sweepSet => 0x31
  | .sweepEnable => 0x32
  | .sweepDisable => 0x33
  | .sweepHold => 0x34
  | .sweepResume => 0x35
  | .sweepNewPass => 0x36
  | .querySweep => 0x37
  | .settingsWrite => 0x38
  | .settingsRead => 0x39
  | .restart => 0x3A

/-- Every order kind, in the order of its code. -/
def OrderKind.all : List OrderKind :=
  [.seize, .cancelWait, .terminate, .release, .run, .abort, .keep, .demandTest, .lineState, .lineStateIdleRange,
   .intrude, .intrudeCancel, .supervise, .queryLine, .queryBus, .queryMu, .queryStatus, .ticketNext, .ticketHand,
   .ticketClear, .ticketPurge, .queryTicket, .ticketList, .ticketNote, .setClock, .sweepSet, .sweepEnable,
   .sweepDisable, .sweepHold, .sweepResume, .sweepNewPass, .querySweep, .settingsWrite, .settingsRead, .restart]

/-- The order kind a code names, if it names one. -/
def OrderKind.ofCode (c : Byte) : Option OrderKind := OrderKind.all.find? (fun k => k.code == c)

/-- The programme byte of a SEIZE: FFh for no programme. -/
def progOfByte (b : Byte) : Option Nat := if b = 0xFF then none else some b.toNat

/-- The programme byte of a SEIZE: FFh for no programme. -/
def byteOfProg : Option Nat → Byte
  | none => 0xFF
  | some n => byteOf n

/-- The order a payload spells for its kind, none when its length is not one the table allows (R176). -/
def decodePayload (p : Port) (tag : Byte) (k : OrderKind) (bs : List Byte) : Option Instr :=
  match k with
  | .seize => match bs with
    | [a, b, t, pr] => some (.seize p tag (be16 a b) t.toNat (progOfByte pr))
    | _ => none
  | .cancelWait => match bs with
    | [a, b] => some (.cancelWait p tag (be16 a b))
    | _ => none
  | .terminate => match bs with
    | [a, t] => some (.terminate p tag a.toNat t.toNat)
    | _ => none
  | .release => match bs with
    | [a] => some (.release p tag a.toNat)
    | _ => none
  | .run => match bs with
    | [a, pr] => some (.run p tag a.toNat pr.toNat none)
    | [a, pr, f] => some (.run p tag a.toNat pr.toNat (some f.toNat))
    | _ => none
  | .abort => match bs with
    | [a] => some (.abort p tag a.toNat)
    | _ => none
  | .keep => match bs with
    | [a] => some (.keep p tag a.toNat)
    | _ => none
  | .demandTest => match bs with
    | [a, b, pr] => some (.demandTest p tag (be16 a b) pr.toNat)
    | _ => none
  | .lineState => match bs with
    | [a, b, st] => some (.lineState p tag (be16 a b) st.toNat)
    | _ => none
  | .lineStateIdleRange => match bs with
    | [a, b, c, d] => some (.lineStateIdleRange p tag (be16 a b) (be16 c d))
    | _ => none
  | .intrude => match bs with
    | [a, b] => some (.intrude p tag (be16 a b))
    | _ => none
  | .intrudeCancel => match bs with
    | [a, b] => some (.intrudeCancel p tag (be16 a b))
    | _ => none
  | .supervise => match bs with
    | [] => some (.supervise p tag)
    | _ => none
  | .queryLine => match bs with
    | [a, b] => some (.queryLine p tag (be16 a b))
    | _ => none
  | .queryBus => match bs with
    | [a] => some (.queryBus p tag a.toNat)
    | _ => none
  | .queryMu => match bs with
    | [a] => some (.queryMu p tag a.toNat)
    | _ => none
  | .queryStatus => match bs with
    | [] => some (.queryStatus p tag)
    | _ => none
  | .ticketNext => match bs with
    | [] => some (.ticketNext p tag)
    | _ => none
  | .ticketHand => match bs with
    | [a, b, c, d] => some (.ticketHand p tag (be16 a b) (be16 c d))
    | _ => none
  | .ticketClear => match bs with
    | [a, b] => some (.ticketClear p tag (be16 a b))
    | _ => none
  | .ticketPurge => match bs with
    | [a, b] => some (.ticketPurge p tag (be16 a b))
    | _ => none
  | .queryTicket => match bs with
    | [a, b] => some (.queryTicket p tag (.byNumber (be16 a b)))
    | [a, b, c] => some (.queryTicket p tag (.byLine (be16 a b) c.toNat))
    | _ => none
  | .ticketList => match bs with
    | [a] => some (.ticketList p tag a.toNat)
    | _ => none
  | .ticketNote => match bs with
    | [a, b, c, d] => some (.ticketNote p tag (be16 a b) (be16 c d))
    | _ => none
  | .setClock => match bs with
    | [a, b, h, mi, se] => some (.setClock p tag (be16 a b) h.toNat mi.toNat se.toNat)
    | _ => none
  | .sweepSet => match bs with
    | [a, b, c, d, e, f, g, h, pr, i, j] =>
      some (.sweepSet p tag (be16 a b) (be16 c d) (be16 e f) (be16 g h) pr.toNat (be16 i j))
    | _ => none
  | .sweepEnable => match bs with
    | [] => some (.sweepEnable p tag)
    | _ => none
  | .sweepDisable => match bs with
    | [] => some (.sweepDisable p tag)
    | _ => none
  | .sweepHold => match bs with
    | [] => some (.sweepHold p tag)
    | _ => none
  | .sweepResume => match bs with
    | [] => some (.sweepResume p tag)
    | _ => none
  | .sweepNewPass => match bs with
    | [] => some (.sweepNewPass p tag)
    | _ => none
  | .querySweep => match bs with
    | [a] => some (.querySweep p tag a.toNat none)
    | [a, i] => some (.querySweep p tag a.toNat (some i.toNat))
    | _ => none
  | .settingsWrite => match bs with
    | a :: b :: ds => if h : ds.length = 32 then some (.settingsWrite p tag (be16 a b) ⟨ds, h⟩) else none
    | _ => none
  | .settingsRead => match bs with
    | [a, b] => some (.settingsRead p tag (be16 a b))
    | _ => none
  | .restart => match bs with
    | [] => some (.restart p tag)
    | _ => none

/-- The order a frame carries, none when R176 answers it BAD_ORDER: the kind is no order kind, or the payload's length
is not one the table allows for it. -/
def decodeOrder (p : Port) (tag code : Byte) (payload : List Byte) : Option Instr :=
  match OrderKind.ofCode code with
  | none => none
  | some k => decodePayload p tag k payload

/-- The port, tag and kind of a command that is an order; none for an event. -/
def Instr.orderHead : Instr → Option (Port × Byte × OrderKind)
  | .seize p t _ _ _ => some (p, t, .seize)
  | .demandTest p t _ _ => some (p, t, .demandTest)
  | .cancelWait p t _ => some (p, t, .cancelWait)
  | .terminate p t _ _ => some (p, t, .terminate)
  | .release p t _ => some (p, t, .release)
  | .run p t _ _ _ => some (p, t, .run)
  | .abort p t _ => some (p, t, .abort)
  | .keep p t _ => some (p, t, .keep)
  | .lineState p t _ _ => some (p, t, .lineState)
  | .lineStateIdleRange p t _ _ => some (p, t, .lineStateIdleRange)
  | .intrude p t _ => some (p, t, .intrude)
  | .intrudeCancel p t _ => some (p, t, .intrudeCancel)
  | .supervise p t => some (p, t, .supervise)
  | .queryLine p t _ => some (p, t, .queryLine)
  | .queryBus p t _ => some (p, t, .queryBus)
  | .queryMu p t _ => some (p, t, .queryMu)
  | .queryStatus p t => some (p, t, .queryStatus)
  | .ticketNext p t => some (p, t, .ticketNext)
  | .ticketHand p t _ _ => some (p, t, .ticketHand)
  | .ticketClear p t _ => some (p, t, .ticketClear)
  | .ticketPurge p t _ => some (p, t, .ticketPurge)
  | .queryTicket p t _ => some (p, t, .queryTicket)
  | .ticketList p t _ => some (p, t, .ticketList)
  | .ticketNote p t _ _ => some (p, t, .ticketNote)
  | .setClock p t _ _ _ _ => some (p, t, .setClock)
  | .sweepSet p t _ _ _ _ _ _ => some (p, t, .sweepSet)
  | .sweepEnable p t => some (p, t, .sweepEnable)
  | .sweepDisable p t => some (p, t, .sweepDisable)
  | .sweepHold p t => some (p, t, .sweepHold)
  | .sweepResume p t => some (p, t, .sweepResume)
  | .sweepNewPass p t => some (p, t, .sweepNewPass)
  | .querySweep p t _ _ => some (p, t, .querySweep)
  | .settingsWrite p t _ _ => some (p, t, .settingsWrite)
  | .settingsRead p t _ => some (p, t, .settingsRead)
  | .restart p t => some (p, t, .restart)
  | .por _ => none
  | .byteReceived _ _ _ => none
  | .interByteGap _ => none
  | .portReset _ => none
  | .reportSent _ => none
  | .operateCompletion _ => none
  | .switchCompletion _ => none
  | .releaseCompletion _ => none
  | .waitDeadlineExpiry _ => none
  | .supervisionTimerExpiry => none
  | .graceExpiry _ => none
  | .warmUpEnd _ => none
  | .standbyDelayExpiry _ => none
  | .headSetUpEnd _ => none
  | .settleEnd _ _ _ => none
  | .sampleArrival _ _ => none
  | .dischargeEnd _ => none
  | .pacingTimerExpiry => none
  | .passEnd => none
  | .clockAdvance => none
  | .slotWriteCompletion => none
  | .settingsWriteCompletion => none
  | .accessQuiet => none
  | .drainEnd => none
  | .autoloadPageRead => none
  | .autoloadCompletion => none
  | .returnToMark _ => none

/-- The payload bytes of an order; none (the empty list) for a command that is no order. -/
def Instr.payload : Instr → List Byte
  | .seize _ _ l t pr => bytes16 l ++ [byteOf t, byteOfProg pr]
  | .demandTest _ _ l pr => bytes16 l ++ [byteOf pr]
  | .cancelWait _ _ l => bytes16 l
  | .terminate _ _ b t => [byteOf b, byteOf t]
  | .release _ _ b => [byteOf b]
  | .run _ _ b pr none => [byteOf b, byteOf pr]
  | .run _ _ b pr (some f) => [byteOf b, byteOf pr, byteOf f]
  | .abort _ _ b => [byteOf b]
  | .keep _ _ b => [byteOf b]
  | .lineState _ _ l st => bytes16 l ++ [byteOf st]
  | .lineStateIdleRange _ _ a b => bytes16 a ++ bytes16 b
  | .intrude _ _ l => bytes16 l
  | .intrudeCancel _ _ l => bytes16 l
  | .queryLine _ _ l => bytes16 l
  | .queryBus _ _ b => [byteOf b]
  | .queryMu _ _ u => [byteOf u]
  | .ticketHand _ _ n a => bytes16 n ++ bytes16 a
  | .ticketClear _ _ n => bytes16 n
  | .ticketPurge _ _ n => bytes16 n
  | .queryTicket _ _ (.byNumber n) => bytes16 n
  | .queryTicket _ _ (.byLine l c) => bytes16 l ++ [byteOf c]
  | .ticketList _ _ f => [byteOf f]
  | .ticketNote _ _ n t => bytes16 n ++ bytes16 t
  | .setClock _ _ d h m s => bytes16 d ++ [byteOf h, byteOf m, byteOf s]
  | .sweepSet _ _ a b c d pr pc => bytes16 a ++ bytes16 b ++ bytes16 c ++ bytes16 d ++ [byteOf pr] ++ bytes16 pc
  | .querySweep _ _ sel none => [byteOf sel]
  | .querySweep _ _ sel (some i) => [byteOf sel, byteOf i]
  | .settingsWrite _ _ pg d => bytes16 pg ++ d.items
  | .settingsRead _ _ pg => bytes16 pg
  | _ => []

/-- The check byte that makes the bytes from the length byte on sum to 0 modulo 256 (R177). -/
def checkByte (bs : List Byte) : Byte := - (bs.foldl (· + ·) 0)

/-- A frame: start, length, kind, tag, payload, check (section 10.6). -/
def frameBytes (code tag : Byte) (payload : List Byte) : List Byte :=
  let body := byteOf (payload.length + 2) :: code :: tag :: payload
  0xA5 :: body ++ [checkByte body]

/-- The frame in which a master sends an order; none for a command that is no order. -/
def Instr.frame (i : Instr) : Option (List Byte) :=
  i.orderHead.map fun h => frameBytes h.2.2.code h.2.1 i.payload

/-- The command a word spells by the table's bits: no row of the table gives bits, so there is none. -/
def decodeTableWord (_nbits _w : Nat) : Option Instr := none

end Sys2Proof
end

