-- ==== Sys2Proof/Config.lean ====
section
/-!
DEFINITION. What the manual leaves open: the free values of the model. Each is a constant with no body, so that no
proof can rest on a value of it.
-/

namespace Sys2Proof

/-- The first index a QUERY_SWEEP with selector LIST and no index byte asks from (R161 requires an index and section
10.6 allows the shorter payload; the spec states no result, log 12). A free value, one for each such order (the argument
counts them): it may also lie above 31, and the order is then refused BAD_PARAMETER as R161 says of such an index. -/
opaque Config.sweepListIndexWhenAbsent : Nat → Nat

/-- The pair of the last value of a ticket that an autoload loads into a slot which held no such ticket before (R113; the
stored record of 10.6 has no place for the pair and the spec states no result, log 33), as a code. A free value, one for
each autoload (the first argument counts them with the other free values) and each slot (the second). -/
opaque Config.loadedPair : Nat → Nat → Nat

end Sys2Proof
end

