-- ==== Sys2Proof/Machine/State.lean ====
section
/-!
DEFINITION. The state of the part: every piece of state the manual gives its eight blocks, as plain data, and the
state right after POR. Times are in units of 0.1 ms of the crystal's time (log 1).
-/

namespace Sys2Proof.Machine

/-! ## Names used across the blocks -/

/-- The sources of holds and tickets (00 section 1.3). -/
inductive Source where
  | desk (d : DeskId)
  | mc
  | rs
  deriving DecidableEq, Repr

/-- The tag of a hold: the tag of an order, or for RS a sweep test number (R17). -/
inductive HolderTag where
  | order (tag : Byte)
  | test (number : Nat)
  deriving DecidableEq, Repr

/-- The call state of a line (R2). -/
inductive CallState where
  | idle | busy | ringing | unknown
  deriving DecidableEq, Repr

/-- The termination of a bus (R17). -/
inductive Termination where
  | none | mu | talk
  deriving DecidableEq, Repr

/-- The state of a bus (R17). -/
inductive BusState where
  | free | operating | held | switching | draining | releasing
  deriving DecidableEq, Repr

/-- The release causes (R37). -/
inductive Cause where
  | holder | programmeDone | intruded | lineBusy | hazard | unsupervised | portReset | restart
  deriving DecidableEq, Repr

/-- The end causes of a programme (R85). -/
inductive EndCause where
  | complete | hazard | aborted | intruded | lineBusy | unsupervised | portReset | restart
  deriving DecidableEq, Repr

/-- The intrusion field of a bus (R17, R58). -/
inductive Intrusion where
  | none
  | pending (deadline : Nat)
  | kept
  deriving DecidableEq, Repr

/-- The answer owed on a bus (R58). -/
inductive Owed where
  | granted | withdrawn
  deriving DecidableEq, Repr

/-- The answers to an INTRUDE (03 section 3.4). -/
inductive IntrudeAnswer where
  | granted | denied | withdrawn
  deriving DecidableEq, Repr

/-- The causes of a wait entry's end without a grant (R32, R33, R34). -/
inductive WaitCause where
  | timeout | cancelled | restart
  deriving DecidableEq, Repr

/-- The causes of a supervision lapse (R51). -/
inductive LapseCause where
  | timeout | portReset | overflow
  deriving DecidableEq, Repr

/-- The reset causes START carries (R166, R168). -/
inductive ResetCause where
  | por | restart
  deriving DecidableEq, Repr

/-- The seven fault classes (00 section 4). -/
inductive FaultClass where
  | hazard | foreignDc | foreignAc | lowIrAb | lowIrAe | lowIrBe | openLine
  deriving DecidableEq, Repr

/-- The severities of a ticket (R114). -/
inductive Severity where
  | minor | major | critical
  deriving DecidableEq, Repr

/-- The verdicts of a step (R110). -/
inductive Verdict where
  | pass | marginal | fault | hazard
  deriving DecidableEq, Repr

/-- The four link rates (R183). -/
inductive LinkRate where
  | b9600 | b19200 | b38400 | b115200
  deriving DecidableEq, Repr

/-- A time stamp (00 section 5.4). -/
structure Stamp where
  day : Nat
  second : Nat
  valid : Bool
  deriving DecidableEq, Repr

/-- The codes of a REPLY (R178, section 10.6). -/
inductive ReplyCode where
  | accepted | queued
  | notPermitted | starting | badOrder | badParameter | outOfWindow | lineBusy | lineOnTest | lineQueued
  | quarantined | noAllowance | queueFull | noMu | noSuchBus | notHolder | badState | tooLate | isProtected
  | unsupervised | noSuchTicket | storeBusy | noProgramme
  deriving DecidableEq, Repr

/-! ## Line Register (chapter 1) -/

/-- A class record (R10). -/
structure ClassRec where
  hazardLimit : Nat := 8000
  fdcWarn : Nat := 300
  fdcFail : Nat := 1000
  facWarn : Nat := 500
  facFail : Nat := 2000
  irWarn : Nat := 150000
  irFail : Nat := 20000
  capMin : Nat := 20
  cpk : Nat := 50
  clearPasses : Nat := 2
  isProtected : Bool := false
  inSweep : Bool := true
  deriving DecidableEq, Repr

/-- A line record (01 section 1.1); `lastRoutine` is `none` for NEVER, and `pendingMask` has one flag for each fault
class in the order of section 10.6. -/
structure LineRec where
  callState : CallState := .unknown
  cls : ClassId := 0
  onBus : Option BusId := none
  blocked : Bool := false
  queued : Bool := false
  quarantined : Bool := false
  pendingMask : Tab Bool 7 := Tab.replicate 7 false
  lastRoutine : Option Nat := none
  deriving DecidableEq, Repr

/-! ## Access Switch Controller (chapter 2) -/

/-- A bus record (R17, R58), with the end of the relay operation in flight (R18). `releasePending` keeps the cause of
the release through DRAINING and RELEASING (R38, R41). -/
structure BusRec where
  state : BusState := .free
  holder : Option Source := none
  holderTag : Option HolderTag := none
  line : Option LineId := none
  termination : Termination := .none
  boundMu : Option MuId := none
  grantProgramme : Option ProgId := none
  releasePending : Option Cause := none
  releaseTag : Option Byte := none
  terminateTag : Option Byte := none
  talkPair : Bool := false
  intrusion : Intrusion := .none
  owed : Option Owed := none
  intrudeTag : Option Byte := none
  holdStart : Option Stamp := none
  relayDue : Option Nat := none
  deriving DecidableEq, Repr

/-- What a request for a bus carries (R21, R27). -/
structure Request where
  source : Source
  tag : HolderTag
  line : LineId
  termination : Termination
  programme : Option ProgId
  deriving DecidableEq, Repr

/-- A wait-queue entry (R28): its priority is DESK for a desk's source and MC for MC. -/
structure WaitEntry where
  req : Request
  deadline : Nat
  deriving DecidableEq, Repr

/-- A desk window (R19). -/
structure Window where
  base : Nat
  count : Nat
  deriving DecidableEq, Repr

/-- The shadow of configuration page 0 (R164), with its defaults. -/
structure Config0 where
  operate : Nat := 12
  release : Nat := 10
  switch : Nat := 8
  windows : Tab Window 4 := ⟨[⟨0, 512⟩, ⟨512, 512⟩, ⟨1024, 512⟩, ⟨1536, 512⟩], rfl⟩
  allowDesk : Nat := 2
  allowMc : Nat := 2
  allowRs : Nat := 1
  busReserve : Nat := 1
  muReserve : Nat := 1
  deskWait : Nat := 30
  mcWait : Nat := 120
  grace : Nat := 10
  interval : Nat := 10
  standby : Nat := 15
  discharge : Nat := 100
  rate : LinkRate := .b19200
  deriving DecidableEq, Repr

/-! ## Measurement (chapters 4 and 5) -/

/-- The kinds of step (R72). -/
inductive StepKind where
  | vdc | vac | res | cap
  deriving DecidableEq, Repr

/-- The pairs a step measures across (R72). -/
inductive Pair where
  | ab | ae | be
  deriving DecidableEq, Repr

/-- The ranges of a resistance step (R79). -/
inductive Range where
  | r10k | r100k | r1m
  deriving DecidableEq, Repr

/-- The stored range field of a step: a range, or AUTO (R72). -/
inductive RangeSel where
  | fixed (r : Range)
  | auto
  deriving DecidableEq, Repr

/-- A step record as the library shadow holds it, its parameters as written (R72); pair code 3 is none of the pairs. -/
structure StepRec where
  kind : StepKind := .vdc
  pairCode : Fin 4 := 0
  source : Int := 0
  range : RangeSel := .fixed .r10k
  settle : Nat := 0
  samples : Nat := 0
  deriving DecidableEq, Repr

/-- An entry of the library shadow (R72). -/
structure ProgEntry where
  count : Nat := 0
  steps : Tab StepRec 10 := Tab.replicate 10 {}
  deriving DecidableEq, Repr

/-- A step of a snapshot, after the clamps of R75. -/
structure SnapStep where
  kind : StepKind
  pair : Pair
  source : Int
  range : RangeSel
  settle : Nat
  samples : Nat
  deriving DecidableEq, Repr

/-- The status of a step result (R82). -/
inductive StepStatus where
  | done | aborted | notRun
  deriving DecidableEq, Repr

/-- A step result (R82). -/
structure StepResult where
  index : Nat
  kind : StepKind
  pair : Pair
  status : StepStatus := .notRun
  value : Option Int := none
  range : Option Range := none
  clip : Bool := false
  isOver : Bool := false
  isUnder : Bool := false
  ranged : Bool := false
  verdict : Option Verdict := none
  distance : Option Nat := none
  deriving DecidableEq, Repr

/-- The phase accumulator (R90). -/
structure Accum where
  count : Nat := 0
  sum : Int := 0
  sumSq : Nat := 0
  clip : Bool := false
  deriving DecidableEq, Repr

/-- The phases: the precheck's two legs (R77), the single phase of VDC, VAC and CAP (R78, R80), and F, M and the
repeated M of RES (R79). -/
inductive Phase where
  | legAe | legBe | single | f | m | mAgain
  deriving DecidableEq, Repr

/-- The parts of a phase (R76). -/
inductive Stage where
  | setUp | settle | sampling
  deriving DecidableEq, Repr

/-- A programme context (R74), with what the step in flight has so far: the accumulator (R90), the quantities of its
ended phases, which are Vf and the Vm of a phase M taken once more (R95), and the precheck's first leg, the range and
RANGED (R77, R99). -/
structure Context where
  programme : ProgId
  steps : List SnapStep
  cls : ClassId
  classRec : ClassRec
  holder : Source
  tag : HolderTag
  bus : BusId
  line : LineId
  ticket : Bool
  stepIndex : Nat := 0
  phase : Phase := .legAe
  stage : Stage := .setUp
  due : Nat := 0
  acc : Accum := {}
  range : Range := .r100k
  ranged : Bool := false
  vf : Option Int := none
  vm : Option Int := none
  legAe : Option (Int × Bool) := none
  sourceApplied : Bool := false
  results : List StepResult
  deriving DecidableEq, Repr

/-- The state of a measuring unit (04 section 4.1). -/
inductive MuState where
  | standby | warming | ready | attached | measuring | discharging
  deriving DecidableEq, Repr

/-- A measuring unit (R68): its bus is the one the head's selector connects, `source` the volts of a source switched
on, `switchPair` the pair a closed discharge switch stands across. -/
structure MuRec where
  state : MuState := .standby
  bus : Option BusId := none
  warmUp : Option Nat := none
  standby : Option Nat := none
  discharge : Option Nat := none
  context : Option Context := none
  source : Option Int := none
  switchPair : Option Pair := none
  deriving DecidableEq, Repr

/-! ## Tickets (chapter 7) -/

/-- The states of a ticket (R126). -/
inductive TicketState where
  | opened | handed | cleared
  deriving DecidableEq, Repr

/-- Who cleared a ticket (R125). -/
inductive Clearer where
  | desk (d : DeskId)
  | mc
  | auto
  deriving DecidableEq, Repr

/-- A ticket, with the fields of R125. Its last value is `value` with `pair`, the pair of the VDC or VAC step that gave it
(R113), which the record of 10.6 has no place for (log 33). -/
structure Ticket where
  number : Nat
  line : LineId
  cls : FaultClass
  severity : Severity
  state : TicketState
  firstSource : Source
  firstSeen : Stamp
  lastSeen : Stamp
  repeats : Nat
  value : Int
  pair : Option Pair
  distance : Option Nat
  passes : Nat
  assignee : Option Nat
  note : Option Nat
  clearedBy : Option Clearer
  clearedAt : Option Stamp
  deriving DecidableEq, Repr

/-! ## Sweep and clock (chapter 8) -/

/-- The sweep states (R153). -/
inductive SweepState where
  | off | held | paused | waiting | active
  deriving DecidableEq, Repr

/-- The settings fields of the sweep record, the shadow of configuration page 1, with the defaults of R152. -/
structure SweepCfg where
  windowStart : Nat := 60
  windowEnd : Nat := 300
  first : Nat := 0
  last : Nat := 2047
  programme : ProgId := 0
  pacing : Nat := 5
  startEnabled : Bool := false
  deriving DecidableEq, Repr

/-- The working fields of the sweep record (R151); `pacing` is the expiry of a running timer and `none` when it has run
out; `lastState` is the state at the last derivation (log 25). -/
structure SweepRec where
  enabled : Bool := false
  mcHold : Bool := false
  cursor : Nat := 0
  pass : Nat := 0
  tested : Nat := 0
  skipped : Nat := 0
  faulted : Nat := 0
  closing : Bool := false
  rest : Bool := false
  pacing : Option Nat := none
  testNumber : Nat := 0
  lastState : SweepState := .off
  deriving DecidableEq, Repr

/-- The record of a running RS test (R157). -/
structure RsTest where
  bus : BusId
  line : LineId
  number : Nat
  pass : Nat
  deriving DecidableEq, Repr

/-- The time-of-day clock (R148); `secondDue` is when the second being counted ends. -/
structure Clock where
  day : Nat := 0
  second : Nat := 0
  valid : Bool := false
  secondDue : Nat := 0
  deriving DecidableEq, Repr

/-! ## Store (chapter 9) -/

/-- The phases of the Store Controller (R166). -/
inductive StorePhase where
  | quiescing | draining | loading | running
  deriving DecidableEq, Repr

/-- A page of the array: its data and its check (R164, R165). -/
structure Page where
  data : PageData
  check : BitVec 16
  deriving DecidableEq, Repr

/-- The pending settings write (R166). -/
structure PendingWrite where
  page : PageId
  data : PageData
  tag : Byte
  deriving DecidableEq, Repr

/-- The page in flight (R166). -/
structure InFlight where
  page : PageId
  data : PageData
  due : Nat
  deriving DecidableEq, Repr

/-- The bad pages counted by an autoload, by area (R167, R168). -/
structure BadCounts where
  config : Nat := 0
  cls : Nat := 0
  map : Nat := 0
  prog : Nat := 0
  ticket : Nat := 0
  deriving DecidableEq, Repr

/-- A page of an array that has never been written: every byte reads FFh (R165). -/
def blankPage : Page := ⟨Tab.replicate 32 0xFF, 0xFFFF⟩

/-- The Store Controller (R166), the array (R164), and the autoload's progress (R167): pages read, the time of the next
read, the bad pages so far, and the ticket pages loaded and not yet examined. -/
structure Store where
  phase : StorePhase := .loading
  resetCause : ResetCause := .por
  array : Tab Page 362 := Tab.replicate 362 blankPage
  settingsWrite : Option PendingWrite := none
  inFlight : Option InFlight := none
  dirty : Tab Bool 256 := Tab.replicate 256 false
  lastSlot : SlotId := 255
  loadIndex : Nat := 0
  loadDue : Nat := 1
  bad : BadCounts := {}
  image : List (SlotId × PageData) := []
  deriving DecidableEq, Repr

/-! ## Reports (chapter 10) -/

/-- A line number as a report gives it (R20): absolute, or desk-local, or absolute with the outside-window flag. -/
structure LineNo where
  number : Nat
  outside : Bool
  deriving DecidableEq, Repr

/-- A ticket as a report gives it: its line as the receiver numbers it (R143). -/
structure TicketView where
  ticket : Ticket
  line : LineNo
  deriving DecidableEq, Repr

/-- The reply to QUERY_LINE (R16). -/
structure LineView where
  line : LineNo
  callState : CallState
  cls : ClassId
  onBus : Option BusId
  holder : Option Source
  blocked : Bool
  queued : Bool
  quarantined : Bool
  pendingMask : Tab Bool 7
  lastRoutine : Option Nat
  deriving DecidableEq, Repr

/-- The reply to QUERY_BUS (R46, R58): the holder tag and whether an answer is owed go to M only. -/
structure BusView where
  state : BusState
  holder : Option Source
  line : Option LineNo
  termination : Termination
  boundMu : Option MuId
  releasePending : Option Cause
  intrusion : Intrusion
  holdStart : Option Stamp
  holderTag : Option HolderTag
  answerOwed : Option Bool
  deriving DecidableEq, Repr

/-- A phase as QUERY_MU names it: F, M, or the single phase of the other kinds (R89). -/
inductive PhaseView where
  | f | m | single
  deriving DecidableEq, Repr

/-- What QUERY_MU adds for a MEASURING unit (R89). -/
structure RunView where
  programme : ProgId
  stepIndex : Nat
  kind : StepKind
  phase : PhaseView
  deriving DecidableEq, Repr

/-- The reply to QUERY_MU (R89). -/
structure MuView where
  state : MuState
  bus : Option BusId
  holder : Option Source
  run : Option RunView
  deriving DecidableEq, Repr

/-- A summary of TICKET_LIST (R142). -/
structure TicketSummary where
  slot : SlotId
  number : Nat
  line : LineId
  cls : FaultClass
  severity : Severity
  state : TicketState
  deriving DecidableEq, Repr

/-- The RECORD reply to QUERY_SWEEP (R161): of the shadow the window, range, programme and pacing; `pacingLeft` is `none`
when the timer has run out, else whole seconds. -/
structure SweepView where
  state : SweepState
  enabled : Bool
  mcHold : Bool
  closing : Bool
  rest : Bool
  windowStart : Nat
  windowEnd : Nat
  first : Nat
  last : Nat
  programme : ProgId
  pacing : Nat
  pacingLeft : Option Nat
  cursor : Nat
  pass : Nat
  tested : Nat
  skipped : Nat
  faulted : Nat
  running : Nat
  listed : Nat
  day : Nat
  hour : Nat
  minute : Nat
  second : Nat
  valid : Bool
  deriving DecidableEq, Repr

/-- The data a REPLY carries for ACCEPTED or QUEUED. -/
inductive ReplyData where
  | none
  | bus (b : BusId)
  | line (v : LineView)
  | busRecord (v : BusView)
  | unit (v : MuView)
  | status (marker : Bool) (freeEntries : Nat) (supervised alm : Bool)
  | ticket (t : Option TicketView)
  | tickets (ts : List TicketSummary) (next : Option Nat)
  | sweep (v : SweepView)
  | retest (lines : List LineId) (listed : Nat)
  | page (d : PageData)
  deriving DecidableEq, Repr

/-- What a TICKET_EVENT tells (07 section 7.7). -/
inductive TicketEvent where
  | new (t : Ticket)
  | merged (t : Ticket)
  | raised (t : Ticket)
  | cleared (t : Ticket)
  | noted (t : Ticket) (d : DeskId)
  | purged (number : Nat) (line : LineId) (cls : FaultClass)
  | evicted (number : Nat) (line : LineId) (cls : FaultClass) (severity : Severity)
  deriving DecidableEq, Repr

/-- The reasons of FRAME_REJECT (R177). -/
inductive RejectReason where
  | length | check
  deriving DecidableEq, Repr

/-- The contents of a report, by kind (section 10.6); `worst` is `none` for the worst verdict NONE (R86). -/
inductive ReportBody where
  | reply (kind : Byte) (code : ReplyCode) (data : ReplyData)
  | frameReject (reason : RejectReason)
  | start (cause : ResetCause) (bad : BadCounts)
  | busGranted (bus : BusId) (line : LineNo) (term : Termination) (mu : Option MuId)
  | busReleased (cause : Option Cause) (bus : BusId) (line : LineNo)
  | waitExpired (cause : WaitCause) (line : LineNo)
  | terminationDone (bus : BusId) (line : LineNo) (term : Termination) (mu : Option MuId)
  | stepResult (prog : ProgId) (bus : BusId) (line : LineNo) (result : StepResult)
  | programmeEnd (prog : ProgId) (bus : BusId) (line : LineNo) (cause : EndCause) (worst : Option Verdict)
      (done remaining : Nat)
  | intrusion (bus : BusId) (line : LineNo) (grace : Nat) (isProtected : Bool)
  | intrusionDenied (bus : BusId) (line : LineNo)
  | intrusionWithdrawn (bus : BusId) (line : LineNo)
  | supervisionLost (cause : LapseCause)
  | supervisionRestored
  | block (line : LineId) (bus : Option BusId)
  | unblock (line : LineId) (bus : BusId)
  | intrudeAnswer (answer : IntrudeAnswer)
  | resyncBegin
  | resyncEnd
  | ticketEvent (e : TicketEvent)
  | ticketOverflow (line : LineId) (cls : FaultClass) (severity : Severity) (value : Int) (source : Source)
  | sweepPass (pass tested skipped faulted : Nat)
  | writeDone (page : PageId)
  deriving DecidableEq, Repr

/-- A report as it stands in a queue (R179, R180): the notices-lost flag and the order-tag flag of its report flags,
its tag, and its contents. -/
structure Report where
  lost : Bool
  orderTag : Bool
  tag : Byte
  body : ReportBody
  deriving DecidableEq, Repr

/-- The receive assembly (R177): hunting, or the bytes received so far from the length byte on, with the length once
it has been received. -/
inductive Assembly where
  | hunting
  | started
  | assembling (length : Nat) (bytes : List Byte)
  deriving DecidableEq, Repr

/-- What OLK holds for a port (chapter 10), and whether its receive line is at space after its port reset (R181). -/
structure PortRec where
  assembly : Assembly := .hunting
  queue : List Report := []
  lost : Bool := false
  inBreak : Bool := false
  deriving DecidableEq, Repr

/-! ## The whole part -/

/-- The library shadow's entry for programme 0 when its pages are blank or bad: the standard line test of R72. -/
def standardTest : ProgEntry :=
  { count := 8
    steps := ⟨[⟨.vdc, 1, 0, .fixed .r10k, 100, 16⟩, ⟨.vdc, 2, 0, .fixed .r10k, 100, 16⟩,
      ⟨.vac, 1, 0, .fixed .r10k, 100, 16⟩, ⟨.vac, 2, 0, .fixed .r10k, 100, 16⟩,
      ⟨.res, 0, 100, .auto, 100, 16⟩, ⟨.res, 1, 100, .auto, 100, 16⟩, ⟨.res, 2, 100, .auto, 100, 16⟩,
      ⟨.cap, 0, 50, .fixed .r10k, 200, 16⟩, {}, {}], rfl⟩ }

/-- The default entry of a programme (R72). -/
def defaultEntry (p : ProgId) : ProgEntry := if p = 0 then standardTest else {}

/-- The state of the part. -/
structure State where
  /-- the crystal's time, in units of 0.1 ms (the model's own, log 1) -/
  now : Nat := 0
  /-- OLK: the six ports D0 to D3, X, M -/
  ports : Tab PortRec 6 := Tab.replicate 6 {}
  /-- OLK: the rate in use on every link (R183) -/
  linkRate : LinkRate := .b19200
  /-- LRG: the line records (R1) -/
  lines : Tab LineRec 2048 := Tab.replicate 2048 {}
  /-- LRG: the class shadow (R10) -/
  classes : Tab ClassRec 8 := Tab.replicate 8 {}
  /-- ASC: the bus records (R17) -/
  buses : Tab BusRec 4 := Tab.replicate 4 {}
  /-- ASC: the wait queue (R28) -/
  waitQueue : List WaitEntry := []
  /-- the shadow of configuration page 0 (R164) -/
  config : Config0 := {}
  /-- EXS: whether link X is SUPERVISED (R47) -/
  supervised : Bool := false
  /-- EXS: the supervision timer's expiry, `none` when stopped (R47) -/
  supTimer : Option Nat := none
  /-- EXS: the lapse owed at the end of autoload (R50) -/
  lapseOwed : Option LapseCause := none
  /-- a lapse taken by an overflow in this event, whose releases and notices still follow (the model's own, log 7) -/
  lapseInHand : Option LapseCause := none
  /-- MSQ0 and MSQ1 with their heads (R68) -/
  units : Tab MuRec 2 := Tab.replicate 2 {}
  /-- the library shadow (R72) -/
  library : Tab ProgEntry 16 := Tab.ofFn defaultEntry
  /-- VTU: the ticket table (R125) -/
  tickets : Tab (Option Ticket) 256 := Tab.replicate 256 none
  /-- VTU: the number counter (R128) -/
  counter : Nat := 1
  /-- VTU: the ALM output, set when asserted (R146) -/
  alm : Bool := false
  /-- RSS: the sweep settings shadow (R152) -/
  sweepCfg : SweepCfg := {}
  /-- RSS: the sweep record's working fields (R151) -/
  sweep : SweepRec := {}
  /-- RSS: the retest list (R158) -/
  retest : List LineId := []
  /-- RSS: the records of running RS tests (R157) -/
  rsTests : List RsTest := []
  /-- RSS: the time-of-day clock (R148) -/
  clock : Clock := {}
  /-- STC (R166) -/
  store : Store := {}
  /-- the free values drawn so far (the model's own, logs 12 and 33) -/
  draws : Nat := 0
  /-- the commands waiting, first in, first out -/
  pending : List Instr := []
  deriving DecidableEq, Repr

/-- The part right after POR, with an array that has never been written (R165, log 5): every field at the value the
rules give for POR, the working shadows at the defaults (log 4), the autoload about to read its first page. -/
def State.reset : State := {}

/-- The reasons a step can stop with a fault: none. Errors of the part are refusal codes and notices (00 section 5.6),
and every command has a next state. -/
inductive Fault where
  deriving DecidableEq, Repr

/-- The reasons a step can refuse a command. -/
inductive Refusal where
  /-- raised by `exec` alone, for a command that has no meaning yet (safe: the model stops); no arm raises it now -/
  | notModelled (mnemonic : String)
  deriving DecidableEq, Repr

end Sys2Proof.Machine
end

