-- ==== Sys2Proof/Machine/Operands.lean ====
section
/-!
DEFINITION. The operands of the orders: the codes of section 10.6, the numbers that name lines, buses, units,
programmes, slots and pages, the port roles (R176), and the ports of the sources.
-/

namespace Sys2Proof.Machine

/-- The number as an index below `n`, if it is one. -/
def finOf? (n k : Nat) : Option (Fin n) := if h : k < n then some ⟨k, h⟩ else none

/-- The absolute line a number names, 0 to 2047. -/
def lineOf? (k : Nat) : Option LineId := finOf? 2048 k

/-- The bus a number names, 0 to 3. -/
def busOf? (k : Nat) : Option BusId := finOf? 4 k

/-- The measuring unit a number names, 0 or 1. -/
def unitOf? (k : Nat) : Option MuId := finOf? 2 k

/-- The programme a number names, 0 to 15. -/
def progOf? (k : Nat) : Option ProgId := finOf? 16 k

/-- The ticket slot a number names, 0 to 255. -/
def slotOf? (k : Nat) : Option SlotId := finOf? 256 k

/-- The page a number names, 0 to 361. -/
def pageOf? (k : Nat) : Option PageId := finOf? 362 k

/-- The termination codes: NONE 0, MU 1, TALK 2. -/
def termOfCode : Nat → Option Termination
  | 0 => some .none
  | 1 => some .mu
  | 2 => some .talk
  | _ => none

/-- The call states an order can report: IDLE 0, BUSY 1, RINGING 2 (UNKNOWN cannot be ordered, R53). -/
def callStateOfCode : Nat → Option CallState
  | 0 => some .idle
  | 1 => some .busy
  | 2 => some .ringing
  | _ => none

/-- The fault class codes, HAZARD 0 to OPEN 6. -/
def faultClassOfCode : Nat → Option FaultClass
  | 0 => some .hazard
  | 1 => some .foreignDc
  | 2 => some .foreignAc
  | 3 => some .lowIrAb
  | 4 => some .lowIrAe
  | 5 => some .lowIrBe
  | 6 => some .openLine
  | _ => none

/-- The place of a fault class in the order of section 10.6. -/
def FaultClass.index : FaultClass → Fin 7
  | .hazard => 0
  | .foreignDc => 1
  | .foreignAc => 2
  | .lowIrAb => 3
  | .lowIrAe => 4
  | .lowIrBe => 5
  | .openLine => 6

/-- The fault classes in the order in which VTU applies them (R118). -/
def FaultClass.all : List FaultClass :=
  [.hazard, .foreignDc, .foreignAc, .lowIrAb, .lowIrAe, .lowIrBe, .openLine]

/-- The byte of a REPLY's code (section 10.6). -/
def ReplyCode.byte : ReplyCode → Byte
  | .accepted => 0x00
  | .queued => 0x01
  | .notPermitted => 0x10
  | .starting => 0x11
  | .badOrder => 0x12
  | .badParameter => 0x13
  | .outOfWindow => 0x14
  | .lineBusy => 0x15
  | .lineOnTest => 0x16
  | .lineQueued => 0x17
  | .quarantined => 0x18
  | .noAllowance => 0x19
  | .queueFull => 0x1A
  | .noMu => 0x1B
  | .noSuchBus => 0x1C
  | .notHolder => 0x1D
  | .badState => 0x1E
  | .tooLate => 0x1F
  | .isProtected => 0x20
  | .unsupervised => 0x21
  | .noSuchTicket => 0x22
  | .storeBusy => 0x23
  | .noProgramme => 0x24

/-- Whether a port is a desk's. -/
def portIsDesk : Port → Bool
  | .desk _ => true
  | .x => false
  | .m => false

/-- Whether a port is a desk's or the maintenance centre's. -/
def portIsDeskOrM : Port → Bool
  | .desk _ => true
  | .x => false
  | .m => true

/-- Which ports may give an order: the Ports column of the kind code table (R176, section 10.6). -/
def orderPermits : OrderKind → Port → Bool
  | .seize, p => portIsDesk p
  | .cancelWait, p => portIsDeskOrM p
  | .terminate, p => portIsDesk p
  | .release, p => portIsDesk p
  | .run, p => portIsDesk p
  | .abort, p => portIsDesk p
  | .keep, p => portIsDesk p
  | .demandTest, p => p == .m
  | .lineState, p => p == .x
  | .lineStateIdleRange, p => p == .x
  | .intrude, p => p == .x
  | .intrudeCancel, p => p == .x
  | .supervise, p => p == .x
  | .queryLine, _ => true
  | .queryBus, p => portIsDeskOrM p
  | .queryMu, p => portIsDeskOrM p
  | .queryStatus, _ => true
  | .ticketNext, p => p == .m
  | .ticketHand, p => p == .m
  | .ticketClear, p => portIsDeskOrM p
  | .ticketPurge, p => p == .m
  | .queryTicket, p => portIsDeskOrM p
  | .ticketList, p => p == .m
  | .ticketNote, p => portIsDesk p
  | .setClock, p => p == .m
  | .sweepSet, p => p == .m
  | .sweepEnable, p => p == .m
  | .sweepDisable, p => p == .m
  | .sweepHold, p => p == .m
  | .sweepResume, p => p == .m
  | .sweepNewPass, p => p == .m
  | .querySweep, p => p == .m
  | .settingsWrite, p => p == .m
  | .settingsRead, p => p == .m
  | .restart, p => p == .m

/-- The place of a port's record: D0 to D3, X, M. -/
def portIndex : Port → Fin 6
  | .desk d => ⟨d.val, by omega⟩
  | .x => 4
  | .m => 5

/-- Every port, in the order of their records. -/
def allPorts : List Port := [.desk 0, .desk 1, .desk 2, .desk 3, .x, .m]

/-- The ports that receive SUPERVISION_LOST and SUPERVISION_RESTORED (R51, R52). -/
def desksAndM : List Port := [.desk 0, .desk 1, .desk 2, .desk 3, .m]

/-- Every bus, lowest number first. -/
def allBuses : List BusId := [0, 1, 2, 3]

/-- Every measuring unit, lowest number first. -/
def allUnits : List MuId := [0, 1]

/-- The port of a source; RS has none (00 section 1.3). -/
def Source.port? : Source → Option Port
  | .desk d => some (.desk d)
  | .mc => some .m
  | .rs => none

/-- The source a port's master is; X is none (00 section 1.3). -/
def portSource? : Port → Option Source
  | .desk d => some (.desk d)
  | .x => none
  | .m => some .mc

/-- MC and RS are automated holders (00 section 1.3). -/
def Source.automated : Source → Bool
  | .desk _ => false
  | .mc => true
  | .rs => true

/-- The order tag in a holder's tag; a sweep test number is none. -/
def HolderTag.order? : HolderTag → Option Byte
  | .order t => some t
  | .test _ => none

end Sys2Proof.Machine
end

