-- ==== Sys2Proof/Machine/Formats.lean ====
section
/-!
DEFINITION. The layouts of section 10.6: configuration, class, map and programme pages in both directions with the
clamps of their rules, the ticket record as stored and as loaded (R147), the step result, and the kind codes and flags
of reports.
-/

namespace Sys2Proof.Machine

/-! ## Configuration page 0 (R164) -/

/-- The link rate of a stored code; any other code loads as 19200 (R164). -/
def rateOfCode : Nat → LinkRate
  | 0 => .b9600
  | 1 => .b19200
  | 2 => .b38400
  | 3 => .b115200
  | _ => .b19200

/-- The stored code of a link rate. -/
def LinkRate.code : LinkRate → Nat
  | .b9600 => 0
  | .b19200 => 1
  | .b38400 => 2
  | .b115200 => 3

/-- A window as loaded: the base held to 0 to 2047, then the count held to 1 to 2048 minus the base (R19). -/
def loadWindow (base count : Nat) : Window :=
  let b := min base 2047
  ⟨b, clampNat 1 (2048 - b) count⟩

/-- Configuration page 0 as loaded into the shadows (R164). -/
def loadConfig0 (d : PageData) : Config0 :=
  { operate := clampNat 5 50 (pageByte d 0).toNat
    release := clampNat 5 50 (pageByte d 1).toNat
    switch := clampNat 5 50 (pageByte d 2).toNat
    windows := Tab.ofFn fun i => loadWindow (page16 d (3 + 4 * i.val)) (page16 d (5 + 4 * i.val))
    allowDesk := clampNat 0 4 (pageByte d 19).toNat
    allowMc := clampNat 0 4 (pageByte d 20).toNat
    allowRs := clampNat 0 4 (pageByte d 21).toNat
    busReserve := clampNat 0 3 ((pageByte d 22).toNat % 16)
    muReserve := (pageByte d 22).toNat / 16 % 2
    deskWait := clampNat 5 120 (pageByte d 23).toNat
    mcWait := clampNat 10 600 (page16 d 24)
    grace := clampNat 2 60 (pageByte d 26).toNat
    interval := clampNat 1 60 (pageByte d 27).toNat
    standby := (pageByte d 28).toNat
    discharge := clampNat 50 500 (page16 d 29)
    rate := rateOfCode (pageByte d 31).toNat }

/-- Configuration page 0 as SETTINGS_READ gives it (R171). -/
def config0Page (c : Config0) : PageData :=
  pageOfBytes <|
    [byteOf c.operate, byteOf c.release, byteOf c.switch]
    ++ (c.windows.items.map fun w => bytes16 w.base ++ bytes16 w.count).flatten
    ++ [byteOf c.allowDesk, byteOf c.allowMc, byteOf c.allowRs, byteOf (c.busReserve + 16 * c.muReserve),
        byteOf c.deskWait]
    ++ bytes16 c.mcWait
    ++ [byteOf c.grace, byteOf c.interval, byteOf c.standby]
    ++ bytes16 c.discharge ++ [byteOf c.rate.code]

/-! ## Configuration page 1 (R152) -/

/-- The programme number held to 0 to 15 (R152). -/
def heldProgramme (n : Nat) : ProgId := ⟨min n 15, by omega⟩

/-- Configuration page 1 as loaded (R152): a range last below the range first is raised to it. -/
def loadConfig1 (d : PageData) : SweepCfg :=
  let first := min (page16 d 4) 2047
  { windowStart := min (page16 d 0) 1439
    windowEnd := min (page16 d 2) 1439
    first := first
    last := max first (min (page16 d 6) 2047)
    programme := heldProgramme (pageByte d 8).toNat
    pacing := clampNat 1 600 (page16 d 9)
    startEnabled := pageByte d 11 != 0 }

/-- The data of configuration page 1 formed from values as given (R159, R171). -/
def config1Page (ws we first last prog pacing : Nat) (startEnabled : Bool) : PageData :=
  pageOfBytes (bytes16 ws ++ bytes16 we ++ bytes16 first ++ bytes16 last ++ [byteOf prog] ++ bytes16 pacing
    ++ [byteOf (flagNat startEnabled)])

/-- Configuration page 1 as SETTINGS_READ gives it (R171). -/
def sweepPage (c : SweepCfg) : PageData :=
  config1Page c.windowStart c.windowEnd c.first c.last c.programme.val c.pacing c.startEnabled

/-! ## Class pages (R10, R11) -/

/-- The order of warning and failure levels (R11). -/
def orderLevels (c : ClassRec) : ClassRec :=
  { c with fdcWarn := min c.fdcWarn c.fdcFail, facWarn := min c.facWarn c.facFail, irWarn := max c.irWarn c.irFail }

/-- A class page's fields after the clamps of R10. -/
def clampClass (d : PageData) : ClassRec :=
  { hazardLimit := clampNat 100 20000 (page16 d 0)
    fdcWarn := clampNat 1 20000 (page16 d 2)
    fdcFail := clampNat 1 20000 (page16 d 4)
    facWarn := clampNat 1 20000 (page16 d 6)
    facFail := clampNat 1 20000 (page16 d 8)
    irWarn := clampNat 0 1000000000 (page32 d 10)
    irFail := clampNat 0 1000000000 (page32 d 14)
    capMin := page16 d 18
    cpk := clampNat 20 100 (pageByte d 20).toNat
    clearPasses := clampNat 0 7 (pageByte d 21).toNat
    isProtected := pageByte d 22 != 0
    inSweep := pageByte d 23 != 0 }

/-- A class page as loaded (R10, R11). -/
def loadClass (d : PageData) : ClassRec := orderLevels (clampClass d)

/-- A class page as SETTINGS_READ gives it (R171). -/
def classPage (c : ClassRec) : PageData :=
  pageOfBytes (bytes16 c.hazardLimit ++ bytes16 c.fdcWarn ++ bytes16 c.fdcFail ++ bytes16 c.facWarn
    ++ bytes16 c.facFail ++ bytes32 c.irWarn ++ bytes32 c.irFail ++ bytes16 c.capMin
    ++ [byteOf c.cpk, byteOf c.clearPasses, byteOf (flagNat c.isProtected), byteOf (flagNat c.inSweep)])

/-! ## Map pages (R13) -/

/-- A class byte as loaded, above 7 held to 7 (R13). -/
def loadClassId (b : Byte) : ClassId := ⟨min b.toNat 7, by omega⟩

/-! ## Programme pages (R72) -/

/-- The kind of a stored code. -/
def kindOfCode : Nat → StepKind
  | 0 => .vdc
  | 1 => .vac
  | 2 => .res
  | _ => .cap

/-- The code of a kind. -/
def StepKind.code : StepKind → Nat
  | .vdc => 0
  | .vac => 1
  | .res => 2
  | .cap => 3

/-- The range of a stored code. -/
def rangeOfCode : Nat → RangeSel
  | 0 => .fixed .r10k
  | 1 => .fixed .r100k
  | 2 => .fixed .r1m
  | _ => .auto

/-- The code of a range. -/
def Range.code : Range → Nat
  | .r10k => 0
  | .r100k => 1
  | .r1m => 2

/-- The code of a stored range field. -/
def RangeSel.code : RangeSel → Nat
  | .fixed r => r.code
  | .auto => 3

/-- The pair code's two bits as an index. -/
def pairCodeOf (n : Nat) : Fin 4 := ⟨n % 4, by omega⟩

/-- The step record at byte `i` of a programme page, as stored (R72). -/
def loadStep (d : PageData) (i : Nat) : StepRec :=
  let b := (pageByte d i).toNat
  { kind := kindOfCode (b / 64 % 4)
    pairCode := pairCodeOf (b / 16)
    source := signed8 (pageByte d (i + 1))
    range := rangeOfCode (b % 4)
    settle := page16 d (i + 2)
    samples := (pageByte d (i + 4)).toNat }

/-- The six bytes of a step record. -/
def stepBytes (r : StepRec) : List Byte :=
  [byteOf (r.kind.code * 64 + r.pairCode.val * 16 + r.range.code), byteOfInt r.source] ++ bytes16 r.settle
    ++ [byteOf r.samples, 0]

/-- A programme entry with its first page loaded: the step count, above 10 held to 10, and steps 1 to 5 (R72). -/
def loadFirstPage (d : PageData) (e : ProgEntry) : ProgEntry :=
  { count := min (pageByte d 0).toNat 10
    steps := e.steps.mapIdx fun i r => if i.val < 5 then loadStep d (1 + 6 * i.val) else r }

/-- A programme entry with its second page loaded: steps 6 to 10 (R72). -/
def loadSecondPage (d : PageData) (e : ProgEntry) : ProgEntry :=
  { e with steps := e.steps.mapIdx fun i r => if 5 ≤ i.val then loadStep d (6 * (i.val - 5)) else r }

/-- A programme entry with the default of its first page (R167). -/
def defaultFirstPage (p : ProgId) (e : ProgEntry) : ProgEntry :=
  { count := (defaultEntry p).count
    steps := e.steps.mapIdx fun i r => if i.val < 5 then (defaultEntry p).steps.get i else r }

/-- A programme entry with the default of its second page (R167). -/
def defaultSecondPage (p : ProgId) (e : ProgEntry) : ProgEntry :=
  { e with steps := e.steps.mapIdx fun i r => if 5 ≤ i.val then (defaultEntry p).steps.get i else r }

/-- The first page of a programme as SETTINGS_READ gives it (R72, R171). -/
def firstPage (e : ProgEntry) : PageData :=
  pageOfBytes (byteOf e.count :: ((e.steps.items.take 5).map stepBytes).flatten)

/-- The second page of a programme as SETTINGS_READ gives it (R72, R171). -/
def secondPage (e : ProgEntry) : PageData :=
  pageOfBytes ((e.steps.items.drop 5).map stepBytes).flatten

/-! ## Ticket records (section 10.6, R147) -/

/-- The code of a severity: MINOR 1, MAJOR 2, CRITICAL 3. -/
def Severity.code : Severity → Nat
  | .minor => 1
  | .major => 2
  | .critical => 3

/-- The severity of a code. -/
def severityOfCode : Nat → Option Severity
  | 1 => some .minor
  | 2 => some .major
  | 3 => some .critical
  | _ => none

/-- The code of a ticket state: OPEN 1, HANDED 2, CLEARED 3. -/
def TicketState.code : TicketState → Nat
  | .opened => 1
  | .handed => 2
  | .cleared => 3

/-- The ticket state of a code. -/
def ticketStateOfCode : Nat → Option TicketState
  | 1 => some .opened
  | 2 => some .handed
  | 3 => some .cleared
  | _ => none

/-- The code of a source: D0 to D3 0 to 3, MC 4, RS 5. -/
def Source.code : Source → Nat
  | .desk d => d.val
  | .mc => 4
  | .rs => 5

/-- The source of a code. -/
def sourceOfCode (n : Nat) : Option Source :=
  match n with
  | 4 => some .mc
  | 5 => some .rs
  | k => (finOf? 4 k).map Source.desk

/-- The code of who cleared a ticket: D0 to D3 0 to 3, MC 4, AUTO 6. -/
def Clearer.code : Clearer → Nat
  | .desk d => d.val
  | .mc => 4
  | .auto => 6

/-- Who cleared a ticket, of a code. -/
def clearerOfCode (n : Nat) : Option Clearer :=
  match n with
  | 4 => some .mc
  | 6 => some .auto
  | k => (finOf? 4 k).map Clearer.desk

/-- The stamp of a ticket's absent field: zeros. -/
def noStamp : Stamp := ⟨0, 0, false⟩

/-- The four bytes of a stamp in a ticket record: day, and bits 15 to 0 of the second. -/
def stampBytes (t : Stamp) : List Byte := bytes16 t.day ++ bytes16 (t.second % 65536)

/-- Byte 6 of a ticket record: the valid flags and bits 16 of the seconds of its three stamps. -/
def stampFlags (a b c : Stamp) : Nat :=
  flagNat a.valid + 2 * (a.second / 65536 % 2) + 4 * flagNat b.valid + 8 * (b.second / 65536 % 2)
    + 16 * flagNat c.valid + 32 * (c.second / 65536 % 2)

/-- A ticket record as stored in its page and as reported, with the line number given (section 10.6). -/
def ticketBytes (t : Ticket) (line : Nat) : List Byte :=
  let dist := t.distance.getD 0
  let cleared := t.clearedAt.getD noStamp
  bytes16 t.number
    ++ bytes16 (t.severity.code * 16384 + t.cls.index.val * 2048 + line % 2048)
    ++ [byteOf (t.state.code * 64 + t.firstSource.code * 8 + (t.clearedBy.map Clearer.code).getD 0),
        byteOf (flagNat t.assignee.isSome * 128 + flagNat t.note.isSome * 64 + t.passes % 8 * 8
          + dist / 65536 % 2 * 4),
        byteOf (stampFlags t.firstSeen t.lastSeen cleared),
        byteOf t.repeats]
    ++ bytesOfInt32 t.value ++ bytes16 (dist % 65536) ++ bytes16 (t.assignee.getD 0) ++ bytes16 (t.note.getD 0)
    ++ stampBytes t.firstSeen ++ stampBytes t.lastSeen ++ stampBytes cleared

/-- The page of a ticket slot: its ticket, or zeros for an empty slot (R164). -/
def slotPage : Option Ticket → PageData
  | none => pageOfBytes []
  | some t => pageOfBytes (ticketBytes t t.line.val)

/-- A stamp of a ticket record: its four bytes at `i`, its flags at bits `f` and `f + 1` of byte 6. -/
def loadStamp (d : PageData) (i f : Nat) : Stamp :=
  let flags := (pageByte d 6).toNat
  ⟨page16 d i, page16 d (i + 2) + 65536 * flagNat (bitOf flags (f + 1)), bitOf flags f⟩

/-- The cleared-by code of a ticket record. -/
def clearerCode (d : PageData) : Nat := (pageByte d 4).toNat % 8

/-- The distance field of a ticket record. -/
def storedDistance (d : PageData) : Nat := page16 d 12 + 65536 * flagNat (bitOf (pageByte d 5).toNat 2)

/-- The line field of a ticket record. -/
def storedLine (d : PageData) : LineId := ⟨page16 d 2 % 2048, by omega⟩

/-- Who cleared a stored ticket: none outside CLEARED; no value where a CLEARED one holds no code of R125. -/
def storedClearer (state : TicketState) (d : PageData) : Option (Option Clearer) :=
  if state = .cleared then (clearerOfCode (clearerCode d)).map some else some none

/-- The fields of a stored record taken as R147 corrects them, its coded fields known. The record does not hold
the pair of the last value; the autoload's completion gives it (`State.withLoadedPair`). -/
def ticketFields (d : PageData) (severity : Severity) (cls : FaultClass) (state : TicketState) (source : Source)
    (clearer : Option Clearer) : Ticket :=
  let b5 := (pageByte d 5).toNat
  { number := page16 d 0
    line := storedLine d
    cls := cls
    severity := if cls = .hazard then .critical else severity
    state := state
    firstSource := source
    firstSeen := loadStamp d 18 0
    lastSeen := loadStamp d 22 2
    repeats := max 1 (pageByte d 7).toNat
    value := signed32 (page32 d 8)
    pair := none
    distance := if cls = .openLine then some (storedDistance d) else none
    passes := b5 / 8 % 8
    assignee := if bitOf b5 7 then some (page16 d 14) else none
    note := if bitOf b5 6 then some (page16 d 16) else none
    clearedBy := clearer
    clearedAt := if state = .cleared then some (loadStamp d 26 4) else none }

/-- The ticket of a stored record after the corrections of R147: none where it is discarded for a number of 0 or a
fault class, severity, state, first source or (in a CLEARED ticket) cleared-by outside those of R125. -/
def loadTicket (d : PageData) : Option Ticket := do
  let severity ← severityOfCode (page16 d 2 / 16384 % 4)
  let cls ← faultClassOfCode (page16 d 2 / 2048 % 8)
  let state ← ticketStateOfCode ((pageByte d 4).toNat / 64 % 4)
  let source ← sourceOfCode ((pageByte d 4).toNat / 8 % 8)
  let clearer ← storedClearer state d
  if page16 d 0 = 0 then none else some (ticketFields d severity cls state source clearer)

/-- Whether the loading of a kept ticket corrected its stored record (R147, log 17): a repeat count of 0, a severity
other than CRITICAL on HAZARD, a distance outside OPEN, a cleared-by or cleared stamp outside CLEARED. -/
def ticketCorrected (d : PageData) (t : Ticket) : Bool :=
  (pageByte d 7).toNat == 0
    || (t.cls == .hazard && page16 d 2 / 16384 % 4 != Severity.critical.code)
    || (t.cls != .openLine && storedDistance d != 0)
    || (t.state != .cleared && (clearerCode d != 0 || loadStamp d 26 4 != noStamp))

/-- Whether a ticket page holds an empty slot: 32 zero bytes (R167). -/
def isEmptySlotPage (d : PageData) : Bool := d.items.all (· == 0)

/-! ## Step results and reports (section 10.6) -/

/-- The code of a pair. -/
def Pair.code : Pair → Nat
  | .ab => 0
  | .ae => 1
  | .be => 2

/-- The code of a step status. -/
def StepStatus.code : StepStatus → Nat
  | .done => 0
  | .aborted => 1
  | .notRun => 2

/-- The code of a verdict. -/
def Verdict.code : Verdict → Nat
  | .pass => 0
  | .marginal => 1
  | .fault => 2
  | .hazard => 3

/-- A step result as STEP_RESULT carries it: ten bytes, step 0 as VDC, range none 3, verdict none 7. -/
def stepResultBytes (r : StepResult) : List Byte :=
  let dist := r.distance.getD 0
  [byteOf r.index,
   byteOf ((if r.index = 0 then 0 else r.kind.code) * 64 + r.pair.code * 16 + r.status.code * 4
     + (r.range.map Range.code).getD 3),
   byteOf (flagNat r.clip + 2 * flagNat r.isOver + 4 * flagNat r.isUnder + 8 * flagNat r.ranged
     + 16 * (r.verdict.map Verdict.code).getD 7)]
    ++ bytesOfInt32 (r.value.getD 0) ++ [byteOf (dist / 65536)] ++ bytes16 (dist % 65536)

/-- The kind code of a report. -/
def ReportBody.kindCode : ReportBody → Byte
  | .reply _ _ _ => 0x80
  | .frameReject _ => 0x81
  | .start _ _ => 0x82
  | .busGranted _ _ _ _ => 0x83
  | .busReleased _ _ _ => 0x84
  | .waitExpired _ _ => 0x85
  | .terminationDone _ _ _ _ => 0x86
  | .stepResult _ _ _ _ => 0x87
  | .programmeEnd _ _ _ _ _ _ _ => 0x88
  | .intrusion _ _ _ _ => 0x89
  | .intrusionDenied _ _ => 0x8A
  | .intrusionWithdrawn _ _ => 0x8B
  | .supervisionLost _ => 0x8C
  | .supervisionRestored => 0x8D
  | .block _ _ => 0x90
  | .unblock _ _ => 0x91
  | .intrudeAnswer _ => 0x92
  | .resyncBegin => 0x93
  | .resyncEnd => 0x94
  | .ticketEvent _ => 0xA0
  | .ticketOverflow _ _ _ _ _ => 0xA1
  | .sweepPass _ _ _ _ => 0xA2
  | .writeDone _ => 0xA3

/-- The report flags byte: bit 0 notices-lost, bit 1 the tag is an order's (section 10.6). -/
def Report.flagsByte (r : Report) : Byte := byteOf (flagNat r.lost + 2 * flagNat r.orderTag)

/-- The byte of a FRAME_REJECT's reason: LENGTH 1, CHECK 2 (section 10.6). -/
def RejectReason.byte : RejectReason → Byte
  | .length => 1
  | .check => 2

/-- The 16-bit line field of a report: the number in bits 10 to 0, the outside-window flag in bit 15. -/
def LineNo.field (l : LineNo) : Nat := l.number % 2048 + 32768 * flagNat l.outside

/-- A time stamp as reported: day in 2 bytes, then the valid flag in bit 23 and the second in bits 16 to 0. -/
def reportStamp (t : Stamp) : List Byte :=
  bytes16 t.day ++ [byteOf (flagNat t.valid * 128 + t.second / 65536 % 2)] ++ bytes16 (t.second % 65536)

end Sys2Proof.Machine
end

