-- ==== Sys2Proof/Machine/Arithmetic.lean ====
section
/-!
DEFINITION. The measurement arithmetic of chapter 5: samples and the accumulator, the rounded mean, RMS, resistance,
range test, capacitance and distance. All of it is exact whole-number arithmetic; `/` on Int with a positive divisor
is the floor of the quotient.
-/

namespace Sys2Proof.Machine

/-- The full scale of a sample, in 10 mV (R91). -/
def sampleLimit : Int := 20000

/-- A raw sample clipped to the full scale (R91). -/
def clipSample (raw : Int) : Int :=
  if raw < -sampleLimit then -sampleLimit else if sampleLimit < raw then sampleLimit else raw

/-- Whether a raw sample is clipped; exactly plus or minus 20000 is not (R91). -/
def isClipped (raw : Int) : Bool := raw < -sampleLimit || sampleLimit < raw

/-- The accumulator with one more sample (R91). -/
def Accum.add (a : Accum) (raw : Int) : Accum :=
  { count := a.count + 1
    sum := a.sum + clipSample raw
    sumSq := a.sumSq + (clipSample raw).natAbs * (clipSample raw).natAbs
    clip := a.clip || isClipped raw }

/-- The rounded mean of N samples, floor((sum + N/2) / N) (R92). -/
def meanOf (sum : Int) (n : Nat) : Int := (sum + (n / 2 : Nat)) / (n : Int)

/-- The rounded mean of a phase (R92). -/
def Accum.mean (a : Accum) : Int := meanOf a.sum a.count

/-- The integer square root found bit by bit, from bit `b - 1` of the root downward, given the root `r` so far. -/
def isqrtFrom (v : Nat) : Nat → Nat → Nat
  | 0, r => r
  | b + 1, r =>
    if (r + 2 ^ b) * (r + 2 ^ b) ≤ v then isqrtFrom v b (r + 2 ^ b) else isqrtFrom v b r

/-- The integer square root (R94), exact for every v below 2^32 and so up to 400,000,000. -/
def isqrt (v : Nat) : Nat := isqrtFrom v 16 0

/-- The RMS of the samples' deviation from their mean (R93). -/
def Accum.rms (a : Accum) : Nat :=
  let m := a.mean
  let figure : Int := ((a.sumSq / a.count : Nat) : Int) - m * m
  min (isqrt figure.toNat) 20000

/-- The sense resistor of a range, in ohms (R79, R96). -/
def Range.ohms : Range → Nat
  | .r10k => 10000
  | .r100k => 100000
  | .r1m => 1000000

/-- The inputs of the resistance computation (R96): Vs positive, num and den. -/
structure ResInputs where
  vs : Int
  num : Int
  den : Int
  deriving DecidableEq, Repr

/-- The inputs formed from Vf, Vm and the source volts, all negated when the source is negative (R96). -/
def resInputs (vf vm source : Int) : ResInputs :=
  let vs := source * 100
  if vs < 0 then ⟨-vs, -vm - -vf, -vs - -vm⟩ else ⟨vs, vm - vf, vs - vm⟩

/-- A resistance with its OVER and UNDER flags. -/
structure Resistance where
  ohms : Nat
  isOver : Bool
  isUnder : Bool
  deriving DecidableEq, Repr

/-- The greatest resistance reported (R97). -/
def maxOhms : Nat := 1000000000

/-- The resistance of a RES step (R97, R98). -/
def resistance (rs : Nat) (i : ResInputs) : Resistance :=
  if i.den ≤ 2 then ⟨maxOhms, true, false⟩
  else if i.num ≤ 0 then ⟨0, false, true⟩
  else
    let q := ((rs : Int) * i.num + i.den / 2) / i.den
    if (maxOhms : Int) < q then ⟨maxOhms, true, false⟩ else ⟨q.toNat, false, false⟩

/-- The next range up. -/
def Range.up? : Range → Option Range
  | .r10k => some .r100k
  | .r100k => some .r1m
  | .r1m => none

/-- The next range down. -/
def Range.down? : Range → Option Range
  | .r10k => none
  | .r100k => some .r10k
  | .r1m => some .r100k

/-- The range test of an AUTO step: the range it steps to, none when the range stays (R99). -/
def rangeTest (i : ResInputs) (r : Range) : Option Range :=
  let t := i.vs / 20
  if i.den < t ∧ r.up?.isSome then r.up?
  else if i.num < t ∧ r.down?.isSome then r.down?
  else none

/-- The full scale of the charge meter, in nC (R101). -/
def chargeLimit : Nat := 500000

/-- The charge taken from the meter's reading (R101). -/
def chargeOf (reading : Nat) (saturated : Bool) : Nat :=
  if saturated then chargeLimit else min reading chargeLimit

/-- The capacitance in nF from the charge and the source volts (R102). -/
def capacitance (q : Nat) (source : Int) : Nat :=
  let dv := source.natAbs * 100
  min ((q * 100 + dv / 2) / dv) 65535

/-- The distance in metres before its limit (R103). -/
def rawDistance (c cpk : Nat) : Nat := (c * 1000 + cpk / 2) / cpk

/-- The greatest distance reported (R103). -/
def maxDistance : Nat := 99999

/-- The distance in metres (R103). -/
def distanceOf (c cpk : Nat) : Nat := min (rawDistance c cpk) maxDistance

/-- Whether the distance was limited (R103). -/
def distanceLimited (c cpk : Nat) : Bool := maxDistance < rawDistance c cpk

/-! ## The clamps of the snapshot (R75) -/

/-- A settle time held to 10 to 2000 ms (R75). -/
def clampSettle (n : Nat) : Nat := if n < 10 then 10 else if 2000 < n then 2000 else n

/-- A sample count of 1, 2, 4, 8, 16, 32 or 64 (R75). -/
def clampSamples (n : Nat) : Nat :=
  if n < 2 then 1 else if n < 4 then 2 else if n < 8 then 4 else if n < 16 then 8
  else if n < 32 then 16 else if n < 64 then 32 else 64

/-- A source held to a magnitude of 10 to 120 V, 0 becoming +10 V (R75). -/
def clampSource (v : Int) : Int :=
  if 120 < v then 120 else if v < -120 then -120 else if 0 ≤ v ∧ v < 10 then 10
  else if -10 < v ∧ v < 0 then -10 else v

/-- The pair a stored code names; code 3 is taken as AB (R75). -/
def pairOfCode : Fin 4 → Pair
  | 0 => .ab
  | 1 => .ae
  | 2 => .be
  | 3 => .ab

/-- A step as the snapshot takes it (R75); the source of a VDC or VAC step is not used. -/
def snapStep (r : StepRec) : SnapStep :=
  { kind := r.kind, pair := pairOfCode r.pairCode, source := clampSource r.source, range := r.range,
    settle := clampSettle r.settle, samples := clampSamples r.samples }

/-- The steps of an entry as the snapshot takes them (R74, R75). -/
def snapSteps (e : ProgEntry) : List SnapStep := (e.steps.items.take e.count).map snapStep

end Sys2Proof.Machine
end

