-- ==== Sys2Proof/Machine/Ops.lean ====
section
/-!
DEFINITION. The shared operations: the crystal's time, reading and changing the records, the report queues (R179,
R180) with the overflow of X's queue (R57), replies (R178), and line numbers as ports see them (R20).
-/

namespace Sys2Proof.Machine

/-! ## Durations fixed in the part, in units of 0.1 ms -/

/-- Milliseconds in units of 0.1 ms. -/
def ms (n : Nat) : Nat := n * 10

/-- Seconds in units of 0.1 ms. -/
def seconds (n : Nat) : Nat := n * 10000

/-- The 1.5 s warm-up (R71). -/
def warmUpTime : Nat := ms 1500

/-- The 45 ms head set-up (R76). -/
def headSetUp : Nat := ms 45

/-- The 0.5 ms between samples (R76). -/
def sampleInterval : Nat := 5

/-- The 5 ms of a page write (R164). -/
def pageWriteTime : Nat := ms 5

/-- The 0.1 ms between page reads of an autoload (R167). -/
def pageReadTime : Nat := 1

/-! ## Records -/

/-- Time brought forward to an expiry; it never runs back (log 1). -/
def State.reach (s : State) (t : Nat) : State := { s with now := max s.now t }

/-- The record of a port. -/
def State.port (s : State) (p : Port) : PortRec := s.ports.get (portIndex p)

/-- A port's record changed. -/
def State.updPort (s : State) (p : Port) (f : PortRec → PortRec) : State :=
  { s with ports := s.ports.set (portIndex p) (f (s.port p)) }

/-- The record of a line. -/
def State.line (s : State) (l : LineId) : LineRec := s.lines.get l

/-- A line's record changed. -/
def State.updLine (s : State) (l : LineId) (f : LineRec → LineRec) : State :=
  { s with lines := s.lines.set l (f (s.line l)) }

/-- The record of a bus. -/
def State.bus (s : State) (b : BusId) : BusRec := s.buses.get b

/-- A bus's record changed. -/
def State.updBus (s : State) (b : BusId) (f : BusRec → BusRec) : State :=
  { s with buses := s.buses.set b (f (s.bus b)) }

/-- The record of a measuring unit. -/
def State.mu (s : State) (u : MuId) : MuRec := s.units.get u

/-- A unit's record changed. -/
def State.updMu (s : State) (u : MuId) (f : MuRec → MuRec) : State :=
  { s with units := s.units.set u (f (s.mu u)) }

/-- The class record that judges a line, from the shadow (R12). -/
def State.classOf (s : State) (l : LineId) : ClassRec := s.classes.get (s.line l).cls

/-- The contents of a ticket slot. -/
def State.slot (s : State) (n : SlotId) : Option Ticket := s.tickets.get n

/-- Whether the start state is RUNNING (R166). -/
def State.isRunning (s : State) : Bool := s.store.phase == .running

/-- A time stamp taken from the clock (R148). -/
def State.stamp (s : State) : Stamp := ⟨s.clock.day, s.clock.second, s.clock.valid⟩

/-- The hold or request count of a source (R23): its buses in any state but FREE and its wait entries. -/
def State.countOf (s : State) (src : Source) : Nat :=
  (allBuses.filter fun b => (s.bus b).state != .free && (s.bus b).holder == some src).length
    + (s.waitQueue.filter fun e => e.req.source == src).length

/-- The allowance of a source (R23). -/
def State.allowance (s : State) : Source → Nat
  | .desk _ => s.config.allowDesk
  | .mc => s.config.allowMc
  | .rs => s.config.allowRs

/-! ## Line numbers on the links (R20) -/

/-- The absolute line a desk-local number names in a desk's window, none outside it (R20). -/
def State.fromDesk (s : State) (d : DeskId) (n : Nat) : Option LineId :=
  let w := s.config.windows.get d
  if n < w.count then lineOf? (w.base + n) else none

/-- Whether a line lies in a desk's window. -/
def State.inWindow (s : State) (d : DeskId) (l : LineId) : Bool :=
  let w := s.config.windows.get d
  w.base ≤ l.val && l.val < w.base + w.count

/-- A line as a report to a port gives it (R20). -/
def State.lineFor (s : State) (p : Port) (l : LineId) : LineNo :=
  match p with
  | .desk d =>
    if s.inWindow d l then ⟨l.val - (s.config.windows.get d).base, false⟩ else ⟨l.val, true⟩
  | .x => ⟨l.val, false⟩
  | .m => ⟨l.val, false⟩

/-! ## Reports (R179, R180) -/

/-- The capacity of an outbound queue (R179). -/
def queueCapacity : Nat := 32

/-- The entries an event notice leaves for the kept reports (R179). -/
def noticeReserve : Nat := 8

/-- The free entries of a port's queue. -/
def State.freeEntries (s : State) (p : Port) : Nat := queueCapacity - (s.port p).queue.length

/-- A report formed for a port: its flags as they stand, its tag the order's or 0 (R180, section 10.6). -/
def formReport (r : PortRec) (tag : Option Byte) (body : ReportBody) : Report :=
  ⟨r.lost, tag.isSome, tag.getD 0, body⟩

/-- A report put at the tail of a port's queue. -/
def State.enqueue (s : State) (p : Port) (tag : Option Byte) (body : ReportBody) : State :=
  s.updPort p fun r => { r with queue := r.queue ++ [formReport r tag body] }

/-- A port's notices-lost marker set (R180). -/
def State.markLost (s : State) (p : Port) : State := s.updPort p fun r => { r with lost := true }

/-- A port's queue emptied for want of room, with its marker set (R179). -/
def State.emptyQueue (s : State) (p : Port) : State :=
  s.updPort p fun r => { r with queue := [], lost := true }

/-- The call states after a lapse: BUSY and RINGING become UNKNOWN (R2). -/
def lapsedLine (r : LineRec) : LineRec :=
  match r.callState with
  | .busy => { r with callState := .unknown }
  | .ringing => { r with callState := .unknown }
  | .idle => r
  | .unknown => r

/-- The first half of a lapse (R51 steps 1 and 2): UNSUPERVISED, the timer stopped, the call states changed. -/
def State.lapseState (s : State) : State :=
  { s with supervised := false, supTimer := none, lines := s.lines.map lapsedLine }

/-- What an overflow of X's queue brings (R57): a lapse with cause OVERFLOW while SUPERVISED, or an owed one while
STARTING (R50). The lapse's releases and notices follow at the end of the event (`lapseEffects`, log 7). -/
def State.overflowX (s : State) : State :=
  if s.supervised then
    if s.isRunning then { s.lapseState with lapseInHand := some .overflow }
    else { s with lapseOwed := some (s.lapseOwed.getD .overflow) }
  else s

/-- A kept report queued (R179): it takes any free entry, and finding none it empties the queue first; on X that is an
overflow (R57). -/
def State.pushKept (s : State) (p : Port) (tag : Option Byte) (body : ReportBody) : State :=
  if s.freeEntries p = 0 then
    let t := (s.emptyQueue p).enqueue p tag body
    if p = .x then t.overflowX else t
  else s.enqueue p tag body

/-- An event notice queued, or dropped with the marker set while fewer than 8 entries are free (R179). -/
def State.pushNotice (s : State) (p : Port) (body : ReportBody) : State :=
  if s.freeEntries p < noticeReserve then s.markLost p else s.enqueue p none body

/-- An event notice queued to each of some ports. -/
def State.pushNotices (s : State) (ps : List Port) (body : ReportBody) : State :=
  ps.foldl (fun t p => t.pushNotice p body) s

/-- The order being handled: its port, its tag and its kind code. -/
structure OrderCtx where
  port : Port
  tag : Byte
  code : Byte
  deriving DecidableEq, Repr

/-- The REPLY of an order (R178). -/
def State.reply (s : State) (c : OrderCtx) (code : ReplyCode) (data : ReplyData := .none) : State :=
  s.pushKept c.port (some c.tag) (.reply c.code code data)

/-- A report to the holder of a bus, by its source's port; RS has none (R26, R41, R163). -/
def State.toHolder (s : State) (src : Option Source) (tag : Option HolderTag) (body : Port → ReportBody) : State :=
  match src.bind Source.port? with
  | some p => s.pushKept p (tag.bind HolderTag.order?) (body p)
  | none => s

end Sys2Proof.Machine
end

