-- ==== Sys2Proof/Machine/Access.lean ====
section
/-!
DEFINITION. Access (chapters 1 and 2): the admission test, a request's needs, the grant, the wait queue and its scan.
-/

namespace Sys2Proof.Machine

/-! ## The admission test (R14) -/

/-- The two forms of the admission test (R14). -/
inductive AskForm where
  | order | scan
  deriving DecidableEq, Repr

/-- Check 5 of the admission test: a desk passes IDLE and UNKNOWN, MC and RS pass IDLE (R14). -/
def callStateAdmits (src : Source) (c : CallState) : Bool :=
  match c with
  | .idle => true
  | .unknown => !src.automated
  | .busy => false
  | .ringing => false

/-- The admission test (R14): `none` is ELIGIBLE, else the first failing check's answer. A line on a bus is LINE_ON_TEST under
every holder, by check 1 and R28; that R163 ends with a desk's SEIZE queued for a line that RS holds is not followed (DESIGN
CHOICE, log 32). -/
def State.admission (s : State) (l : LineId) (src : Source) (term : Termination) (form : AskForm) : Option ReplyCode :=
  let r := s.line l
  if r.onBus.isSome then some .lineOnTest
  else if form = .order ∧ r.queued then some .lineQueued
  else if r.quarantined ∧ (src.automated ∨ term = .talk) then some .quarantined
  else if ¬ s.supervised ∧ src.automated then some .unsupervised
  else if callStateAdmits src r.callState then none
  else some .lineBusy

/-! ## Needs (R24) -/

/-- The lowest-numbered FREE bus. -/
def State.freeBus? (s : State) : Option BusId := allBuses.find? fun b => (s.bus b).state == .free

/-- The unit a binding chooses: the lowest-numbered READY one, else the lowest-numbered STANDBY one (R24). -/
def State.freeUnit? (s : State) : Option MuId :=
  match allUnits.find? fun u => (s.mu u).state == .ready with
  | some u => some u
  | none => allUnits.find? fun u => (s.mu u).state == .standby

/-- Whether a desk's talk pair is in use on some bus (R24). -/
def State.talkInUse (s : State) (d : DeskId) : Bool :=
  allBuses.any fun b => (s.bus b).holder == some (.desk d) && (s.bus b).talkPair

/-- The bus, and the unit for MU termination, that meet a request's needs, if they can be met (R24). -/
def State.needs (s : State) (src : Source) (term : Termination) : Option (BusId × Option MuId) :=
  match s.freeBus?, term with
  | none, _ => none
  | some b, .none => some (b, none)
  | some b, .mu => s.freeUnit?.map fun u => (b, some u)
  | some b, .talk =>
    match src with
    | .desk d => if s.talkInUse d then none else some (b, none)
    | .mc => some (b, none)
    | .rs => some (b, none)

/-! ## Binding a unit (R69) -/

/-- A free unit bound to a bus: READY becomes ATTACHED and its standby timer stops, STANDBY becomes WARMING and its
warm-up begins (R69). -/
def bindUnit (now : Nat) (b : BusId) (m : MuRec) : MuRec :=
  match m.state with
  | .ready => { m with state := .attached, bus := some b, standby := none }
  | .standby => { m with state := .warming, bus := some b, warmUp := some (now + warmUpTime) }
  | .warming => m
  | .attached => m
  | .measuring => m
  | .discharging => m

/-- A bound unit unbound: ATTACHED becomes READY and its standby timer starts unless the delay is 0, WARMING abandons
its warm-up and becomes STANDBY (R69, R70). -/
def unbindUnit (now delay : Nat) (m : MuRec) : MuRec :=
  match m.state with
  | .attached =>
    { m with state := .ready, bus := none, standby := if delay = 0 then none else some (now + seconds (60 * delay)) }
  | .warming => { m with state := .standby, bus := none, warmUp := none }
  | .standby => m
  | .ready => m
  | .measuring => m
  | .discharging => m

/-- A unit bound, if one is given (R69). -/
def State.bindMu (s : State) (u : Option MuId) (b : BusId) : State :=
  match u with
  | some u => s.updMu u (bindUnit s.now b)
  | none => s

/-- A unit unbound (R69). -/
def State.unbindMu (s : State) (u : MuId) : State := s.updMu u (unbindUnit s.now s.config.standby)

/-! ## The grant (R25) -/

/-- The bus record a grant makes (R25). -/
def grantedBus (s : State) (q : Request) (u : Option MuId) : BusRec :=
  { state := .operating
    holder := some q.source
    holderTag := some q.tag
    line := some q.line
    termination := q.termination
    boundMu := u
    grantProgramme := q.programme
    talkPair := q.termination == .talk
    holdStart := some s.stamp
    relayDue := some (s.now + ms s.config.operate) }

/-- The line record at a grant: on the bus, blocked, no longer queued (R5, R6). -/
def grantedLine (b : BusId) (r : LineRec) : LineRec :=
  { r with onBus := some b, blocked := true, queued := false }

/-- The grant of a bus, with a unit for MU termination, to a request (R25); BLOCK goes to X (R55). -/
def State.grant (s : State) (q : Request) (b : BusId) (u : Option MuId) : State :=
  let t := s.updBus b fun _ => grantedBus s q u
  let t := t.bindMu u b
  let t := t.updLine q.line (grantedLine b)
  t.pushKept .x none (.block q.line (some b))

/-! ## The wait queue (R28, R30) -/

/-- The capacity of the wait queue (R28). -/
def waitCapacity : Nat := 8

/-- Whether an entry has DESK priority (R28). -/
def WaitEntry.isDesk (e : WaitEntry) : Bool := !e.req.source.automated

/-- The queue with an entry placed after every entry of the same or higher priority (R30). -/
def placeEntry (q : List WaitEntry) (e : WaitEntry) : List WaitEntry :=
  if e.isDesk then q.takeWhile WaitEntry.isDesk ++ e :: q.dropWhile WaitEntry.isDesk else q ++ [e]

/-- The wait limit of a source's priority, in seconds (R28). -/
def State.waitLimit (s : State) (src : Source) : Nat :=
  if src.automated then s.config.mcWait else s.config.deskWait

/-- A request placed in the wait queue (R30). -/
def State.placeWait (s : State) (q : Request) : State :=
  let e : WaitEntry := ⟨q, s.now + seconds (s.waitLimit q.source)⟩
  { s with waitQueue := placeEntry s.waitQueue e }.updLine q.line fun r => { r with queued := true }

/-- The entry for a line taken out of the wait queue, the line's queued flag cleared (R6). -/
def State.removeWait (s : State) (l : LineId) : State :=
  { s with waitQueue := s.waitQueue.filter fun e => e.req.line != l }.updLine l fun r => { r with queued := false }

/-- The entry for a line. -/
def State.waitFor (s : State) (l : LineId) : Option WaitEntry := s.waitQueue.find? fun e => e.req.line == l

/-- Whether a scan grants an entry now, and with what (R31); nothing is granted while STARTING (R45). -/
def State.scanGrants (s : State) (e : WaitEntry) : Option (BusId × Option MuId) :=
  if s.isRunning ∧ s.admission e.req.line e.req.source e.req.termination .scan = none
      ∧ s.countOf e.req.source ≤ s.allowance e.req.source
  then s.needs e.req.source e.req.termination else none

/-- One entry reached by a scan: granted and removed, or left in its place (R31). -/
def State.scanEntry (s : State) (e : WaitEntry) : State :=
  match s.scanGrants e with
  | some (b, u) => (s.removeWait e.req.line).grant e.req b u
  | none => s

/-- A scan of the wait queue from head to tail (R31). -/
def State.scan (s : State) : State := s.waitQueue.foldl State.scanEntry s

end Sys2Proof.Machine
end

