-- ==== Sys2Proof/Machine/Flags.lean ====
section
/-!
DEFINITION. Conditions worked from the records: the pending mask (R8), a line's quarantine (R120), ALM (R146), the
sweep window and state (R153), "tested today" (R9), and the order of stamps (R131).
-/

namespace Sys2Proof.Machine

/-! ## The pending mask (R8) -/

/-- Whether a fault class stands in a line's pending mask. -/
def LineRec.hasPending (r : LineRec) (c : FaultClass) : Bool := r.pendingMask.get c.index

/-- A line's pending mask with a class added. -/
def LineRec.addPending (r : LineRec) (c : FaultClass) : LineRec :=
  { r with pendingMask := r.pendingMask.set c.index true }

/-- A line's pending mask with a class removed. -/
def LineRec.dropPending (r : LineRec) (c : FaultClass) : LineRec :=
  { r with pendingMask := r.pendingMask.set c.index false }

/-! ## Tickets -/

/-- Whether a ticket is OPEN or HANDED (R125). -/
def Ticket.nonCleared (t : Ticket) : Bool := t.state != .cleared

/-- Whether a ticket is CRITICAL and OPEN, which asserts ALM (R146). -/
def Ticket.alarms (t : Ticket) : Bool := t.severity == .critical && t.state == .opened

/-- Whether a stamp counts as strictly earlier than another: an invalid one before every valid one, then by day and
second (R131). -/
def Stamp.earlier (a b : Stamp) : Bool :=
  if a.valid then b.valid && (a.day < b.day || (a.day == b.day && a.second < b.second)) else b.valid

/-- The first slot holding a ticket with a property. -/
def State.findSlot (s : State) (p : Ticket → Bool) : Option (SlotId × Ticket) :=
  s.tickets.indexed.findSome? fun (n, o) => match o with
    | some t => if p t then some (n, t) else none
    | none => none

/-- The lowest-numbered empty slot (R131). -/
def State.emptySlot (s : State) : Option SlotId :=
  (s.tickets.indexed.find? fun (_, o) => o.isNone).map Prod.fst

/-- The older of the ticket found so far and the next one, ties to the lower slot (R131). -/
def olderOf (p : Ticket → Bool) (acc : Option (SlotId × Ticket)) (x : SlotId × Option Ticket) :
    Option (SlotId × Ticket) :=
  match x.2 with
  | none => acc
  | some t =>
    if p t then
      match acc with
      | none => some (x.1, t)
      | some a => if t.firstSeen.earlier a.2.firstSeen then some (x.1, t) else acc
    else acc

/-- The oldest ticket with a property: the earliest first-seen stamp, ties to the lower slot (R131). -/
def State.oldest (s : State) (p : Ticket → Bool) : Option (SlotId × Ticket) :=
  s.tickets.indexed.foldl (olderOf p) none

/-- The non-cleared ticket of a class on a line (R129). -/
def State.ticketOn (s : State) (l : LineId) (c : FaultClass) : Option (SlotId × Ticket) :=
  s.findSlot fun t => t.line == l && t.cls == c && t.nonCleared

/-- The ticket holding a number, in any state (R141). -/
def State.ticketNumbered (s : State) (n : Nat) : Option (SlotId × Ticket) := s.findSlot fun t => t.number == n

/-- Whether a line is to be quarantined: a non-cleared HAZARD ticket or a pending HAZARD mark (R120). -/
def State.quarantineDue (s : State) (l : LineId) : Bool :=
  (s.ticketOn l .hazard).isSome || (s.line l).hasPending .hazard

/-- Whether ALM is to be asserted: a ticket CRITICAL and OPEN, or a line with a pending HAZARD mark (R146). -/
def State.almDue (s : State) : Bool :=
  (s.findSlot Ticket.alarms).isSome || s.lines.items.any fun r => r.hasPending .hazard

/-! ## The clock and the sweep (R148, R153, R9) -/

/-- The minute of day (R148). -/
def Clock.minute (c : Clock) : Nat := c.second / 60

/-- Whether a minute of day lies inside the sweep window (R153). -/
def inSweepWindow (start stop m : Nat) : Bool :=
  if start < stop then start ≤ m && m < stop
  else if stop < start then start ≤ m || m < stop
  else true

/-- The sweep state derived from the record, the clock and the supervision state (R153). -/
def State.sweepState (s : State) : SweepState :=
  if ¬ s.sweep.enabled then .off
  else if s.sweep.mcHold then .held
  else if ¬ s.supervised then .paused
  else if ¬ s.clock.valid ∨ ¬ inSweepWindow s.sweepCfg.windowStart s.sweepCfg.windowEnd s.clock.minute then .waiting
  else .active

/-- Whether a recorded last routine day counts as today (R9). -/
def testedOn (recorded : Option Nat) (today : Nat) : Bool :=
  match recorded with
  | none => false
  | some d => d == today || (d == 65534 && today == 65535)

/-- The day written as a line's last routine day: 65535 is written as 65534 (R9). -/
def routineDay (today : Nat) : Nat := min today 65534

end Sys2Proof.Machine
end

