-- ==== Sys2Proof/Machine/Sweep.lean ====
section
/-!
DEFINITION. The routine sweep (chapter 8): the sweep test, start attempts, the pass end, the derivation of the state,
the retest list, and the scan followed by the notice to RSS.
-/

namespace Sys2Proof.Machine

/-- The two forms of the sweep test (R15). -/
inductive SweepForm where
  | cursor | retest
  deriving DecidableEq, Repr

/-- The sweep test (R15). -/
def State.sweepTest (s : State) (form : SweepForm) (l : LineId) : Bool :=
  (s.classOf l).inSweep && (s.admission l .rs .mu .order).isNone
    && (form == .retest || !testedOn (s.line l).lastRoutine s.clock.day)

/-- The number of FREE buses. -/
def State.freeBuses (s : State) : Nat := (allBuses.filter fun b => (s.bus b).state == .free).length

/-- The number of free units (R24). -/
def State.freeUnits (s : State) : Nat :=
  (allUnits.filter fun u => (s.mu u).state == .ready || (s.mu u).state == .standby).length

/-- The buses held by RS in any state but FREE (R154). -/
def State.rsBuses (s : State) : Nat :=
  (allBuses.filter fun b => (s.bus b).state != .free && (s.bus b).holder == some .rs).length

/-- The conditions of a start attempt (R154); nothing is granted to RSS while STARTING (R45). -/
def State.startConditions (s : State) : Bool :=
  s.isRunning && s.sweepState == .active && s.sweep.pacing.isNone && !s.sweep.closing
    && decide (s.rsBuses < s.config.allowRs)
    && decide (s.config.busReserve + 1 ≤ s.freeBuses) && decide (s.config.muReserve + 1 ≤ s.freeUnits)
    && decide (0 < (s.library.get s.sweepCfg.programme).count)

/-! ## The pass end (R156) -/

/-- The pass end (R156): SWEEP_PASS to M, the rest flag, and a new pass. -/
def State.passEnd (s : State) : State :=
  let w := s.sweep
  let t := s.pushNotice .m (.sweepPass w.pass w.tested w.skipped w.faulted)
  { t with sweep :=
      { w with
        rest := w.tested == 0
        tested := 0
        skipped := 0
        faulted := 0
        pass := (w.pass + 1) % 65536
        cursor := s.sweepCfg.first
        closing := false } }

/-- The pass end taken when the closing flag is set and no RS test runs (R156, R157). -/
def State.passEndIfDue (s : State) : State := if s.sweep.closing ∧ s.rsTests = [] then s.passEnd else s

/-! ## Start attempts (R155) -/

/-- The pacing timer started with the pacing in the shadow (R154). -/
def State.startPacing (s : State) : State :=
  { s with sweep := { s.sweep with pacing := some (s.now + seconds s.sweepCfg.pacing) } }

/-- The sweep's grant on a line: bus and unit by R25, and RSS's own records (R155, R157, R9). -/
def State.sweepGrant (s : State) (l : LineId) (b : BusId) (u : Option MuId) : State :=
  let n := s.sweep.testNumber
  let t := s.grant ⟨.rs, .test n, l, .mu, some s.sweepCfg.programme⟩ b u
  let t := t.updLine l fun r => { r with lastRoutine := some (routineDay s.clock.day) }
  { t with
    rsTests := t.rsTests ++ [⟨b, l, n, s.sweep.pass⟩]
    sweep := { t.sweep with tested := satSucc 65535 t.sweep.tested, testNumber := (n + 1) % 65536 } }

/-- The cursor walk (R155): from `c` over at most `fuel` lines to the range last, with the count of skipped lines so
far; answers the line chosen, if any, where the cursor stands and the count. -/
def State.walk (s : State) (last : Nat) : Nat → Nat → Nat → Option LineId × Nat × Nat
  | 0, c, k => (none, c, k)
  | fuel + 1, c, k =>
    if last < c then (none, c, k)
    else match lineOf? c with
      | none => (none, c, k)
      | some l =>
        if s.sweepTest .cursor l then (some l, c, k) else s.walk last fuel (c + 1) (satSucc 65535 k)

/-- The cursor part of a start attempt (R155 step 2): a line granted, or the pass closed. -/
def State.cursorAttempt (s : State) (b : BusId) (u : Option MuId) : State :=
  let start := max s.sweep.cursor s.sweepCfg.first
  match s.walk s.sweepCfg.last (s.sweepCfg.last + 1 - start) start s.sweep.skipped with
  | (some l, c, k) =>
    let t := { s with sweep := { s.sweep with cursor := c + 1, skipped := k, closing := l.val == s.sweepCfg.last } }
    t.sweepGrant l b u
  | (none, _, k) =>
    let t := { s with sweep := { s.sweep with cursor := s.sweepCfg.last + 1, skipped := k, closing := true } }
    t.passEndIfDue

/-- A start attempt with its bus and unit (R155): the retest list, then the cursor unless the sweep rests. Either way
the pacing timer is started. -/
def State.attempt (s : State) (b : BusId) (u : Option MuId) : State :=
  let t := match s.retest.find? (s.sweepTest .retest) with
    | some l => { s with retest := s.retest.erase l }.sweepGrant l b u
    | none => if s.sweep.rest then s else s.cursorAttempt b u
  t.startPacing

/-- A trigger for a start attempt (R154): passed over unless every condition holds. -/
def State.sweepTrigger (s : State) : State :=
  if s.startConditions then
    match s.needs .rs .mu with
    | some (b, u) => s.attempt b u
    | none => s
  else s

/-- The sweep state derived again (R153): a change to ACTIVE is a trigger. -/
def State.rederive (s : State) : State :=
  let t := { s with sweep := { s.sweep with lastState := s.sweepState } }
  if s.sweepState = .active ∧ s.sweep.lastState ≠ .active then t.sweepTrigger else t

/-- A scan, after which RSS is told (R40, R41, R52, R122). -/
def State.scanThenTrigger (s : State) : State := s.scan.sweepTrigger

/-! ## The retest list (R158) -/

/-- The capacity of the retest list (R158). -/
def retestCapacity : Nat := 32

/-- A line offered to the retest list (R158). -/
def State.offerRetest (s : State) (l : LineId) : State :=
  if l ∈ s.retest ∨ ¬ (s.classOf l).inSweep ∨ (s.line l).quarantined ∨ retestCapacity ≤ s.retest.length then s
  else { s with retest := s.retest ++ [l] }

/-- The retest list after a class or map page changed: lines whose class lacks the sweep flag leave it (R158). -/
def State.pruneRetest (s : State) : State :=
  { s with retest := s.retest.filter fun l => (s.classOf l).inSweep }

/-! ## Reports to RSS in place of a port (R157) -/

/-- An RS test's PROGRAMME_END: a worst verdict above PASS adds to faulted when the test is of the current pass. -/
def State.sweepTestEnded (s : State) (b : BusId) (worst : Option Verdict) : State :=
  let bad := worst == some .marginal || worst == some .fault || worst == some .hazard
  if bad ∧ (s.rsTests.any fun t => t.bus == b && t.pass == s.sweep.pass) then
    { s with sweep := { s.sweep with faulted := satSucc 65535 s.sweep.faulted } }
  else s

/-- An RS test's BUS_RELEASED: its record is removed, and then the pass may end. -/
def State.sweepTestReleased (s : State) (b : BusId) : State :=
  State.passEndIfDue { s with rsTests := s.rsTests.filter fun t => t.bus != b }

end Sys2Proof.Machine
end

