-- ==== Sys2Proof/Machine/Verdict.lean ====
section
/-!
DEFINITION. Verdicts, fault classes, severities and the programme outcome: sections 6.1 to 6.3.
-/

namespace Sys2Proof.Machine

/-- The rank of a verdict, PASS lowest (R86). -/
def Verdict.rank : Verdict → Nat
  | .pass => 0
  | .marginal => 1
  | .fault => 2
  | .hazard => 3

/-- The higher of two verdicts. -/
def Verdict.worse (a b : Verdict) : Verdict := if a.rank < b.rank then b else a

/-- The rank of a severity, MINOR lowest (R114). -/
def Severity.rank : Severity → Nat
  | .minor => 1
  | .major => 2
  | .critical => 3

/-- The higher of two severities. -/
def Severity.worse (a b : Severity) : Severity := if a.rank < b.rank then b else a

/-- The severity of a verdict; PASS has none (R114). -/
def Verdict.severity? : Verdict → Option Severity
  | .pass => none
  | .marginal => some .minor
  | .fault => some .major
  | .hazard => some .critical

/-- The verdict of a value judged against an upper warning and failure level (R111). -/
def judgeUpper (v warn fail : Nat) : Verdict :=
  if fail ≤ v then .fault else if warn ≤ v then .marginal else .pass

/-- The verdict of a value judged against a lower warning and failure level (R111). -/
def judgeLower (v warn fail : Nat) : Verdict :=
  if v ≤ fail then .fault else if v ≤ warn then .marginal else .pass

/-- The verdict of an unclipped step by its kind, against the class snapshot (R111). -/
def judgeStep (c : ClassRec) (kind : StepKind) (value : Int) : Verdict :=
  match kind with
  | .vdc => judgeUpper value.natAbs c.fdcWarn c.fdcFail
  | .vac => judgeUpper value.natAbs c.facWarn c.facFail
  | .res => judgeLower value.toNat c.irWarn c.irFail
  | .cap => if value < (c.capMin : Int) then .fault else .pass

/-- The verdict of the precheck from its legs' means and its CLIP flag (R77, R112). -/
def judgePrecheck (c : ClassRec) (ae be : Int) (clip : Bool) : Verdict :=
  if clip || decide (c.hazardLimit ≤ ae.natAbs) || decide (c.hazardLimit ≤ be.natAbs) then .hazard else .pass

/-- The fault class of a DONE step (R113). -/
def stepClass (r : StepResult) : FaultClass :=
  if r.index = 0 ∨ r.clip then .hazard
  else match r.kind with
    | .vdc => .foreignDc
    | .vac => .foreignAc
    | .res => match r.pair with
      | .ab => .lowIrAb
      | .ae => .lowIrAe
      | .be => .lowIrBe
    | .cap => .openLine

/-- The DONE steps of a class. -/
def doneOf (c : FaultClass) (rs : List StepResult) : List StepResult :=
  rs.filter fun r => r.status == .done && stepClass r == c

/-- The failing DONE steps of a class, in step order (R116). -/
def failingOf (c : FaultClass) (rs : List StepResult) : List StepResult :=
  (doneOf c rs).filter fun r => (r.verdict.bind Verdict.severity?).isSome

/-- The pair that goes with the value of a step: that of a VDC or VAC step (R113), step 0 counted as VDC (DEDUCED from
R105 and 10.6, log 35). -/
def valuePair (r : StepResult) : Option Pair :=
  match r.kind with
  | .vdc => some r.pair
  | .vac => some r.pair
  | .res => none
  | .cap => none

/-- What a failed class carries into the ticket table (R116), its value with the value's pair (R113). -/
structure Failure where
  severity : Severity
  value : Int
  pair : Option Pair
  distance : Option Nat
  deriving DecidableEq, Repr

/-- The highest severity among some steps. -/
def worstSeverity (rs : List StepResult) : Severity :=
  rs.foldl (fun a r => match r.verdict.bind Verdict.severity? with
    | some x => a.worse x
    | none => a) .minor

/-- The failure of a class in a programme: its highest severity, and the value, the value's pair and, for OPEN, the
distance of its last failing step (R116, R113). -/
def failureOf (c : FaultClass) (rs : List StepResult) : Option Failure :=
  match (failingOf c rs).getLast? with
  | none => none
  | some r => some
      { severity := worstSeverity (failingOf c rs)
        value := r.value.getD 0
        pair := valuePair r
        distance := if c = .openLine then r.distance else none }

/-- Whether a class has passed in a programme (R117). -/
def passedIn (c : FaultClass) (cause : EndCause) (rs : List StepResult) : Bool :=
  cause == .complete && !(doneOf c rs).isEmpty && (doneOf c rs).all fun r => r.verdict == some .pass

/-- The worst verdict over the DONE steps, none when no step is DONE (R86). -/
def worstVerdict (rs : List StepResult) : Option Verdict :=
  (rs.filter fun r => r.status == .done).foldl (fun a r => match a, r.verdict with
    | none, v => v
    | some x, some y => some (x.worse y)
    | some x, none => some x) none

/-- The number of DONE steps (R86). -/
def stepsDone (rs : List StepResult) : Nat := (rs.filter fun r => r.status == .done).length

/-- The number of ABORTED and NOT_RUN steps (R86). -/
def stepsRemaining (rs : List StepResult) : Nat := (rs.filter fun r => r.status != .done).length

end Sys2Proof.Machine
end

