-- ==== Sys2Proof/Machine/Tickets.lean ====
section
/-!
DEFINITION. The Verdict and Ticket Unit: the ticket table's changes (chapter 7), quarantine (section 6.4), ALM
(R146), and the application of a programme's outcome (R118).
-/

namespace Sys2Proof.Machine

/-- A slot's contents changed and the slot marked dirty (R127). -/
def State.writeSlot (s : State) (n : SlotId) (t : Option Ticket) : State :=
  { s with tickets := s.tickets.set n t, store := { s.store with dirty := s.store.dirty.set n true } }

/-- A TICKET_EVENT to M (R145). -/
def State.ticketNotice (s : State) (e : TicketEvent) : State := s.pushNotice .m (.ticketEvent e)

/-! ## Quarantine (R120 to R122) and ALM (R146) -/

/-- A line's quarantine evaluated (R120): written only when it changes; set, the line leaves the retest list (R121);
cleared, a scan runs and RSS is told (R122). -/
def State.evaluateQuarantine (s : State) (l : LineId) : State :=
  let q := s.quarantineDue l
  if q = (s.line l).quarantined then s
  else
    let t := s.updLine l fun r => { r with quarantined := q }
    if q then { t with retest := t.retest.erase l } else t.scanThenTrigger

/-- ALM evaluated; while STARTING the output is not driven (R146). -/
def State.evaluateAlm (s : State) : State := if s.isRunning then { s with alm := s.almDue } else s

/-- A line offered to the retest list by VTU, which makes no offer for a quarantined line (R121, R158). -/
def State.vtuOffer (s : State) (l : LineId) : State :=
  if (s.line l).quarantined then s else s.offerRetest l

/-! ## A failed class (R129 to R135) -/

/-- The number after another, 65535 followed by 1 (R128). -/
def nextNumber (n : Nat) : Nat := if 65535 ≤ n then 1 else n + 1

/-- The first number from `n` that no ticket holds, looking at most `fuel` numbers (R128). -/
def State.freeNumber (s : State) : Nat → Nat → Nat
  | 0, n => n
  | fuel + 1, n => if (s.ticketNumbered n).isSome then s.freeNumber fuel (nextNumber n) else n

/-- The ticket after a merge (R130). -/
def mergedTicket (t : Ticket) (f : Failure) (stamp : Stamp) : Ticket :=
  { t with
    repeats := satSucc 255 t.repeats
    lastSeen := stamp
    value := f.value
    pair := f.pair
    distance := if t.cls = .openLine then f.distance else t.distance
    severity := t.severity.worse f.severity
    passes := 0 }

/-- A failure merged into the ticket of its class (R130). -/
def State.mergeTicket (s : State) (n : SlotId) (t : Ticket) (f : Failure) (stamp : Stamp) : State :=
  let t' := mergedTicket t f stamp
  (s.writeSlot n (some t')).ticketNotice (if t.severity.rank < f.severity.rank then .raised t' else .merged t')

/-- A CLEARED ticket taken for a new one (R132). -/
def State.takeCleared (s : State) (n : SlotId) (t : Ticket) : State :=
  (s.ticketNotice (.purged t.number t.line t.cls)).writeSlot n none

/-- An OPEN MINOR ticket taken for a new CRITICAL one (R133). -/
def State.evict (s : State) (n : SlotId) (t : Ticket) : State :=
  let u := s.ticketNotice (.evicted t.number t.line t.cls t.severity)
  let u := u.updLine t.line fun r => r.addPending t.cls
  (u.vtuOffer t.line).writeSlot n none

/-- The slot a creation finds (R131), with the table after whatever was taken for it; none when there is no slot. -/
def State.takeSlot (s : State) (f : Failure) : Option (SlotId × State) :=
  match s.emptySlot with
  | some n => some (n, s)
  | none =>
    match s.oldest fun t => t.state == .cleared with
    | some (n, t) => some (n, s.takeCleared n t)
    | none =>
      if f.severity = .critical then
        (s.oldest fun t => t.state == .opened && t.severity == .minor).map fun (n, t) => (n, s.evict n t)
      else none

/-- The ticket a creation makes (R134). -/
def newTicket (number : Nat) (l : LineId) (c : FaultClass) (f : Failure) (src : Source) (stamp : Stamp) : Ticket :=
  { number := number, line := l, cls := c, severity := f.severity, state := .opened, firstSource := src
    firstSeen := stamp, lastSeen := stamp, repeats := 1, value := f.value, pair := f.pair, distance := f.distance
    passes := 0
    assignee := none, note := none, clearedBy := none, clearedAt := none }

/-- A ticket created in a slot (R134), numbered by R128; class HAZARD makes no retest offer. -/
def State.createTicket (s : State) (n : SlotId) (l : LineId) (c : FaultClass) (f : Failure) (src : Source)
    (stamp : Stamp) : State :=
  let number := s.freeNumber 257 s.counter
  let t := newTicket number l c f src stamp
  let u := { s with counter := nextNumber number }.writeSlot n (some t)
  let u := u.updLine l fun r => r.dropPending c
  let u := u.ticketNotice (.new t)
  if c = .hazard ∨ ¬ (u.classOf l).inSweep then u else u.vtuOffer l

/-- A failure that found no slot (R135): a pending mark, TICKET_OVERFLOW, and an offer but for class HAZARD. -/
def State.overflowTicket (s : State) (l : LineId) (c : FaultClass) (f : Failure) (src : Source) : State :=
  let u := s.updLine l fun r => r.addPending c
  let u := u.pushNotice .m (.ticketOverflow l c f.severity f.value src)
  if c = .hazard then u else u.vtuOffer l

/-- A failed class applied (R129). -/
def State.applyFailure (s : State) (l : LineId) (c : FaultClass) (f : Failure) (src : Source) (stamp : Stamp) :
    State :=
  match s.ticketOn l c with
  | some (n, t) => s.mergeTicket n t f stamp
  | none =>
    match s.takeSlot f with
    | some (n, u) => u.createTicket n l c f src stamp
    | none => s.overflowTicket l c f src

/-! ## A passed class (R136) -/

/-- The ticket after a counted pass, cleared by AUTO when the count reaches the clear passes (R136). -/
def passedTicket (t : Ticket) (clearPasses : Nat) (stamp : Stamp) : Ticket :=
  let n := satSucc 7 t.passes
  if clearPasses ≠ 0 ∧ clearPasses ≤ n then
    { t with passes := n, state := .cleared, clearedBy := some .auto, clearedAt := some stamp }
  else { t with passes := n }

/-- A passed class applied (R136). -/
def State.applyPass (s : State) (l : LineId) (c : FaultClass) (clearPasses : Nat) (stamp : Stamp) : State :=
  let u := match s.ticketOn l c with
    | none => s
    | some (n, t) =>
      let t' := passedTicket t clearPasses stamp
      let u := s.writeSlot n (some t')
      if t'.state == TicketState.cleared then u.ticketNotice (.cleared t') else u
  u.updLine l fun r => r.dropPending c

/-! ## The outcome of a programme (R115, R118) -/

/-- What VTU is handed at a programme's end (R86). -/
structure OutcomeIn where
  source : Source
  line : LineId
  clearPasses : Nat
  cause : EndCause
  results : List StepResult
  stamp : Stamp
  deriving DecidableEq, Repr

/-- One class of an outcome applied: failed, passed or untouched (R116, R117); quarantine is evaluated after class
HAZARD, whether failed or passed (R118, R120). -/
def State.applyClass (s : State) (o : OutcomeIn) (c : FaultClass) : State :=
  match failureOf c o.results with
  | some f =>
    let u := s.applyFailure o.line c f o.source o.stamp
    if c = .hazard then u.evaluateQuarantine o.line else u
  | none =>
    if passedIn c o.cause o.results then
      let u := s.applyPass o.line c o.clearPasses o.stamp
      if c = .hazard then u.evaluateQuarantine o.line else u
    else s

/-- The outcome of a ticketed programme: the classes in their order, then ALM once (R118). -/
def State.applyOutcome (s : State) (o : OutcomeIn) : State :=
  (FaultClass.all.foldl (fun t c => t.applyClass o c) s).evaluateAlm

end Sys2Proof.Machine
end

