-- ==== Sys2Proof/Machine/Programme.lean ====
section
/-!
DEFINITION. Programmes and releases: the start of a programme and its phases (chapter 4), its end (R85, R86), and the
release decision that may end it (R37, R38, R40, R63).
-/

namespace Sys2Proof.Machine

/-! ## Phases (R76, R77, R79, R80) -/

/-- The snapshot step of the step a context stands in; step 0, the precheck, has none. -/
def Context.step? (c : Context) : Option SnapStep := if c.stepIndex = 0 then none else c.steps[c.stepIndex - 1]?

/-- The kind of the step a context stands in; the precheck is VDC (R77). -/
def Context.kind (c : Context) : StepKind := match c.step? with
  | some s => s.kind
  | none => .vdc

/-- The pair of the phase a context stands in (R76, R77). -/
def Context.pair (c : Context) : Pair := match c.step? with
  | some s => s.pair
  | none => if c.phase = .legBe then .be else .ae

/-- The settle time of a phase: 20 ms in the precheck (R77). -/
def Context.settleMs (c : Context) : Nat := match c.step? with
  | some s => s.settle
  | none => 20

/-- The sample count of a phase: 4 in the precheck (R77). -/
def Context.sampleCount (c : Context) : Nat := match c.step? with
  | some s => s.samples
  | none => 4

/-- The source volts of the step a context stands in. -/
def Context.volts (c : Context) : Int := match c.step? with
  | some s => s.source
  | none => 0

/-- Whether a phase applies the source: phase M of RES (R79) and the phase of CAP (R80). -/
def phaseApplies (kind : StepKind) : Phase → Bool
  | .m => true
  | .mAgain => true
  | .single => kind == .cap
  | .legAe => false
  | .legBe => false
  | .f => false

/-- A context at the beginning of a phase: head set-up, an empty accumulator (R76, R90), and the source-applied flag
set where the phase applies the source (R74). -/
def Context.enter (c : Context) (ph : Phase) (now : Nat) : Context :=
  { c with phase := ph, stage := .setUp, due := now + headSetUp, acc := {}
           sourceApplied := c.sourceApplied || phaseApplies c.kind ph }

/-- A phase begun on a unit: the source is switched on from its start where the phase applies it (R76). -/
def State.beginPhase (s : State) (u : MuId) (c : Context) (ph : Phase) : State :=
  s.updMu u fun m =>
    { m with context := some (c.enter ph s.now)
             source := if phaseApplies c.kind ph then some c.volts else none }

/-- The range a RES step begins at: its own, or R100K when AUTO (R79). -/
def startRange : RangeSel → Range
  | .fixed r => r
  | .auto => .r100k

/-- A context at the beginning of a step. -/
def Context.atStep (c : Context) (i : Nat) : Context :=
  let d := { c with stepIndex := i, vf := none, vm := none, legAe := none, ranged := false }
  { d with range := match d.step? with
      | some s => startRange s.range
      | none => .r100k }

/-- The first phase of a step (R77, R78, R79, R80). -/
def firstPhase (i : Nat) (kind : StepKind) : Phase :=
  if i = 0 then .legAe else match kind with
    | .res => .f
    | .vdc => .single
    | .vac => .single
    | .cap => .single

/-- A step begun on a unit. -/
def State.beginStep (s : State) (u : MuId) (c : Context) (i : Nat) : State :=
  s.beginPhase u (c.atStep i) (firstPhase i (c.atStep i).kind)

/-! ## Starting a programme (R73, R74) -/

/-- The results of a programme at its start: NOT_RUN for step 0 and every user step (R74). -/
def freshResults (steps : List SnapStep) : List StepResult :=
  { index := 0, kind := .vdc, pair := .ae }
    :: steps.zipIdx.map fun x => { index := x.2 + 1, kind := x.1.kind, pair := x.1.pair }

/-- The context of a programme at its start, with its snapshots (R74). -/
def State.newContext (s : State) (b : BusId) (l : LineId) (p : ProgId) (src : Source) (tag : HolderTag)
    (ticket : Bool) : Context :=
  let steps := snapSteps (s.library.get p)
  { programme := p, steps := steps, cls := (s.line l).cls, classRec := s.classOf l, holder := src, tag := tag
    bus := b, line := l, ticket := ticket, results := freshResults steps }

/-- A programme started on a unit for the holder of a bus (R73): the unit MEASURING, the grant programme cleared, step
0 begun. -/
def State.startProgramme (s : State) (b : BusId) (u : MuId) (p : ProgId) (tag : HolderTag) (ticket : Bool) : State :=
  match (s.bus b).holder, (s.bus b).line with
  | some src, some l =>
    let c := s.newContext b l p src tag ticket
    let t := s.updBus b fun r => { r with grantProgramme := none }
    (t.updMu u fun m => { m with state := .measuring }).beginStep u c 0
  | _, _ => s

/-- The grant programme of a HELD bus started when its unit is ATTACHED (R26, R71, R73). -/
def State.startGrantProgramme (s : State) (b : BusId) : State :=
  let r := s.bus b
  match r.state, r.boundMu, r.grantProgramme, r.holderTag with
  | .held, some u, some p, some tag =>
    if (s.mu u).state = .attached then s.startProgramme b u p tag true else s
  | _, _, _, _ => s

/-! ## The end of a programme (R85, R86) -/

/-- The end cause that matches a release cause on a MEASURING unit (R38). A decision for PROGRAMME_DONE or HAZARD
follows an end and finds no unit MEASURING (log 27). -/
def Cause.endCause : Cause → EndCause
  | .holder => .aborted
  | .intruded => .intruded
  | .lineBusy => .lineBusy
  | .unsupervised => .unsupervised
  | .portReset => .portReset
  | .restart => .restart
  | .programmeDone => .aborted
  | .hazard => .aborted

/-- The results at an end: the step in flight, if any, becomes ABORTED (R85). -/
def Context.endResults (c : Context) : List StepResult :=
  c.results.map fun r => if r.index = c.stepIndex ∧ r.status = .notRun then { r with status := .aborted } else r

/-- The unit after an end: the source off, and DISCHARGING when the source was applied, else ATTACHED (R85, R87). -/
def endedUnit (now discharge : Nat) (c : Context) (m : MuRec) : MuRec :=
  if c.sourceApplied then
    { m with state := .discharging, context := none, source := none
             discharge := some (now + ms discharge), switchPair := some c.pair }
  else { m with state := .attached, context := none, source := none }

/-- The PROGRAMME_END to the holder's port, or its content to RSS (R86). -/
def State.reportEnd (s : State) (c : Context) (cause : EndCause) (rs : List StepResult) : State :=
  if c.holder = .rs then s.sweepTestEnded c.bus (worstVerdict rs)
  else s.toHolder (some c.holder) (some c.tag) fun p =>
    .programmeEnd c.programme c.bus (s.lineFor p c.line) cause (worstVerdict rs) (stepsDone rs) (stepsRemaining rs)

/-- The end of a programme up to what the access controller does with it (R85, R86): the unit, the PROGRAMME_END, and
the ticket unit when the ticket flag is set. -/
def State.endProgramme (s : State) (u : MuId) (cause : EndCause) : State :=
  match (s.mu u).context with
  | none => s
  | some c =>
    let rs := c.endResults
    let t := s.updMu u (endedUnit s.now s.config.discharge c)
    let t := t.reportEnd c cause rs
    if c.ticket then t.applyOutcome ⟨c.holder, c.line, c.classRec.clearPasses, cause, rs, s.stamp⟩ else t

/-! ## Releases (R37, R38, R40, R63) -/

/-- A bus record with its release decided: the cause recorded and a PENDING intrusion become GRANTED owed (R63). -/
def decideRelease (c : Cause) (r : BusRec) : BusRec :=
  let r' := { r with releasePending := some c }
  match r.intrusion with
  | .pending _ => { r' with intrusion := .none, owed := some .granted }
  | .none => r'
  | .kept => r'

/-- The bus record on entering RELEASING (R40). -/
def releasingBus (due : Nat) (r : BusRec) : BusRec :=
  { r with state := .releasing, termination := .none, boundMu := none, grantProgramme := none, relayDue := some due }

/-- Entering RELEASING (R40): the bound unit is unbound, which causes a scan and tells RSS, and the relays begin to
release. -/
def State.enterReleasing (s : State) (b : BusId) : State :=
  let t := s.updBus b (releasingBus (s.now + ms s.config.release))
  match (s.bus b).boundMu with
  | some u => (t.unbindMu u).scanThenTrigger
  | none => t

/-- The record of a HELD bus at its release decision: the cause recorded, the grant programme cleared (R38). -/
def heldDecided (c : Cause) (r : BusRec) : BusRec := { decideRelease c r with state := .held, grantProgramme := none }

/-- The programme of a MEASURING unit ended by a release decision (R38). -/
def State.endIfMeasuring (s : State) (u : MuId) (c : Cause) : State :=
  if (s.mu u).state = .measuring then s.endProgramme u c.endCause else s

/-- A bus whose release is decided: to DRAINING while its unit is DISCHARGING, else to RELEASING (R38). -/
def State.drainOrRelease (s : State) (b : BusId) (u : MuId) : State :=
  if (s.mu u).state = .discharging then s.updBus b fun r => { r with state := .draining, relayDue := none }
  else s.enterReleasing b

/-- A release decision on a HELD bus (R38). -/
def State.releaseHeld (s : State) (b : BusId) (c : Cause) : State :=
  let t := s.updBus b (heldDecided c)
  match (s.bus b).boundMu with
  | none => t.enterReleasing b
  | some u => (t.endIfMeasuring u c).drainOrRelease b u

/-- A release decision on a bus (R37). -/
def State.releaseDecision (s : State) (b : BusId) (c : Cause) : State :=
  match (s.bus b).state with
  | .free => s
  | .operating => if (s.bus b).releasePending.isSome then s else s.updBus b (decideRelease c)
  | .switching => if (s.bus b).releasePending.isSome then s else s.updBus b (decideRelease c)
  | .held => s.releaseHeld b c
  | .draining => s
  | .releasing => s

/-- A release decision with one cause on every bus with a property, lowest number first (log 10). -/
def State.releaseWhere (s : State) (p : BusRec → Bool) (c : Cause) : State :=
  allBuses.foldl (fun t b => if p (t.bus b) then t.releaseDecision b c else t) s

/-- A programme ended by itself or by ABORT: an automated holder's bus is released at the same event after COMPLETE or
HAZARD (R43, R86). -/
def State.programmeEnds (s : State) (u : MuId) (cause : EndCause) : State :=
  match (s.mu u).context with
  | none => s
  | some c =>
    let t := s.endProgramme u cause
    if c.holder.automated then
      match cause with
      | .complete => t.releaseDecision c.bus .programmeDone
      | .hazard => t.releaseDecision c.bus .hazard
      | .aborted => t
      | .intruded => t
      | .lineBusy => t
      | .unsupervised => t
      | .portReset => t
      | .restart => t
    else t

/-! ## Step completion (R82) -/

/-- A context with the result of the step it stands in (R82). -/
def Context.withResult (c : Context) (r : StepResult) : Context := { c with results := c.results.set c.stepIndex r }

/-- STEP_RESULT to a desk or MC holder; none for RS (R82). -/
def State.reportStep (s : State) (c : Context) (r : StepResult) : State :=
  match c.holder.port? with
  | some p => s.pushNotice p (.stepResult c.programme c.bus (s.lineFor p c.line) r)
  | none => s

/-- What follows a step's completion: the programme's end on HAZARD (R77, R81) or after its last step, else the next
step (R76). -/
def State.afterStep (s : State) (u : MuId) (c : Context) (r : StepResult) : State :=
  if r.verdict = some .hazard then s.programmeEnds u .hazard
  else if c.stepIndex = c.steps.length then s.programmeEnds u .complete
  else s.beginStep u c (c.stepIndex + 1)

/-- A step completed with its result, the source off (R82). -/
def State.completeStep (s : State) (u : MuId) (c : Context) (r : StepResult) : State :=
  let c' := c.withResult r
  ((s.updMu u fun m => { m with context := some c', source := none }).reportStep c' r).afterStep u c' r

/-- The result of the precheck from its legs' means and whether each clipped (R77, R105). -/
def precheckResult (cr : ClassRec) (ae be : Int) (clip : Bool) : StepResult :=
  { index := 0, kind := .vdc, pair := if ae.natAbs < be.natAbs then .be else .ae, status := .done
    value := some (if ae.natAbs < be.natAbs then be else ae), clip := clip
    verdict := some (judgePrecheck cr ae be clip) }

/-- The result of a clipped step other than the precheck (R81, R106). -/
def clippedResult (c : Context) (mean : Int) : StepResult :=
  { index := c.stepIndex, kind := c.kind, pair := c.pair, status := .done, value := some mean
    range := if c.kind = .res then some c.range else none, clip := true, ranged := c.ranged
    verdict := some .hazard }

/-- The result of an unclipped VDC or VAC step (R78, R92, R93). -/
def plainResult (c : Context) (value : Int) : StepResult :=
  { index := c.stepIndex, kind := c.kind, pair := c.pair, status := .done, value := some value
    verdict := some (judgeStep c.classRec c.kind value) }

/-- The result of an unclipped RES step from Vf and the last Vm (R95, R100). -/
def resResult (c : Context) (vf vm : Int) : StepResult :=
  let x := resistance c.range.ohms (resInputs vf vm c.volts)
  { index := c.stepIndex, kind := .res, pair := c.pair, status := .done, value := some x.ohms, range := some c.range
    isOver := x.isOver, isUnder := x.isUnder, ranged := c.ranged
    verdict := some (judgeStep c.classRec .res x.ohms) }

/-- The result of a CAP step from the meter's reading (R101 to R104). -/
def capResult (c : Context) (reading : Nat) (saturated : Bool) : StepResult :=
  let f := capacitance (chargeOf reading saturated) c.volts
  { index := c.stepIndex, kind := .cap, pair := c.pair, status := .done, value := some f
    isOver := saturated || distanceLimited f c.classRec.cpk
    verdict := some (judgeStep c.classRec .cap f), distance := some (distanceOf f c.classRec.cpk) }

/-- What a RES step does at the end of a phase M that did not clip: the range test after the first one of an AUTO step
(R99), which keeps Vm until the phase taken once more replaces it (R95), else the result. -/
def State.endPhaseM (s : State) (u : MuId) (c : Context) (vm : Int) : State :=
  let vf := c.vf.getD 0
  let auto := c.step?.any fun x => x.range == .auto
  match if c.phase = .m ∧ auto then rangeTest (resInputs vf vm c.volts) c.range else none with
  | some r => s.beginPhase u { c with range := r, ranged := true, vm := some vm } .mAgain
  | none => s.completeStep u c (resResult c vf vm)

/-- The end of a phase that takes samples, its accumulator complete (R95). -/
def State.endPhase (s : State) (u : MuId) (c : Context) : State :=
  let mean := c.acc.mean
  match c.phase with
  | .legAe => s.beginPhase u { c with legAe := some (mean, c.acc.clip) } .legBe
  | .legBe =>
    let ae := c.legAe.getD (0, false)
    s.completeStep u c (precheckResult c.classRec ae.1 mean (ae.2 || c.acc.clip))
  | .single =>
    if c.acc.clip then s.completeStep u c (clippedResult c mean)
    else s.completeStep u c (plainResult c (if c.kind = .vac then (c.acc.rms : Int) else mean))
  | .f =>
    if c.acc.clip then s.completeStep u c (clippedResult c mean)
    else s.beginPhase u { c with vf := some mean } .m
  | .m => if c.acc.clip then s.completeStep u c (clippedResult c mean) else s.endPhaseM u c mean
  | .mAgain => if c.acc.clip then s.completeStep u c (clippedResult c mean) else s.endPhaseM u c mean

end Sys2Proof.Machine
end

