-- ==== Sys2Proof/Machine/Store.lean ====
section
/-!
DEFINITION. The Store Controller (chapter 9): the write service, the loading of pages into the shadows, autoload and
its completion, and the phases of a restart.
-/

namespace Sys2Proof.Machine

/-! ## What a page is (R164) -/

/-- The areas of the array, with what a page of each covers (R164). -/
inductive PageKind where
  | config0
  | config1
  | cls (c : ClassId)
  | map (k : Fin 64)
  | progFirst (p : ProgId)
  | progSecond (p : ProgId)
  | ticket (n : SlotId)
  deriving DecidableEq, Repr

/-- The area a page number lies in (R164). -/
def pageKind (p : PageId) : PageKind :=
  if p.val = 0 then .config0
  else if p.val = 1 then .config1
  else if h : p.val < 10 then .cls ⟨p.val - 2, by omega⟩
  else if h : p.val < 74 then .map ⟨p.val - 10, by omega⟩
  else if h : p.val < 106 then
    if (p.val - 74) % 2 = 0 then .progFirst ⟨(p.val - 74) / 2, by omega⟩
    else .progSecond ⟨(p.val - 74) / 2, by omega⟩
  else .ticket ⟨p.val - 106, by have := p.isLt; omega⟩

/-- The page of a ticket slot (R164). -/
def slotPageId (n : SlotId) : PageId := ⟨106 + n.val, by have := n.isLt; omega⟩

/-- Whether a page is a ticket slot's. -/
def isTicketPage (p : PageId) : Bool := 106 ≤ p.val

/-! ## The write service (R172) -/

/-- The first dirty slot after the last one written, going round from 255 to 0 (R172). -/
def nextDirty (dirty : Tab Bool 256) (last : SlotId) : Option SlotId :=
  match dirty.indexed.find? fun x => decide (last.val < x.1.val) && x.2 with
  | some x => some x.1
  | none => (dirty.indexed.find? fun x => decide (x.1.val ≤ last.val) && x.2).map Prod.fst

/-- Whether any slot is dirty. -/
def Store.anyDirty (t : Store) : Bool := t.dirty.items.any id

/-- The write service's choice of its next page (R172): none in LOADING or with a page in flight; first a settings
write, then the next dirty slot, whose contents are taken and mark cleared as its write begins. -/
def State.chooseWrite (s : State) : State :=
  let st := s.store
  if st.phase = .loading ∨ st.inFlight.isSome then s
  else match st.settingsWrite with
    | some w => { s with store := { st with inFlight := some ⟨w.page, w.data, s.now + pageWriteTime⟩ } }
    | none =>
      match nextDirty st.dirty st.lastSlot with
      | some n =>
        { s with store :=
            { st with
              inFlight := some ⟨slotPageId n, slotPage (s.slot n), s.now + pageWriteTime⟩
              dirty := st.dirty.set n false
              lastSlot := n } }
      | none => s

/-- A page of the array written with its data and check (R165). -/
def Store.writePage (t : Store) (p : PageId) (d : PageData) : Store :=
  { t with array := t.array.set p ⟨d, pageCheck d⟩ }

/-! ## Loading pages into the shadows (R167, R170) -/

/-- The class fields of a map page's 32 lines written (R13). -/
def State.loadMap (s : State) (k : Fin 64) (cls : Nat → ClassId) : State :=
  { s with lines := s.lines.mapIdx fun l r => if l.val / 32 = k.val then { r with cls := cls (l.val % 32) } else r }

/-- A settings page loaded into its shadow (R167, R170); a ticket page is loaded by autoload alone. -/
def State.loadShadow (s : State) (p : PageId) (d : PageData) : State :=
  match pageKind p with
  | .config0 => { s with config := loadConfig0 d }
  | .config1 => { s with sweepCfg := loadConfig1 d }
  | .cls c => { s with classes := s.classes.set c (loadClass d) }
  | .map k => s.loadMap k fun j => loadClassId (pageByte d j)
  | .progFirst q => { s with library := s.library.set q (loadFirstPage d (s.library.get q)) }
  | .progSecond q => { s with library := s.library.set q (loadSecondPage d (s.library.get q)) }
  | .ticket _ => s

/-- A bad page's area given its defaults, and the page counted (R167). -/
def State.loadDefault (s : State) (p : PageId) : State :=
  let b := s.store.bad
  let count (b : BadCounts) (t : State) : State := { t with store := { t.store with bad := b } }
  match pageKind p with
  | .config0 => count { b with config := b.config + 1 } { s with config := {} }
  | .config1 => count { b with config := b.config + 1 } { s with sweepCfg := {} }
  | .cls c => count { b with cls := b.cls + 1 } { s with classes := s.classes.set c {} }
  | .map k => count { b with map := b.map + 1 } (s.loadMap k fun _ => 0)
  | .progFirst q =>
    count { b with prog := b.prog + 1 } { s with library := s.library.set q (defaultFirstPage q (s.library.get q)) }
  | .progSecond q =>
    count { b with prog := b.prog + 1 } { s with library := s.library.set q (defaultSecondPage q (s.library.get q)) }
  | .ticket _ => count { b with ticket := b.ticket + 1 } s

/-- A good page read by autoload (R167): a ticket page that is not 32 zero bytes is kept for the examination. -/
def State.loadGood (s : State) (p : PageId) (d : PageData) : State :=
  match pageKind p with
  | .ticket n =>
    if isEmptySlotPage d then s else { s with store := { s.store with image := s.store.image ++ [(n, d)] } }
  | .config0 => s.loadShadow p d
  | .config1 => s.loadShadow p d
  | .cls _ => s.loadShadow p d
  | .map _ => s.loadShadow p d
  | .progFirst _ => s.loadShadow p d
  | .progSecond _ => s.loadShadow p d

/-- The autoload begun (R167): LOADING, no page read yet. -/
def State.beginAutoload (s : State) : State :=
  { s with store :=
      { s.store with phase := .loading, loadIndex := 0, loadDue := s.now + pageReadTime, bad := {}, image := [] } }

/-- The next page of an autoload read (R167). -/
def State.readPage (s : State) : State :=
  match s.store.phase, pageOf? s.store.loadIndex with
  | .loading, some p =>
    let t := s.reach s.store.loadDue
    let page := s.store.array.get p
    let t := if pageGood page.data page.check then t.loadGood p page.data else t.loadDefault p
    { t with store := { t.store with loadIndex := s.store.loadIndex + 1, loadDue := s.store.loadDue + pageReadTime } }
  | _, _ => s

/-! ## The examination of loaded tickets (R147) -/

/-- What the examination has so far: the table, the slots marked dirty, the slots discarded. -/
structure Examined where
  tickets : Tab (Option Ticket) 256
  dirty : Tab Bool 256
  discarded : Nat
  deriving DecidableEq, Repr

/-- Whether a loaded ticket conflicts with one kept from a lower slot (R147): its number, or its line and fault class
among the non-cleared. -/
def conflicts (kept : Tab (Option Ticket) 256) (t : Ticket) : Bool :=
  kept.items.any fun o => match o with
    | none => false
    | some k =>
      k.number == t.number
        || (t.nonCleared && k.nonCleared && k.line == t.line && k.cls == t.cls)

/-- One loaded slot examined (R147): discarded, or kept with its corrections; either change marks it dirty. -/
def examineSlot (e : Examined) (x : SlotId × PageData) : Examined :=
  match loadTicket x.2 with
  | none => { e with dirty := e.dirty.set x.1 true, discarded := e.discarded + 1 }
  | some t =>
    if conflicts e.tickets t then { e with dirty := e.dirty.set x.1 true, discarded := e.discarded + 1 }
    else
      { e with
        tickets := e.tickets.set x.1 (some t)
        dirty := if ticketCorrected x.2 t then e.dirty.set x.1 true else e.dirty }

/-- The table loaded from the ticket pages, in ascending slot order (R147). -/
def examine (image : List (SlotId × PageData)) (dirty : Tab Bool 256) : Examined :=
  image.foldl examineSlot ⟨Tab.replicate 256 none, dirty, 0⟩

/-- The number counter after an autoload: one past the highest number held, 1 when that is 65535 or the table is empty
(R147). -/
def counterAfterLoad (tickets : Tab (Option Ticket) 256) : Nat :=
  let top := tickets.items.foldl (fun a o => match o with
    | some t => max a t.number
    | none => a) 0
  if top = 0 then 1 else nextNumber top

/-- The lines with a non-cleared HAZARD ticket (R120). -/
def hazardLines (tickets : Tab (Option Ticket) 256) : List LineId :=
  tickets.items.filterMap fun o => match o with
    | some t => if t.cls == .hazard && t.nonCleared then some t.line else none
    | none => none

/-- The pair that a free code stands for in a ticket of a class: one of the three for FOREIGN_DC and FOREIGN_AC, whose
steps are VDC and VAC; perhaps none for HAZARD, whose step may be a clipped RES or CAP; none for the others (R113). -/
def freePair (c : FaultClass) (code : Nat) : Option Pair :=
  let pair (k : Nat) : Option Pair := match k with
    | 0 => some .ab
    | 1 => some .ae
    | 2 => some .be
    | _ => none
  match c with
  | .hazard => pair (code % 4)
  | .foreignDc => pair (code % 3)
  | .foreignAc => pair (code % 3)
  | .lowIrAb => none
  | .lowIrAe => none
  | .lowIrBe => none
  | .openLine => none

/-- A loaded ticket with the pair of its last value, which its record does not hold (R113, 10.6): the pair the slot's ticket
had before the autoload, when that ticket is the same in all else, since a restart's reloaded table equals the table before
it (R147); else a free value (DESIGN CHOICE, log 33). -/
def State.withLoadedPair (s : State) (n : SlotId) (t : Ticket) : Ticket :=
  let free : Ticket := { t with pair := freePair t.cls (Config.loadedPair s.draws n.val) }
  match s.slot n with
  | some o => if { o with pair := none } = t then o else free
  | none => free

/-- Step 1 and 2 of the autoload completion (R168): the tickets with the pairs of their last values, the counter, and every
line's quarantine, rebuilt with no offer (R124). -/
def State.loadTickets (s : State) : State :=
  let e := examine s.store.image s.store.dirty
  let b := s.store.bad
  let t :=
    { s with
      tickets := e.tickets.mapIdx fun n o => o.map (s.withLoadedPair n)
      draws := s.draws + 1
      counter := counterAfterLoad e.tickets
      store := { s.store with dirty := e.dirty, image := [], bad := { b with ticket := b.ticket + e.discarded } } }
  let hz := hazardLines e.tickets
  { t with lines := t.lines.mapIdx fun l r => { r with quarantined := hz.contains l || r.hasPending .hazard } }

/-- A unit at the end of an autoload: STANDBY with its standby timer stopped (R88, R168). -/
def standbyUnit (m : MuRec) : MuRec := { m with state := .standby, standby := none }

/-- Step 4 of the autoload completion for RSS (R168, R162): enabled from start-enabled, the cursor at the range first
after a POR (R151), the pacing timer started, the state derived. -/
def State.setUpSweep (s : State) : State :=
  let w := s.sweep
  let cursor := match s.store.resetCause with
    | .por => s.sweepCfg.first
    | .restart => w.cursor
  let t := { s with sweep := { w with enabled := s.sweepCfg.startEnabled, cursor := cursor } }
  t.startPacing.rederive

/-! ## The drain and access quiet (R174) -/

/-- Access quiet (R45, R174): in QUIESCING with every bus FREE the phase becomes DRAINING. -/
def State.accessQuietIfDue (s : State) : State :=
  if s.store.phase = .quiescing ∧ (allBuses.all fun b => (s.bus b).state == .free) then
    { s with store := { s.store with phase := .draining } }
  else s

/-- The drain's end (R174): in DRAINING with no settings write, no page in flight and no dirty slot, autoload begins. -/
def State.drainEndIfDue (s : State) : State :=
  if s.store.phase = .draining ∧ s.store.settingsWrite.isNone ∧ s.store.inFlight.isNone ∧ ¬ s.store.anyDirty then
    s.beginAutoload
  else s

end Sys2Proof.Machine
end

