-- ==== Sys2Proof/Machine/Exchange.lean ====
section
/-!
DEFINITION. The Exchange Supervisor (chapter 3): lapses (R51), valid frames and restoration (R47, R52), and the end of
an event, at which an overflow's lapse takes its further effects and the store takes its next step (logs 7, 8).
-/

namespace Sys2Proof.Machine

/-! ## Lapses (R51) -/

/-- Steps 3 and 4 of a lapse (R51): MC and RS buses released, SUPERVISION_LOST to the desks and M; the sweep state is
derived again (R153). -/
def State.lapseEffects (s : State) (c : LapseCause) : State :=
  let t := s.releaseWhere (fun r => r.holder.any Source.automated) .unsupervised
  let t := t.pushNotices desksAndM (.supervisionLost c)
  t.rederive

/-- A supervision lapse (R51). -/
def State.lapse (s : State) (c : LapseCause) : State := s.lapseState.lapseEffects c

/-- The lapse of an overflow in this event taken to its end (R57, log 7). -/
def State.settleLapse (s : State) : State :=
  match s.lapseInHand with
  | some c => { s with lapseInHand := none }.lapseEffects c
  | none => s

/-- The end of an event: an overflow's lapse (log 7), access quiet (R45), the write service's choice (R172, log 8), and
the drain's end (R174). -/
def State.finish (s : State) : State := s.settleLapse.accessQuietIfDue.chooseWrite.drainEndIfDue

/-! ## Valid frames from X (R47, R48, R52) -/

/-- The lines whose blocked flag is set, ascending, with the bus on each (R52). -/
def State.blockedLines (s : State) : List (LineId × Option BusId) :=
  s.lines.indexed.filterMap fun (l, r) => if r.blocked then some (l, r.onBus) else none

/-- The resync queued to X as a unit, the queue emptied first when it lacks room (R52, R57). -/
def State.resync (s : State) : State :=
  let ls := s.blockedLines
  let t := if s.freeEntries .x < ls.length + 2 then s.emptyQueue .x else s
  let t := t.pushKept .x none .resyncBegin
  let t := ls.foldl (fun u x => u.pushKept .x none (.block x.1 x.2)) t
  t.pushKept .x none .resyncEnd

/-- The supervision timer started with the interval in the shadow (R48). -/
def State.startSupervisionTimer (s : State) : State :=
  { s with supTimer := some (s.now + seconds s.config.interval) }

/-- The restoration of supervision (R52). -/
def State.restore (s : State) : State :=
  let t := { s with supervised := true }.startSupervisionTimer
  let t := t.resync
  let t := t.pushNotices desksAndM .supervisionRestored
  t.scan.rederive

/-- The supervision effect of a valid frame from X; none while STARTING (R47, R50). -/
def State.validFrameFromX (s : State) : State :=
  if ¬ s.isRunning then s
  else if s.supervised then s.startSupervisionTimer
  else s.restore

/-! ## The arrival of an order (R176, R178) -/

/-- The arrival of a valid frame from a port, up to its checks: with fewer than 2 free entries it is discarded and the
marker set (R178); from X its supervision effect comes first (R47); then `take` handles it. -/
def State.frameArrival (s : State) (p : Port) (take : State → State) : State :=
  if s.freeEntries p < 2 then s.markLost p
  else take (if p = .x then s.validFrameFromX else s)

/-- The checks of an order of a known kind (R176): the port's role, then STARTING, then its handler. -/
def State.checkedOrder (s : State) (c : OrderCtx) (k : OrderKind) (handle : State → State) : State :=
  if ¬ orderPermits k c.port then s.reply c .notPermitted
  else if ¬ s.isRunning then s.reply c .starting
  else handle s

/-- The arrival of an order's frame (R176, R178), with its handler. An order command is taken and answered also while its
port's line stands at space, where R181 lets no frame begin; only received bytes heed the break (DESIGN CHOICE, log 34). -/
def State.arrival (s : State) (p : Port) (tag : Byte) (k : OrderKind) (handle : OrderCtx → State → State) : State :=
  let c : OrderCtx := ⟨p, tag, k.code⟩
  s.frameArrival p fun t => t.checkedOrder c k (handle c)

end Sys2Proof.Machine
end

