-- ==== Sys2Proof/Machine/AccessOrders.lean ====
section
/-!
DEFINITION. The orders that ask for, switch, keep and give back buses, and run programmes on them: SEIZE, DEMAND_TEST,
CANCEL_WAIT, TERMINATE, RELEASE, RUN, ABORT, KEEP.
-/

namespace Sys2Proof.Machine

/-- What a command answers: the next state at the end of its event. -/
abbrev Answer := Host.Outcome State Fault Refusal

/-- The absolute line of an order's line field: through the desk's window (OUT_OF_WINDOW outside it), absolute from X
and M (BAD_PARAMETER above 2047) (R16, R20, R22). -/
def State.lineOperand (s : State) (p : Port) (n : Nat) : Except ReplyCode LineId :=
  match p with
  | .desk d => match s.fromDesk d n with
    | some l => .ok l
    | none => .error .outOfWindow
  | .x => match lineOf? n with
    | some l => .ok l
    | none => .error .badParameter
  | .m => match lineOf? n with
    | some l => .ok l
    | none => .error .badParameter

/-- Whether a desk holds a bus; a FREE bus has no holder. -/
def heldBy (d : DeskId) (r : BusRec) : Bool := r.holder == some (.desk d)

/-- Whether a bus's release has been decided (R42, R59). -/
def releaseDecided (r : BusRec) : Bool :=
  r.releasePending.isSome || r.state == .draining || r.state == .releasing

/-! ## SEIZE and DEMAND_TEST (R21 to R25, R30) -/

/-- Whether the programme of a request is empty in the library shadow (R22 check 4). -/
def State.programmeEmpty (s : State) (p : ProgId) : Bool := (s.library.get p).count == 0

/-- A request with its line and parameters known: checks 2 to 4 of R22, then a grant (R25), a place in the wait queue
(R30), or QUEUE_FULL. -/
def State.requestBus (s : State) (c : OrderCtx) (q : Request) : State :=
  match s.admission q.line q.source q.termination .order with
  | some code => s.reply c code
  | none =>
    if s.allowance q.source ≤ s.countOf q.source then s.reply c .noAllowance
    else if q.programme.any s.programmeEmpty then s.reply c .noProgramme
    else match s.needs q.source q.termination with
      | some (b, u) => (s.reply c .accepted (.bus b)).grant q b u
      | none =>
        if s.waitQueue.length < waitCapacity then (s.reply c .queued).placeWait q else s.reply c .queueFull

/-- The parameters of a SEIZE (R21): MU or TALK, a programme up to 15 and only with MU. -/
def seizeParams (term : Nat) (prog : Option Nat) : Option (Termination × Option ProgId) :=
  match termOfCode term, prog with
  | some .mu, none => some (.mu, none)
  | some .mu, some n => (progOf? n).map fun p => (.mu, some p)
  | some .talk, none => some (.talk, none)
  | some .talk, some _ => none
  | some .none, _ => none
  | none, _ => none

/-- SEIZE (R21, R22). -/
def seizeOrder (c : OrderCtx) (line term : Nat) (prog : Option Nat) (s : State) : State :=
  match c.port with
  | .desk d =>
    match seizeParams term prog with
    | none => s.reply c .badParameter
    | some (t, p) =>
      match s.fromDesk d line with
      | none => s.reply c .outOfWindow
      | some l => s.requestBus c ⟨.desk d, .order c.tag, l, t, p⟩
  | .x => s
  | .m => s

/-- The arrival of a SEIZE. -/
def seizeArrival (p : Port) (tag : Byte) (line term : Nat) (prog : Option Nat) (s : State) : State :=
  s.arrival p tag .seize fun c => seizeOrder c line term prog

/-- SEIZE: R21 to R25, R30. -/
def execSeize (p : Port) (tag : Byte) (line term : Nat) (prog : Option Nat) (s : State) : Answer :=
  .next (seizeArrival p tag line term prog s).finish

/-- DEMAND_TEST (R21, R22). -/
def demandTestOrder (c : OrderCtx) (line prog : Nat) (s : State) : State :=
  match progOf? prog, lineOf? line with
  | some p, some l => s.requestBus c ⟨.mc, .order c.tag, l, .mu, some p⟩
  | some _, none => s.reply c .badParameter
  | none, _ => s.reply c .badParameter

/-- The arrival of a DEMAND_TEST. -/
def demandTestArrival (p : Port) (tag : Byte) (line prog : Nat) (s : State) : State :=
  s.arrival p tag .demandTest fun c => demandTestOrder c line prog

/-- DEMAND_TEST: R21 to R25, R30. -/
def execDemandTest (p : Port) (tag : Byte) (line prog : Nat) (s : State) : Answer :=
  .next (demandTestArrival p tag line prog s).finish

/-! ## The end of a wait (R32 to R34) -/

/-- A wait entry ended without a grant: it leaves the queue and WAIT_EXPIRED goes to its source's port. -/
def State.expireWait (s : State) (e : WaitEntry) (cause : WaitCause) : State :=
  let t := s.removeWait e.req.line
  t.toHolder (some e.req.source) (some e.req.tag) fun p => .waitExpired cause (t.lineFor p e.req.line)

/-- CANCEL_WAIT (R33). -/
def cancelWaitOrder (c : OrderCtx) (line : Nat) (s : State) : State :=
  match s.lineOperand c.port line with
  | .error code => s.reply c code
  | .ok l =>
    match s.waitQueue.find? fun e => e.req.line == l && some e.req.source == portSource? c.port with
    | some e => (s.reply c .accepted).expireWait e .cancelled
    | none => s.reply c .badState

/-- The arrival of a CANCEL_WAIT. -/
def cancelWaitArrival (p : Port) (tag : Byte) (line : Nat) (s : State) : State :=
  s.arrival p tag .cancelWait fun c => cancelWaitOrder c line

/-- CANCEL_WAIT: R33. -/
def execCancelWait (p : Port) (tag : Byte) (line : Nat) (s : State) : Answer :=
  .next (cancelWaitArrival p tag line s).finish

/-! ## TERMINATE (R35) -/

/-- Checks 3 to 7 of a TERMINATE, the first that fails (R35). -/
def State.terminateCheck (s : State) (d : DeskId) (b : BusId) (term : Termination) : Option ReplyCode :=
  let r := s.bus b
  if r.state ≠ .held ∨ r.releasePending.isSome then some .badState
  else if r.boundMu.any fun u => (s.mu u).state != .attached then some .badState
  else if term = .talk ∧ r.line.any fun l => (s.line l).quarantined then some .quarantined
  else if term = .talk ∧ allBuses.any fun x => x != b && heldBy d (s.bus x) && (s.bus x).talkPair then some .badState
  else if term = .mu ∧ r.boundMu.isNone ∧ s.freeUnit?.isNone then some .noMu
  else none

/-- The bus record of an accepted TERMINATE (R35), with the unit bound for MU. -/
def switchingBus (tag : Byte) (term : Termination) (u : Option MuId) (due : Nat) (r : BusRec) : BusRec :=
  { r with state := .switching, terminateTag := some tag, termination := term, boundMu := u
           talkPair := r.talkPair || term == .talk, relayDue := some due }

/-- A bus's unit unbound, if it has one (R35). -/
def State.unbindAny (s : State) (u : Option MuId) : State :=
  match u with
  | some u => s.unbindMu u
  | none => s

/-- The unit a TERMINATE binds: the lowest-numbered free one for MU, none for NONE and TALK (R35, R24). -/
def State.newUnit (s : State) (term : Termination) : Option MuId := if term = .mu then s.freeUnit? else none

/-- The new unit chosen and bound, the relays beginning to switch (R35). -/
def State.beginSwitch (s : State) (b : BusId) (tag : Byte) (term : Termination) : State :=
  (s.bindMu (s.newUnit term) b).updBus b (switchingBus tag term (s.newUnit term) (s.now + ms s.config.switch))

/-- An accepted TERMINATE (R35): the old unit unbound, a new one chosen and bound for MU, the relays begin to switch,
and then the scan and the notice to RSS that an unbinding causes. -/
def State.switchTermination (s : State) (b : BusId) (tag : Byte) (term : Termination) : State :=
  let t := (s.unbindAny (s.bus b).boundMu).beginSwitch b tag term
  if (s.bus b).boundMu.isSome then t.scanThenTrigger else t

/-- TERMINATE (R35). -/
def terminateOrder (c : OrderCtx) (bus term : Nat) (s : State) : State :=
  match c.port with
  | .desk d =>
    match busOf? bus with
    | none => s.reply c .noSuchBus
    | some b =>
      match termOfCode term with
      | none => s.reply c .badParameter
      | some t =>
        if ¬ heldBy d (s.bus b) then s.reply c .notHolder
        else match s.terminateCheck d b t with
          | some code => s.reply c code
          | none => (s.reply c .accepted).switchTermination b c.tag t
  | .x => s
  | .m => s

/-- The arrival of a TERMINATE. -/
def terminateArrival (p : Port) (tag : Byte) (bus term : Nat) (s : State) : State :=
  s.arrival p tag .terminate fun c => terminateOrder c bus term

/-- TERMINATE: R35. -/
def execTerminate (p : Port) (tag : Byte) (bus term : Nat) (s : State) : Answer :=
  .next (terminateArrival p tag bus term s).finish

/-! ## RELEASE (R42) -/

/-- An order on a bus its desk must hold: NO_SUCH_BUS above 3, NOT_HOLDER for a bus the desk does not hold, which
includes a FREE bus (R42, R62, R83, R84). -/
def State.onHeldBus (s : State) (c : OrderCtx) (bus : Nat) (f : DeskId → BusId → State) : State :=
  match c.port with
  | .desk d =>
    match busOf? bus with
    | none => s.reply c .noSuchBus
    | some b => if heldBy d (s.bus b) then f d b else s.reply c .notHolder
  | .x => s
  | .m => s

/-- RELEASE (R42). -/
def releaseOrder (c : OrderCtx) (bus : Nat) (s : State) : State :=
  s.onHeldBus c bus fun _ b =>
    if releaseDecided (s.bus b) then s.reply c .badState
    else
      let t := (s.reply c .accepted).updBus b fun r => { r with releaseTag := some c.tag }
      t.releaseDecision b .holder

/-- The arrival of a RELEASE. -/
def releaseArrival (p : Port) (tag : Byte) (bus : Nat) (s : State) : State :=
  s.arrival p tag .release fun c => releaseOrder c bus

/-- RELEASE: R42. -/
def execRelease (p : Port) (tag : Byte) (bus : Nat) (s : State) : Answer :=
  .next (releaseArrival p tag bus s).finish

/-! ## RUN and ABORT (R83, R84) -/

/-- The ticket flag of a RUN: on without the flag, off for a flag of 0 (R83). -/
def runTicketing : Option Nat → Bool
  | none => true
  | some n => n != 0

/-- RUN on a bus the desk holds: checks 3 to 5 and the start (R83). -/
def runOn (c : OrderCtx) (b : BusId) (p : ProgId) (ticket : Bool) (s : State) : State :=
  let r := s.bus b
  if r.state ≠ .held ∨ r.releasePending.isSome ∨ r.termination ≠ .mu then s.reply c .badState
  else match r.boundMu with
    | none => s.reply c .badState
    | some u =>
      if (s.mu u).state ≠ .attached then s.reply c .badState
      else if s.programmeEmpty p then s.reply c .noProgramme
      else (s.reply c .accepted).startProgramme b u p (.order c.tag) ticket

/-- RUN (R83). -/
def runOrder (c : OrderCtx) (bus prog : Nat) (flag : Option Nat) (s : State) : State :=
  match busOf? bus, progOf? prog with
  | some _, none => s.reply c .badParameter
  | some _, some p => s.onHeldBus c bus fun _ b => runOn c b p (runTicketing flag) s
  | none, _ => s.onHeldBus c bus fun _ _ => s

/-- The arrival of a RUN. -/
def runArrival (p : Port) (tag : Byte) (bus prog : Nat) (flag : Option Nat) (s : State) : State :=
  s.arrival p tag .run fun c => runOrder c bus prog flag

/-- RUN: R83. -/
def execRun (p : Port) (tag : Byte) (bus prog : Nat) (flag : Option Nat) (s : State) : Answer :=
  .next (runArrival p tag bus prog flag s).finish

/-- ABORT (R84). -/
def abortOrder (c : OrderCtx) (bus : Nat) (s : State) : State :=
  s.onHeldBus c bus fun _ b =>
    match (s.bus b).boundMu with
    | none => s.reply c .badState
    | some u =>
      if (s.mu u).state = .measuring then (s.reply c .accepted).programmeEnds u .aborted
      else s.reply c .badState

/-- The arrival of an ABORT. -/
def abortArrival (p : Port) (tag : Byte) (bus : Nat) (s : State) : State :=
  s.arrival p tag .abort fun c => abortOrder c bus

/-- ABORT: R84. -/
def execAbort (p : Port) (tag : Byte) (bus : Nat) (s : State) : Answer :=
  .next (abortArrival p tag bus s).finish

/-! ## KEEP (R62) -/

/-- KEEP (R62). -/
def keepOrder (c : OrderCtx) (bus : Nat) (s : State) : State :=
  s.onHeldBus c bus fun _ b =>
    let r := s.bus b
    if r.owed.isSome then s.reply c .tooLate
    else match r.intrusion with
      | .none => s.reply c .badState
      | .kept => s.reply c .badState
      | .pending _ =>
        if r.line.any fun l => (s.classOf l).isProtected then s.reply c .isProtected
        else
          let t := (s.reply c .accepted).updBus b fun x => { x with intrusion := .kept, intrudeTag := none }
          t.pushKept .x r.intrudeTag (.intrudeAnswer .denied)

/-- The arrival of a KEEP. -/
def keepArrival (p : Port) (tag : Byte) (bus : Nat) (s : State) : State :=
  s.arrival p tag .keep fun c => keepOrder c bus

/-- KEEP: R62. -/
def execKeep (p : Port) (tag : Byte) (bus : Nat) (s : State) : Answer :=
  .next (keepArrival p tag bus s).finish

end Sys2Proof.Machine
end

