-- ==== Sys2Proof/Machine/AccessEvents.lean ====
section
/-!
DEFINITION. The events of the access switch controller and the exchange supervisor: relay completions, wait deadlines,
the supervision timer, the intrusion grace. An event brings time to the expiry of its timer (log 1); a command for a
timer that is not running, or for a bus not in the state the event needs, leaves the state as it is.
-/

namespace Sys2Proof.Machine

/-! ## OPERATE_COMPLETION (R26) -/

/-- BUS_GRANTED to the holder (R26); for RS the report changes nothing (R157). -/
def State.reportGranted (s : State) (b : BusId) (r : BusRec) (l : LineId) : State :=
  s.toHolder r.holder r.holderTag fun p => .busGranted b (s.lineFor p l) r.termination r.boundMu

/-- A bus whose relays have come to rest (R26, R36): HELD, or taken through the release decision with the pending
cause. -/
def State.settleBus (s : State) (b : BusId) : State :=
  match (s.bus b).releasePending with
  | some c => s.releaseHeld b c
  | none => s.updBus b fun r => { r with state := .held }

/-- The operate completion of a bus in OPERATING (R26). -/
def State.operateCompletion (s : State) (b : BusId) : State :=
  let r := s.bus b
  match r.state, r.relayDue, r.line with
  | .operating, some due, some l =>
    let t := (s.reach due).updBus b fun x => { x with relayDue := none }
    ((t.reportGranted b r l).settleBus b).startGrantProgramme b
  | _, _, _ => s

/-- OPERATE_COMPLETION: R26. -/
def execOperateCompletion (b : BusId) (s : State) : Answer := .next (s.operateCompletion b).finish

/-! ## SWITCH_COMPLETION (R36) -/

/-- TERMINATION_DONE to the holder desk, with the terminate tag (R36). -/
def State.reportTermination (s : State) (b : BusId) (r : BusRec) (l : LineId) : State :=
  match r.holder.bind Source.port? with
  | some p => s.pushKept p r.terminateTag (.terminationDone b (s.lineFor p l) r.termination r.boundMu)
  | none => s

/-- A talk pair that a switch completion frees, and the scan that brings (R36). -/
def State.freeTalkPair (s : State) (b : BusId) : State :=
  if (s.bus b).talkPair ∧ (s.bus b).termination ≠ .talk then
    (s.updBus b fun r => { r with talkPair := false }).scan
  else s

/-- The switch completion of a bus in SWITCHING (R36). -/
def State.switchCompletion (s : State) (b : BusId) : State :=
  let r := s.bus b
  match r.state, r.relayDue, r.line with
  | .switching, some due, some l =>
    let t := (s.reach due).reportTermination b r l
    let t := t.updBus b fun x => { x with relayDue := none, terminateTag := none }
    (t.freeTalkPair b).settleBus b
  | _, _, _ => s

/-- SWITCH_COMPLETION: R36. -/
def execSwitchCompletion (b : BusId) (s : State) : Answer := .next (s.switchCompletion b).finish

/-! ## RELEASE_COMPLETION (R41, R66) -/

/-- A line taken off its bus (R5). -/
def offBus (r : LineRec) : LineRec := { r with onBus := none, blocked := false }

/-- The answer an owed field stands for. -/
def Owed.answer : Owed → IntrudeAnswer
  | .granted => .granted
  | .withdrawn => .withdrawn

/-- The intrusion settled at a release completion (R66): an owed answer goes to X with its tag. -/
def State.settleIntrusion (s : State) (r : BusRec) : State :=
  match r.owed with
  | some o => s.pushKept .x r.intrudeTag (.intrudeAnswer o.answer)
  | none => s

/-- The tag a BUS_RELEASED bears: the release tag when there is one, else the holder tag (R41). -/
def releasedTag (r : BusRec) : Option HolderTag :=
  match r.releaseTag with
  | some t => some (.order t)
  | none => r.holderTag

/-- BUS_RELEASED to the holder: to its port, or to RSS for an RS hold (R41, R157). -/
def State.reportReleased (s : State) (b : BusId) (r : BusRec) (l : LineId) : State :=
  if r.holder = some .rs then s.sweepTestReleased b
  else s.toHolder r.holder (releasedTag r) fun p => .busReleased r.releasePending b (s.lineFor p l)

/-- The release completion of a bus in RELEASING, its five steps in order (R41). -/
def State.releaseCompletion (s : State) (b : BusId) : State :=
  let r := s.bus b
  match r.state, r.relayDue, r.line with
  | .releasing, some due, some l =>
    let t := ((s.reach due).updLine l offBus).pushKept .x none (.unblock l b)
    let t := (t.settleIntrusion r).reportReleased b r l
    (t.updBus b fun _ => {}).scanThenTrigger
  | _, _, _ => s

/-- RELEASE_COMPLETION: R41. -/
def execReleaseCompletion (b : BusId) (s : State) : Answer := .next (s.releaseCompletion b).finish

/-! ## WAIT_DEADLINE_EXPIRY (R32) -/

/-- The deadline of a line's wait entry reached (R32). -/
def State.waitDeadline (s : State) (l : LineId) : State :=
  match s.waitFor l with
  | some e => (s.reach e.deadline).expireWait e .timeout
  | none => s

/-- WAIT_DEADLINE_EXPIRY: R32. -/
def execWaitDeadlineExpiry (line : LineId) (s : State) : Answer := .next (s.waitDeadline line).finish

/-! ## SUPERVISION_TIMER_EXPIRY (R48, R51) -/

/-- The supervision timer's expiry (R48). -/
def State.supervisionExpiry (s : State) : State :=
  match s.supTimer with
  | some due => (s.reach due).lapse .timeout
  | none => s

/-- SUPERVISION_TIMER_EXPIRY: R48. -/
def execSupervisionTimerExpiry (s : State) : Answer := .next s.supervisionExpiry.finish

/-! ## GRACE_EXPIRY (R64) -/

/-- The grace deadline of a PENDING intrusion reached (R64). -/
def State.graceExpiry (s : State) (b : BusId) : State :=
  match (s.bus b).intrusion with
  | .pending due => (s.reach due).releaseDecision b .intruded
  | .none => s
  | .kept => s

/-- GRACE_EXPIRY: R64. -/
def execGraceExpiry (b : BusId) (s : State) : Answer := .next (s.graceExpiry b).finish

end Sys2Proof.Machine
end

