-- ==== Sys2Proof/Machine/CentreOrders.lean ====
section
/-!
DEFINITION. The maintenance centre's orders on the clock, the sweep, the settings and the part: SET_CLOCK, SWEEP_SET,
SWEEP_ENABLE to SWEEP_NEW_PASS, SETTINGS_WRITE, SETTINGS_READ, RESTART.
-/

namespace Sys2Proof.Machine

/-! ## SET_CLOCK (R149) -/

/-- Whether a SET_CLOCK's values lie in their ranges (R149). -/
def clockParams (day hour minute second : Nat) : Bool :=
  decide (day ≤ 65535) && decide (hour ≤ 23) && decide (minute ≤ 59) && decide (second ≤ 59)

/-- The day before a setting, taken as 0 for an invalid clock (R149). -/
def Clock.dayBefore (c : Clock) : Nat := if c.valid then c.day else 0

/-- The rest flag cleared (R150, R152, R160). -/
def State.clearRest (s : State) : State := { s with sweep := { s.sweep with rest := false } }

/-- The clock set (R149): the second being counted begins again; a change of day clears the rest flag (R150), and the
sweep state is derived again. -/
def State.clockSet (s : State) (day second : Nat) : State :=
  let t := { s with clock := ⟨day, second, true, s.now + seconds 1⟩ }
  (if day = s.clock.dayBefore then t else t.clearRest).rederive

/-- SET_CLOCK (R149). -/
def setClockOrder (c : OrderCtx) (day hour minute second : Nat) (s : State) : State :=
  if clockParams day hour minute second then
    (s.reply c .accepted).clockSet day (hour * 3600 + minute * 60 + second)
  else s.reply c .badParameter

/-- The arrival of a SET_CLOCK. -/
def setClockArrival (p : Port) (tag : Byte) (day hour minute second : Nat) (s : State) : State :=
  s.arrival p tag .setClock fun c => setClockOrder c day hour minute second

/-- SET_CLOCK: R149. -/
def execSetClock (p : Port) (tag : Byte) (day hour minute second : Nat) (s : State) : Answer :=
  .next (setClockArrival p tag day hour minute second s).finish

/-! ## The sweep orders (R159, R160) -/

/-- A settings write accepted (R169): it becomes pending; the write service takes it at the end of the event (log 8). -/
def State.acceptWrite (s : State) (c : OrderCtx) (page : PageId) (d : PageData) : State :=
  let t := s.reply c .accepted
  { t with store := { t.store with settingsWrite := some ⟨page, d, c.tag⟩ } }

/-- SWEEP_SET (R159): a settings write of page 1 formed from the values as given, the start-enabled from the shadow. -/
def sweepSetOrder (c : OrderCtx) (ws we first last prog pacing : Nat) (s : State) : State :=
  if s.store.settingsWrite.isSome then s.reply c .storeBusy
  else s.acceptWrite c 1 (config1Page ws we first last prog pacing s.sweepCfg.startEnabled)

/-- The arrival of a SWEEP_SET. -/
def sweepSetArrival (p : Port) (tag : Byte) (ws we first last prog pacing : Nat) (s : State) : State :=
  s.arrival p tag .sweepSet fun c => sweepSetOrder c ws we first last prog pacing

/-- SWEEP_SET: R159. -/
def execSweepSet (p : Port) (tag : Byte) (ws we first last prog pacing : Nat) (s : State) : Answer :=
  .next (sweepSetArrival p tag ws we first last prog pacing s).finish

/-- A sweep flag order (R160): ACCEPTED, its change of the sweep record, and a derivation of the state. -/
def State.sweepOrder (s : State) (c : OrderCtx) (f : SweepRec → SweepRec) : State :=
  let t := s.reply c .accepted
  { t with sweep := f t.sweep }.rederive

/-- SWEEP_ENABLE (R160). -/
def sweepEnableOrder (c : OrderCtx) (s : State) : State :=
  s.sweepOrder c fun w => { w with enabled := true, rest := false }

/-- The arrival of a SWEEP_ENABLE. -/
def sweepEnableArrival (p : Port) (tag : Byte) (s : State) : State := s.arrival p tag .sweepEnable sweepEnableOrder

/-- SWEEP_ENABLE: R160. -/
def execSweepEnable (p : Port) (tag : Byte) (s : State) : Answer := .next (sweepEnableArrival p tag s).finish

/-- SWEEP_DISABLE (R160). -/
def sweepDisableOrder (c : OrderCtx) (s : State) : State := s.sweepOrder c fun w => { w with enabled := false }

/-- The arrival of a SWEEP_DISABLE. -/
def sweepDisableArrival (p : Port) (tag : Byte) (s : State) : State := s.arrival p tag .sweepDisable sweepDisableOrder

/-- SWEEP_DISABLE: R160. -/
def execSweepDisable (p : Port) (tag : Byte) (s : State) : Answer := .next (sweepDisableArrival p tag s).finish

/-- SWEEP_HOLD (R160). -/
def sweepHoldOrder (c : OrderCtx) (s : State) : State := s.sweepOrder c fun w => { w with mcHold := true }

/-- The arrival of a SWEEP_HOLD. -/
def sweepHoldArrival (p : Port) (tag : Byte) (s : State) : State := s.arrival p tag .sweepHold sweepHoldOrder

/-- SWEEP_HOLD: R160. -/
def execSweepHold (p : Port) (tag : Byte) (s : State) : Answer := .next (sweepHoldArrival p tag s).finish

/-- SWEEP_RESUME (R160). -/
def sweepResumeOrder (c : OrderCtx) (s : State) : State := s.sweepOrder c fun w => { w with mcHold := false }

/-- The arrival of a SWEEP_RESUME. -/
def sweepResumeArrival (p : Port) (tag : Byte) (s : State) : State := s.arrival p tag .sweepResume sweepResumeOrder

/-- SWEEP_RESUME: R160. -/
def execSweepResume (p : Port) (tag : Byte) (s : State) : Answer := .next (sweepResumeArrival p tag s).finish

/-- The sweep record at a SWEEP_NEW_PASS (R160). -/
def newPass (first : Nat) (w : SweepRec) : SweepRec :=
  { w with cursor := first, tested := 0, skipped := 0, faulted := 0, pass := (w.pass + 1) % 65536
           closing := false, rest := false }

/-- SWEEP_NEW_PASS (R160). -/
def sweepNewPassOrder (c : OrderCtx) (s : State) : State := s.sweepOrder c (newPass s.sweepCfg.first)

/-- The arrival of a SWEEP_NEW_PASS. -/
def sweepNewPassArrival (p : Port) (tag : Byte) (s : State) : State := s.arrival p tag .sweepNewPass sweepNewPassOrder

/-- SWEEP_NEW_PASS: R160. -/
def execSweepNewPass (p : Port) (tag : Byte) (s : State) : Answer := .next (sweepNewPassArrival p tag s).finish

/-! ## SETTINGS_WRITE and SETTINGS_READ (R169, R171) -/

/-- SETTINGS_WRITE (R169): its checks in order. -/
def settingsWriteOrder (c : OrderCtx) (page : Nat) (d : PageData) (s : State) : State :=
  match pageOf? page with
  | none => s.reply c .badParameter
  | some p =>
    if isTicketPage p then s.reply c .notPermitted
    else if s.store.settingsWrite.isSome then s.reply c .storeBusy
    else s.acceptWrite c p d

/-- The arrival of a SETTINGS_WRITE. -/
def settingsWriteArrival (p : Port) (tag : Byte) (page : Nat) (d : PageData) (s : State) : State :=
  s.arrival p tag .settingsWrite fun c => settingsWriteOrder c page d

/-- SETTINGS_WRITE: R169. -/
def execSettingsWrite (p : Port) (tag : Byte) (page : Nat) (d : PageData) (s : State) : Answer :=
  .next (settingsWriteArrival p tag page d s).finish

/-- The line a map page's byte `j` stands for (R164). -/
def mapLine (k : Fin 64) (j : Fin 32) : LineId := ⟨32 * k.val + j.val, by omega⟩

/-- The class fields of a map page's 32 lines, as a page (R171). -/
def State.mapPage (s : State) (k : Fin 64) : PageData := Tab.ofFn fun j => byteOf (s.line (mapLine k j)).cls.val

/-- A page in its layout formed from the working state (R171). -/
def State.workingPage (s : State) (p : PageId) : PageData :=
  match pageKind p with
  | .config0 => config0Page s.config
  | .config1 => sweepPage s.sweepCfg
  | .cls c => classPage (s.classes.get c)
  | .map k => s.mapPage k
  | .progFirst q => firstPage (s.library.get q)
  | .progSecond q => secondPage (s.library.get q)
  | .ticket n => slotPage (s.slot n)

/-- SETTINGS_READ (R171). -/
def settingsReadOrder (c : OrderCtx) (page : Nat) (s : State) : State :=
  match pageOf? page with
  | none => s.reply c .badParameter
  | some p => s.reply c .accepted (.page (s.workingPage p))

/-- The arrival of a SETTINGS_READ. -/
def settingsReadArrival (p : Port) (tag : Byte) (page : Nat) (s : State) : State :=
  s.arrival p tag .settingsRead fun c => settingsReadOrder c page

/-- SETTINGS_READ: R171. -/
def execSettingsRead (p : Port) (tag : Byte) (page : Nat) (s : State) : Answer :=
  .next (settingsReadArrival p tag page s).finish

/-! ## RESTART (R182, R45, R34, R174) -/

/-- The part on entering a restart (R174, R146, R50): QUIESCING, ALM deasserted, the supervision timer stopped. -/
def State.enterRestart (s : State) : State :=
  { s with store := { s.store with phase := .quiescing, resetCause := .restart }, alm := false, supTimer := none }

/-- Every wait entry ended with a cause, in queue order (R34). -/
def State.expireAll (s : State) (cause : WaitCause) : State :=
  s.waitQueue.foldl (fun t e => t.expireWait e cause) s

/-- A restart taken (R182, R45, R34): a release decision with cause RESTART on every bus that is not FREE, then the
wait queue empties. -/
def State.takeRestart (s : State) : State :=
  (s.enterRestart.releaseWhere (fun r => r.state != .free) .restart).expireAll .restart

/-- RESTART (R182). -/
def restartOrder (c : OrderCtx) (s : State) : State := (s.reply c .accepted).takeRestart

/-- The arrival of a RESTART. -/
def restartArrival (p : Port) (tag : Byte) (s : State) : State := s.arrival p tag .restart restartOrder

/-- RESTART: R182, R45, R34. -/
def execRestart (p : Port) (tag : Byte) (s : State) : Answer := .next (restartArrival p tag s).finish

end Sys2Proof.Machine
end

