-- ==== Sys2Proof/Machine/CentreEvents.lean ====
section
/-!
DEFINITION. The events of the sweep, the clock and the store: pacing, pass end, clock advance, page write completions,
access quiet, drain end, autoload (chapters 8 and 9).
-/

namespace Sys2Proof.Machine

/-! ## PACING_TIMER_EXPIRY and PASS_END (R154, R156) -/

/-- The pacing timer runs out, which is a trigger (R154). -/
def State.pacingExpiry (s : State) : State :=
  match s.sweep.pacing with
  | some due =>
    let t := s.reach due
    State.sweepTrigger { t with sweep := { t.sweep with pacing := none } }
  | none => s

/-- PACING_TIMER_EXPIRY: R154. -/
def execPacingTimerExpiry (s : State) : Answer := .next s.pacingExpiry.finish

/-- PASS_END: R156; taken when its condition holds (log 11). -/
def execPassEnd (s : State) : Answer := .next s.passEndIfDue.finish

/-! ## CLOCK_ADVANCE (R148, R150) -/

/-- The clock one second on (R148): 86399 is followed by 0 of the next day, day 65535 by day 0. -/
def Clock.next (c : Clock) : Clock :=
  let due := c.secondDue + seconds 1
  if 86399 ≤ c.second then { c with day := (c.day + 1) % 65536, second := 0, secondDue := due }
  else { c with second := c.second + 1, secondDue := due }

/-- An advance of the valid clock (R148): a new day clears the rest flag, a new minute derives the sweep state (R150). -/
def State.clockAdvance (s : State) : State :=
  if s.clock.valid then
    let c := s.clock.next
    let t := { s.reach s.clock.secondDue with clock := c }
    let t := if c.day = s.clock.day then t else t.clearRest
    if c.minute = s.clock.minute then t else t.rederive
  else s

/-- CLOCK_ADVANCE: R148, R150. -/
def execClockAdvance (s : State) : Answer := .next s.clockAdvance.finish

/-! ## Page write completions (R170, R172) -/

/-- The page in flight written to the array, nothing left in flight (R172). -/
def State.pageWritten (s : State) (w : InFlight) : State :=
  let t := s.reach w.due
  { t with store := { t.store.writePage w.page w.data with inFlight := none } }

/-- The completion of a ticket slot's write (R172); the service's next choice comes at the end of the event (log 8). -/
def State.slotWritten (s : State) : State :=
  match s.store.inFlight with
  | some w => if isTicketPage w.page then s.pageWritten w else s
  | none => s

/-- SLOT_WRITE_COMPLETION: R172. -/
def execSlotWriteCompletion (s : State) : Answer := .next s.slotWritten.finish

/-- What the blocks that use a page do at the completion of its settings write (R170, R152, R153, R158). -/
def State.pageEffects (s : State) (p : PageId) : State :=
  match pageKind p with
  | .config0 => s.scan.rederive.sweepTrigger
  | .config1 => s.clearRest.rederive.sweepTrigger
  | .cls _ => s.pruneRetest
  | .map _ => s.pruneRetest
  | .progFirst _ => s
  | .progSecond _ => s
  | .ticket _ => s

/-- The settings write absent again (R170). -/
def State.clearSettingsWrite (s : State) : State := { s with store := { s.store with settingsWrite := none } }

/-- The completion of a settings write: its four steps in order (R170). -/
def State.settingsWritten (s : State) : State :=
  match s.store.inFlight, s.store.settingsWrite with
  | some w, some q =>
    if isTicketPage w.page then s
    else
      let t := (s.pageWritten w).loadShadow w.page w.data
      let t := t.pushKept .m (some q.tag) (.writeDone w.page)
      (t.clearSettingsWrite.chooseWrite).pageEffects w.page
  | _, _ => s

/-- SETTINGS_WRITE_COMPLETION: R170. -/
def execSettingsWriteCompletion (s : State) : Answer := .next s.settingsWritten.finish

/-! ## ACCESS_QUIET and DRAIN_END (R174) -/

/-- ACCESS_QUIET: R174; taken when its condition holds (log 11). -/
def execAccessQuiet (s : State) : Answer := .next s.accessQuietIfDue.finish

/-- DRAIN_END: R174; taken when its condition holds (log 11). -/
def execDrainEnd (s : State) : Answer := .next s.drainEndIfDue.finish

/-! ## AUTOLOAD_PAGE_READ and AUTOLOAD_COMPLETION (R167, R168) -/

/-- AUTOLOAD_PAGE_READ: R167. -/
def execAutoloadPageRead (s : State) : Answer := .next s.readPage

/-- Steps 3 and 4 of the autoload completion (R168): ALM, the units, the sweep. -/
def State.setUpBlocks (s : State) : State :=
  let t := { s with alm := s.almDue, units := s.units.map standbyUnit }
  t.setUpSweep

/-- Steps 5 and 6 of the autoload completion (R168): RUNNING, the link rate (R183), START to every port. -/
def State.startRunning (s : State) : State :=
  let t := { s with
    linkRate := s.config.rate
    store := { s.store with phase := .running, lastSlot := 255 } }
  allPorts.foldl (fun u p => u.pushKept p none (.start s.store.resetCause s.store.bad)) t

/-- Step 7 of the autoload completion: what the exchange supervisor does (R50). -/
def State.supervisionAtStart (s : State) : State :=
  match s.lapseOwed with
  | some c =>
    let t := { s with lapseOwed := none }
    if s.supervised then t.lapse c else t
  | none => if s.supervised then s.startSupervisionTimer else s

/-- The autoload completion, once every page has been read: its seven steps in order (R168). -/
def State.autoloadCompletion (s : State) : State :=
  if s.store.phase = .loading ∧ s.store.loadIndex = 362 then
    s.loadTickets.setUpBlocks.startRunning.supervisionAtStart
  else s

/-- AUTOLOAD_COMPLETION: R168. -/
def execAutoloadCompletion (s : State) : Answer := .next s.autoloadCompletion.finish

end Sys2Proof.Machine
end

