-- ==== Sys2Proof/Machine/ExchangeOrders.lean ====
section
/-!
DEFINITION. The orders of the call-control processor: LINE_STATE, LINE_STATE_IDLE_RANGE, INTRUDE, INTRUDE_CANCEL,
SUPERVISE (chapter 3).
-/

namespace Sys2Proof.Machine

/-! ## Call states (R2, R3, R53, R54) -/

/-- Whether the bus on a line is held by MC or RS. -/
def State.automatedBusOn (s : State) (l : LineId) : Option BusId :=
  match (s.line l).onBus with
  | some b => if (s.bus b).holder.any Source.automated then some b else none
  | none => none

/-- A reported call state written and its change offered (R2, R3, R53): BUSY and RINGING release an automated bus,
IDLE runs one scan. -/
def State.reportCall (s : State) (l : LineId) (st : CallState) : State :=
  let t := s.updLine l fun r => { r with callState := st }
  if (s.line l).callState = st then t
  else match st with
    | .idle => t.scan
    | .unknown => t
    | .busy => match s.automatedBusOn l with
      | some b => t.releaseDecision b .lineBusy
      | none => t
    | .ringing => match s.automatedBusOn l with
      | some b => t.releaseDecision b .lineBusy
      | none => t

/-- LINE_STATE (R53). -/
def lineStateOrder (c : OrderCtx) (line st : Nat) (s : State) : State :=
  match lineOf? line, callStateOfCode st with
  | some l, some x => (s.reply c .accepted).reportCall l x
  | none, _ => s.reply c .badParameter
  | some _, none => s.reply c .badParameter

/-- The arrival of a LINE_STATE. -/
def lineStateArrival (p : Port) (tag : Byte) (line st : Nat) (s : State) : State :=
  s.arrival p tag .lineState fun c => lineStateOrder c line st

/-- LINE_STATE: R53, R2, R3. -/
def execLineState (p : Port) (tag : Byte) (line st : Nat) (s : State) : Answer :=
  .next (lineStateArrival p tag line st s).finish

/-- Whether a range order changes a line: inside the range and UNKNOWN (R54). -/
def idleRangeChanges (first last : Nat) (l : LineId) (r : LineRec) : Bool :=
  decide (first ≤ l.val) && decide (l.val ≤ last) && r.callState == .unknown

/-- LINE_STATE_IDLE_RANGE (R54): UNKNOWN lines of the range become IDLE, and one scan follows if any changed. -/
def lineStateIdleRangeOrder (c : OrderCtx) (first last : Nat) (s : State) : State :=
  if 2047 < last ∨ last < first then s.reply c .badParameter
  else
    let t := s.reply c .accepted
    let u := { t with lines := t.lines.mapIdx fun l r =>
      if idleRangeChanges first last l r then { r with callState := .idle } else r }
    if t.lines.indexed.any fun x => idleRangeChanges first last x.1 x.2 then u.scan else u

/-- The arrival of a LINE_STATE_IDLE_RANGE. -/
def lineStateIdleRangeArrival (p : Port) (tag : Byte) (first last : Nat) (s : State) : State :=
  s.arrival p tag .lineStateIdleRange fun c => lineStateIdleRangeOrder c first last

/-- LINE_STATE_IDLE_RANGE: R54. -/
def execLineStateIdleRange (p : Port) (tag : Byte) (first last : Nat) (s : State) : Answer :=
  .next (lineStateIdleRangeArrival p tag first last s).finish

/-! ## Intrusion (R59 to R61, R65) -/

/-- The answer owed on a bus set with the tag it bears (R59, R60). -/
def State.oweGranted (s : State) (b : BusId) (tag : Byte) : State :=
  s.updBus b fun r => { r with owed := some .granted, intrudeTag := some tag }

/-- An INTRUDE for a line on a bus whose release is decided (R59, cases 2 to 4). -/
def intrudeDecided (c : OrderCtx) (b : BusId) (s : State) : State :=
  match (s.bus b).owed with
  | none => (s.reply c .accepted).oweGranted b c.tag
  | some .granted => s.reply c .badState
  | some .withdrawn =>
    ((s.reply c .accepted).pushKept .x (s.bus b).intrudeTag (.intrudeAnswer .withdrawn)).oweGranted b c.tag

/-- An INTRUDE for a line held by a desk, release not decided (R59, R61). -/
def intrudeDesk (c : OrderCtx) (b : BusId) (d : DeskId) (l : LineId) (s : State) : State :=
  match (s.bus b).intrusion with
  | .none =>
    let t := (s.reply c .accepted).updBus b fun r =>
      { r with intrusion := .pending (s.now + seconds s.config.grace), intrudeTag := some c.tag }
    t.pushNotice (.desk d) (.intrusion b (t.lineFor (.desk d) l) s.config.grace (s.classOf l).isProtected)
  | .pending _ => s.reply c .badState
  | .kept =>
    let t := (s.reply c .accepted).pushKept .x (some c.tag) (.intrudeAnswer .denied)
    t.pushNotice (.desk d) (.intrusionDenied b (t.lineFor (.desk d) l))

/-- INTRUDE (R59): the first case that fits. -/
def intrudeOrder (c : OrderCtx) (line : Nat) (s : State) : State :=
  match lineOf? line with
  | none => s.reply c .badParameter
  | some l =>
    match (s.line l).onBus with
    | none => (s.reply c .accepted).pushKept .x (some c.tag) (.intrudeAnswer .granted)
    | some b =>
      if releaseDecided (s.bus b) then intrudeDecided c b s
      else match (s.bus b).holder with
        | some (.desk d) => intrudeDesk c b d l s
        | some .mc => ((s.reply c .accepted).oweGranted b c.tag).releaseDecision b .intruded
        | some .rs => ((s.reply c .accepted).oweGranted b c.tag).releaseDecision b .intruded
        | none => s.reply c .badState

/-- The arrival of an INTRUDE. -/
def intrudeArrival (p : Port) (tag : Byte) (line : Nat) (s : State) : State :=
  s.arrival p tag .intrude fun c => intrudeOrder c line

/-- INTRUDE: R59 to R61. -/
def execIntrude (p : Port) (tag : Byte) (line : Nat) (s : State) : Answer :=
  .next (intrudeArrival p tag line s).finish

/-- A PENDING intrusion withdrawn (R65). -/
def withdrawPending (c : OrderCtx) (b : BusId) (l : LineId) (s : State) : State :=
  let r := s.bus b
  let t := (s.reply c .accepted).updBus b fun x => { x with intrusion := .none, intrudeTag := none }
  let t := t.pushKept .x r.intrudeTag (.intrudeAnswer .withdrawn)
  match r.holder.bind Source.port? with
  | some p => t.pushNotice p (.intrusionWithdrawn b (t.lineFor p l))
  | none => t

/-- INTRUDE_CANCEL (R65). -/
def intrudeCancelOrder (c : OrderCtx) (line : Nat) (s : State) : State :=
  match lineOf? line with
  | none => s.reply c .badParameter
  | some l =>
    match (s.line l).onBus with
    | none => s.reply c .badState
    | some b =>
      match (s.bus b).intrusion, (s.bus b).owed with
      | .pending _, _ => withdrawPending c b l s
      | .none, some .granted => (s.reply c .accepted).updBus b fun r => { r with owed := some .withdrawn }
      | .kept, some .granted => (s.reply c .accepted).updBus b fun r => { r with owed := some .withdrawn }
      | .none, some .withdrawn => s.reply c .badState
      | .kept, some .withdrawn => s.reply c .badState
      | .none, none => s.reply c .badState
      | .kept, none => s.reply c .badState

/-- The arrival of an INTRUDE_CANCEL. -/
def intrudeCancelArrival (p : Port) (tag : Byte) (line : Nat) (s : State) : State :=
  s.arrival p tag .intrudeCancel fun c => intrudeCancelOrder c line

/-- INTRUDE_CANCEL: R65. -/
def execIntrudeCancel (p : Port) (tag : Byte) (line : Nat) (s : State) : Answer :=
  .next (intrudeCancelArrival p tag line s).finish

/-! ## SUPERVISE (R49) -/

/-- SUPERVISE (R49): ACCEPTED; its effect is that of any valid frame (R47), taken before the order is handled. -/
def superviseOrder (c : OrderCtx) (s : State) : State := s.reply c .accepted

/-- The arrival of a SUPERVISE. -/
def superviseArrival (p : Port) (tag : Byte) (s : State) : State :=
  s.arrival p tag .supervise superviseOrder

/-- SUPERVISE: R49, R47. -/
def execSupervise (p : Port) (tag : Byte) (s : State) : Answer := .next (superviseArrival p tag s).finish

end Sys2Proof.Machine
end

