-- ==== Sys2Proof/Machine/Queries.lean ====
section
/-!
DEFINITION. The orders that only read: QUERY_LINE, QUERY_BUS, QUERY_MU, QUERY_STATUS, QUERY_TICKET, QUERY_SWEEP.
-/

namespace Sys2Proof.Machine

/-! ## QUERY_LINE (R16) -/

/-- A line's record as the reply to a port gives it (R16). -/
def State.lineView (s : State) (p : Port) (l : LineId) : LineView :=
  let r := s.line l
  { line := s.lineFor p l, callState := r.callState, cls := r.cls, onBus := r.onBus
    holder := r.onBus.bind fun b => (s.bus b).holder
    blocked := r.blocked, queued := r.queued, quarantined := r.quarantined
    pendingMask := r.pendingMask, lastRoutine := r.lastRoutine }

/-- QUERY_LINE (R16). -/
def queryLineOrder (c : OrderCtx) (line : Nat) (s : State) : State :=
  match s.lineOperand c.port line with
  | .error code => s.reply c code
  | .ok l => s.reply c .accepted (.line (s.lineView c.port l))

/-- The arrival of a QUERY_LINE. -/
def queryLineArrival (p : Port) (tag : Byte) (line : Nat) (s : State) : State :=
  s.arrival p tag .queryLine fun c => queryLineOrder c line

/-- QUERY_LINE: R16. -/
def execQueryLine (p : Port) (tag : Byte) (line : Nat) (s : State) : Answer :=
  .next (queryLineArrival p tag line s).finish

/-! ## QUERY_BUS (R46, R58) -/

/-- A bus's record as the reply to a port gives it: the holder tag and whether an answer is owed go to M only (R46,
R58). -/
def State.busView (s : State) (p : Port) (b : BusId) : BusView :=
  let r := s.bus b
  { state := r.state, holder := r.holder, line := r.line.map (s.lineFor p), termination := r.termination
    boundMu := r.boundMu, releasePending := r.releasePending, intrusion := r.intrusion, holdStart := r.holdStart
    holderTag := if p = .m then r.holderTag else none
    answerOwed := if p = .m then some r.owed.isSome else none }

/-- QUERY_BUS (R46). -/
def queryBusOrder (c : OrderCtx) (bus : Nat) (s : State) : State :=
  match busOf? bus with
  | none => s.reply c .noSuchBus
  | some b => s.reply c .accepted (.busRecord (s.busView c.port b))

/-- The arrival of a QUERY_BUS. -/
def queryBusArrival (p : Port) (tag : Byte) (bus : Nat) (s : State) : State :=
  s.arrival p tag .queryBus fun c => queryBusOrder c bus

/-- QUERY_BUS: R46. -/
def execQueryBus (p : Port) (tag : Byte) (bus : Nat) (s : State) : Answer :=
  .next (queryBusArrival p tag bus s).finish

/-! ## QUERY_MU (R89) -/

/-- The name a reply gives a phase (R89): a phase M taken once more is an M (R79), and a step that is no RES step is in
its single phase, the precheck on either leg among them (R77, R78, R80). -/
def Phase.view : Phase → PhaseView
  | .legAe => .single
  | .legBe => .single
  | .single => .single
  | .f => .f
  | .m => .m
  | .mAgain => .m

/-- A unit as the reply gives it: bus and holder when bound, the programme in hand when MEASURING (R89). -/
def State.muView (s : State) (u : MuId) : MuView :=
  let m := s.mu u
  { state := m.state, bus := m.bus, holder := m.bus.bind fun b => (s.bus b).holder
    run := if m.state = .measuring then m.context.map fun c => ⟨c.programme, c.stepIndex, c.kind, c.phase.view⟩
           else none }

/-- QUERY_MU (R89). -/
def queryMuOrder (c : OrderCtx) (unit : Nat) (s : State) : State :=
  match unitOf? unit with
  | none => s.reply c .badParameter
  | some u => s.reply c .accepted (.unit (s.muView u))

/-- The arrival of a QUERY_MU. -/
def queryMuArrival (p : Port) (tag : Byte) (unit : Nat) (s : State) : State :=
  s.arrival p tag .queryMu fun c => queryMuOrder c unit

/-- QUERY_MU: R89. -/
def execQueryMu (p : Port) (tag : Byte) (unit : Nat) (s : State) : Answer :=
  .next (queryMuArrival p tag unit s).finish

/-! ## QUERY_STATUS (R180) -/

/-- The status a port's REPLY carries (R180). A REPLY that finds no free entry empties the queue and so is formed with
the marker set (R179, log 22). -/
def State.statusData (s : State) (p : Port) : ReplyData :=
  .status ((s.port p).lost || s.freeEntries p == 0) (s.freeEntries p) s.supervised s.alm

/-- A port's notices-lost marker cleared (R180). -/
def State.clearMarker (s : State) (p : Port) : State := s.updPort p fun r => { r with lost := false }

/-- QUERY_STATUS (R180): the REPLY is formed with the marker as it stands, and the marker is then cleared. -/
def queryStatusOrder (c : OrderCtx) (s : State) : State :=
  (s.reply c .accepted (s.statusData c.port)).clearMarker c.port

/-- The arrival of a QUERY_STATUS. -/
def queryStatusArrival (p : Port) (tag : Byte) (s : State) : State :=
  s.arrival p tag .queryStatus queryStatusOrder

/-- QUERY_STATUS: R180. -/
def execQueryStatus (p : Port) (tag : Byte) (s : State) : Answer := .next (queryStatusArrival p tag s).finish

/-! ## QUERY_TICKET (R141, R143) -/

/-- A ticket as a reply to a port gives it (R143). -/
def State.ticketView (s : State) (p : Port) (t : Ticket) : TicketView := ⟨t, s.lineFor p t.line⟩

/-- Whether a ticket's line is in reach of a port: every line from M, the lines of its window from a desk (R143). -/
def State.inReach (s : State) (p : Port) (l : LineId) : Bool :=
  match p with
  | .desk d => s.inWindow d l
  | .x => true
  | .m => true

/-- The ticket a number names for a port: held by a slot, and its line in reach (R141, R143). -/
def State.ticketFor (s : State) (p : Port) (n : Nat) : Option (SlotId × Ticket) :=
  (s.ticketNumbered n).filter fun x => s.inReach p x.2.line

/-- The ticket a QUERY_TICKET asks for, or its refusal (R141, R143): the window before the fault class. -/
def State.ticketAsked (s : State) (p : Port) : TicketQuery → Except ReplyCode Ticket
  | .byNumber n => match s.ticketFor p n with
    | some x => .ok x.2
    | none => .error .noSuchTicket
  | .byLine line cls => match s.lineOperand p line with
    | .error code => .error code
    | .ok l => match faultClassOfCode cls with
      | none => .error .badParameter
      | some fc => match s.ticketOn l fc with
        | some x => .ok x.2
        | none => .error .noSuchTicket

/-- QUERY_TICKET (R141). -/
def queryTicketOrder (c : OrderCtx) (q : TicketQuery) (s : State) : State :=
  match s.ticketAsked c.port q with
  | .error code => s.reply c code
  | .ok t => s.reply c .accepted (.ticket (some (s.ticketView c.port t)))

/-- The arrival of a QUERY_TICKET. -/
def queryTicketArrival (p : Port) (tag : Byte) (q : TicketQuery) (s : State) : State :=
  s.arrival p tag .queryTicket fun c => queryTicketOrder c q

/-- QUERY_TICKET: R141. -/
def execQueryTicket (p : Port) (tag : Byte) (q : TicketQuery) (s : State) : Answer :=
  .next (queryTicketArrival p tag q s).finish

/-! ## QUERY_SWEEP (R161) -/

/-- The whole seconds left on the pacing timer; absent when it has run out (R161). -/
def State.pacingLeft (s : State) : Option Nat := s.sweep.pacing.map fun t => (t - s.now) / seconds 1

/-- The sweep record as QUERY_SWEEP gives it (R161). -/
def State.sweepView (s : State) : SweepView :=
  { state := s.sweepState
    enabled := s.sweep.enabled, mcHold := s.sweep.mcHold, closing := s.sweep.closing, rest := s.sweep.rest
    windowStart := s.sweepCfg.windowStart, windowEnd := s.sweepCfg.windowEnd, first := s.sweepCfg.first
    last := s.sweepCfg.last, programme := s.sweepCfg.programme, pacing := s.sweepCfg.pacing
    pacingLeft := s.pacingLeft, cursor := s.sweep.cursor, pass := s.sweep.pass
    tested := s.sweep.tested, skipped := s.sweep.skipped, faulted := s.sweep.faulted
    running := s.rsTests.length, listed := s.retest.length
    day := s.clock.day, hour := s.clock.second / 3600, minute := s.clock.second / 60 % 60
    second := s.clock.second % 60, valid := s.clock.valid }

/-- The most lines a LIST reply carries (R161). -/
def listLength : Nat := 16

/-- The reply to LIST from a first index (R161): BAD_PARAMETER above 31. -/
def State.replyRetest (s : State) (c : OrderCtx) (first : Nat) : State :=
  if 31 < first then s.reply c .badParameter
  else s.reply c .accepted (.retest ((s.retest.drop first).take listLength) s.retest.length)

/-- The reply to LIST with or without its index byte: without it the first index is a free value (log 12). -/
def State.replyList (s : State) (c : OrderCtx) : Option Nat → State
  | some first => s.replyRetest c first
  | none => { s with draws := s.draws + 1 }.replyRetest c (Config.sweepListIndexWhenAbsent s.draws)

/-- QUERY_SWEEP (R161): selector 0 is RECORD, 1 is LIST. An index byte with RECORD is not used (log 12). -/
def querySweepOrder (c : OrderCtx) (selector : Nat) (index : Option Nat) (s : State) : State :=
  if selector = 0 then s.reply c .accepted (.sweep s.sweepView)
  else if selector = 1 then s.replyList c index
  else s.reply c .badParameter

/-- The arrival of a QUERY_SWEEP. -/
def querySweepArrival (p : Port) (tag : Byte) (selector : Nat) (index : Option Nat) (s : State) : State :=
  s.arrival p tag .querySweep fun c => querySweepOrder c selector index

/-- QUERY_SWEEP: R161. -/
def execQuerySweep (p : Port) (tag : Byte) (selector : Nat) (index : Option Nat) (s : State) : Answer :=
  .next (querySweepArrival p tag selector index s).finish

end Sys2Proof.Machine
end

