-- ==== Sys2Proof/Machine/TicketOrders.lean ====
section
/-!
DEFINITION. The orders that work the ticket table: TICKET_NEXT, TICKET_HAND, TICKET_CLEAR, TICKET_PURGE, TICKET_LIST,
TICKET_NOTE (chapter 7).
-/

namespace Sys2Proof.Machine

/-! ## TICKET_NEXT (R137) -/

/-- The oldest OPEN ticket of a severity. -/
def State.oldestOpen (s : State) (v : Severity) : Option Ticket :=
  (s.oldest fun t => t.state == .opened && t.severity == v).map Prod.snd

/-- The ticket most in need of a repairer (R137). -/
def State.nextTicket (s : State) : Option Ticket :=
  (s.oldestOpen .critical).or ((s.oldestOpen .major).or (s.oldestOpen .minor))

/-- TICKET_NEXT (R137). -/
def ticketNextOrder (c : OrderCtx) (s : State) : State :=
  s.reply c .accepted (.ticket (s.nextTicket.map (s.ticketView c.port)))

/-- The arrival of a TICKET_NEXT. -/
def ticketNextArrival (p : Port) (tag : Byte) (s : State) : State := s.arrival p tag .ticketNext ticketNextOrder

/-- TICKET_NEXT: R137. -/
def execTicketNext (p : Port) (tag : Byte) (s : State) : Answer := .next (ticketNextArrival p tag s).finish

/-! ## TICKET_HAND (R138) -/

/-- An order on the ticket a number names: NO_SUCH_TICKET when none is in the port's reach (section 7.5, R143). -/
def State.onTicket (s : State) (c : OrderCtx) (n : Nat) (f : SlotId → Ticket → State) : State :=
  match s.ticketFor c.port n with
  | none => s.reply c .noSuchTicket
  | some (k, t) => f k t

/-- A changed ticket written to its slot and given in the REPLY ACCEPTED. -/
def State.replyTicket (s : State) (c : OrderCtx) (k : SlotId) (t : Ticket) : State :=
  (s.writeSlot k (some t)).reply c .accepted (.ticket (some (s.ticketView c.port t)))

/-- TICKET_HAND (R138). -/
def ticketHandOrder (c : OrderCtx) (number assignee : Nat) (s : State) : State :=
  s.onTicket c number fun k t =>
    if t.state = .opened then
      (s.replyTicket c k { t with state := .handed, assignee := some assignee }).evaluateAlm
    else s.reply c .badState

/-- The arrival of a TICKET_HAND. -/
def ticketHandArrival (p : Port) (tag : Byte) (number assignee : Nat) (s : State) : State :=
  s.arrival p tag .ticketHand fun c => ticketHandOrder c number assignee

/-- TICKET_HAND: R138. -/
def execTicketHand (p : Port) (tag : Byte) (number assignee : Nat) (s : State) : Answer :=
  .next (ticketHandArrival p tag number assignee s).finish

/-! ## TICKET_CLEAR (R139) -/

/-- Who clears a ticket by an order from a port (R139). -/
def clearerOf : Port → Clearer
  | .desk d => .desk d
  | .x => .mc
  | .m => .mc

/-- The ticket after a TICKET_CLEAR (R139). -/
def clearedTicket (by_ : Clearer) (stamp : Stamp) (t : Ticket) : Ticket :=
  { t with state := .cleared, clearedBy := some by_, clearedAt := some stamp }

/-- The notice of a clearing by a desk; a clearing by M queues none (R139). -/
def State.clearNotice (s : State) (p : Port) (t : Ticket) : State :=
  if portIsDesk p then s.ticketNotice (.cleared t) else s

/-- TICKET_CLEAR (R139). -/
def ticketClearOrder (c : OrderCtx) (number : Nat) (s : State) : State :=
  s.onTicket c number fun k t =>
    if t.nonCleared then
      let t' := clearedTicket (clearerOf c.port) s.stamp t
      let u := (s.replyTicket c k t').clearNotice c.port t'
      (if t.cls = .hazard then u.evaluateQuarantine t.line else u).evaluateAlm
    else s.reply c .badState

/-- The arrival of a TICKET_CLEAR. -/
def ticketClearArrival (p : Port) (tag : Byte) (number : Nat) (s : State) : State :=
  s.arrival p tag .ticketClear fun c => ticketClearOrder c number

/-- TICKET_CLEAR: R139. -/
def execTicketClear (p : Port) (tag : Byte) (number : Nat) (s : State) : Answer :=
  .next (ticketClearArrival p tag number s).finish

/-! ## TICKET_PURGE (R140) -/

/-- TICKET_PURGE (R140). -/
def ticketPurgeOrder (c : OrderCtx) (number : Nat) (s : State) : State :=
  s.onTicket c number fun k t =>
    if t.state = .cleared then (s.writeSlot k none).reply c .accepted else s.reply c .badState

/-- The arrival of a TICKET_PURGE. -/
def ticketPurgeArrival (p : Port) (tag : Byte) (number : Nat) (s : State) : State :=
  s.arrival p tag .ticketPurge fun c => ticketPurgeOrder c number

/-- TICKET_PURGE: R140. -/
def execTicketPurge (p : Port) (tag : Byte) (number : Nat) (s : State) : Answer :=
  .next (ticketPurgeArrival p tag number s).finish

/-! ## TICKET_LIST (R142) -/

/-- The summary of a slot; none for an empty one (R142). -/
def summaryOf (x : SlotId × Option Ticket) : Option TicketSummary :=
  x.2.map fun t => ⟨x.1, t.number, t.line, t.cls, t.severity, t.state⟩

/-- The summaries of every non-empty slot from a first one upward (R142). -/
def State.summariesFrom (s : State) (first : Nat) : List TicketSummary :=
  (s.tickets.indexed.filter fun x => decide (first ≤ x.1.val)).filterMap summaryOf

/-- The most summaries a reply carries (R142). -/
def summaryCount : Nat := 8

/-- The next slot of a listing: the slot after the last one summarised, `none` (END) when no non-empty slot lies beyond
it (R142). -/
def nextSlotOf (all : List TicketSummary) : Option Nat :=
  if all.length ≤ summaryCount then none
  else (all.take summaryCount).getLast?.map fun x => x.slot.val + 1

/-- TICKET_LIST (R142). -/
def ticketListOrder (c : OrderCtx) (first : Nat) (s : State) : State :=
  if 255 < first then s.reply c .badParameter
  else
    let all := s.summariesFrom first
    s.reply c .accepted (.tickets (all.take summaryCount) (nextSlotOf all))

/-- The arrival of a TICKET_LIST. -/
def ticketListArrival (p : Port) (tag : Byte) (first : Nat) (s : State) : State :=
  s.arrival p tag .ticketList fun c => ticketListOrder c first

/-- TICKET_LIST: R142. -/
def execTicketList (p : Port) (tag : Byte) (first : Nat) (s : State) : Answer :=
  .next (ticketListArrival p tag first s).finish

/-! ## TICKET_NOTE (R144) -/

/-- The notice of a note: it names the desk (R144). -/
def State.noteNotice (s : State) (p : Port) (t : Ticket) : State :=
  match p with
  | .desk d => s.ticketNotice (.noted t d)
  | .x => s
  | .m => s

/-- TICKET_NOTE (R144). -/
def ticketNoteOrder (c : OrderCtx) (number note : Nat) (s : State) : State :=
  s.onTicket c number fun k t =>
    if t.nonCleared then
      let t' := { t with note := some note }
      (s.replyTicket c k t').noteNotice c.port t'
    else s.reply c .badState

/-- The arrival of a TICKET_NOTE. -/
def ticketNoteArrival (p : Port) (tag : Byte) (number note : Nat) (s : State) : State :=
  s.arrival p tag .ticketNote fun c => ticketNoteOrder c number note

/-- TICKET_NOTE: R144. -/
def execTicketNote (p : Port) (tag : Byte) (number note : Nat) (s : State) : Answer :=
  .next (ticketNoteArrival p tag number note s).finish

end Sys2Proof.Machine
end

