-- ==== Sys2Proof/Machine/Links.lean ====
section
/-!
DEFINITION. The links and resets: received bytes and frames (R176 to R178), sent reports (R179), port resets (R181), and
POR (R173).
-/

namespace Sys2Proof.Machine

/-! ## A frame that spells an order -/

/-- The arrival of the order a command stands for; nothing for a command that is no order. -/
def takeOrder (i : Instr) (s : State) : State :=
  match i with
  | .seize p tag l t pr => seizeArrival p tag l t pr s
  | .demandTest p tag l pr => demandTestArrival p tag l pr s
  | .cancelWait p tag l => cancelWaitArrival p tag l s
  | .terminate p tag b t => terminateArrival p tag b t s
  | .release p tag b => releaseArrival p tag b s
  | .run p tag b pr f => runArrival p tag b pr f s
  | .abort p tag b => abortArrival p tag b s
  | .keep p tag b => keepArrival p tag b s
  | .lineState p tag l st => lineStateArrival p tag l st s
  | .lineStateIdleRange p tag a b => lineStateIdleRangeArrival p tag a b s
  | .intrude p tag l => intrudeArrival p tag l s
  | .intrudeCancel p tag l => intrudeCancelArrival p tag l s
  | .supervise p tag => superviseArrival p tag s
  | .queryLine p tag l => queryLineArrival p tag l s
  | .queryBus p tag b => queryBusArrival p tag b s
  | .queryMu p tag u => queryMuArrival p tag u s
  | .queryStatus p tag => queryStatusArrival p tag s
  | .ticketNext p tag => ticketNextArrival p tag s
  | .ticketHand p tag n a => ticketHandArrival p tag n a s
  | .ticketClear p tag n => ticketClearArrival p tag n s
  | .ticketPurge p tag n => ticketPurgeArrival p tag n s
  | .queryTicket p tag q => queryTicketArrival p tag q s
  | .ticketList p tag f => ticketListArrival p tag f s
  | .ticketNote p tag n x => ticketNoteArrival p tag n x s
  | .setClock p tag d h m x => setClockArrival p tag d h m x s
  | .sweepSet p tag a b c d pr pc => sweepSetArrival p tag a b c d pr pc s
  | .sweepEnable p tag => sweepEnableArrival p tag s
  | .sweepDisable p tag => sweepDisableArrival p tag s
  | .sweepHold p tag => sweepHoldArrival p tag s
  | .sweepResume p tag => sweepResumeArrival p tag s
  | .sweepNewPass p tag => sweepNewPassArrival p tag s
  | .querySweep p tag sel i => querySweepArrival p tag sel i s
  | .settingsWrite p tag pg d => settingsWriteArrival p tag pg d s
  | .settingsRead p tag pg => settingsReadArrival p tag pg s
  | .restart p tag => restartArrival p tag s
  | .por _ => s
  | .byteReceived _ _ _ => s
  | .interByteGap _ => s
  | .portReset _ => s
  | .reportSent _ => s
  | .operateCompletion _ => s
  | .switchCompletion _ => s
  | .releaseCompletion _ => s
  | .waitDeadlineExpiry _ => s
  | .supervisionTimerExpiry => s
  | .graceExpiry _ => s
  | .warmUpEnd _ => s
  | .standbyDelayExpiry _ => s
  | .headSetUpEnd _ => s
  | .settleEnd _ _ _ => s
  | .sampleArrival _ _ => s
  | .dischargeEnd _ => s
  | .pacingTimerExpiry => s
  | .passEnd => s
  | .clockAdvance => s
  | .slotWriteCompletion => s
  | .settingsWriteCompletion => s
  | .accessQuiet => s
  | .drainEnd => s
  | .autoloadPageRead => s
  | .autoloadCompletion => s
  | .returnToMark _ => s

/-! ## BYTE_RECEIVED and INTER_BYTE_GAP (R176, R177) -/

/-- A valid frame taken (R176): the order it spells, or BAD_ORDER. -/
def State.takeFrame (s : State) (p : Port) (code tag : Byte) (payload : List Byte) : State :=
  match decodeOrder p tag code payload with
  | some i => takeOrder i s
  | none => s.frameArrival p fun t => t.reply ⟨p, tag, code⟩ .badOrder

/-- A port's receive assembly changed. -/
def State.setAssembly (s : State) (p : Port) (a : Assembly) : State := s.updPort p fun r => { r with assembly := a }

/-- The bytes of a frame complete, from the length byte to the check byte (R177): a zero sum makes the frame valid. -/
def State.completeFrame (s : State) (p : Port) (bytes : List Byte) : State :=
  if bytes.foldl (· + ·) 0 = 0 then
    match bytes with
    | _ :: code :: tag :: rest => s.takeFrame p code tag rest.dropLast
    | _ => s
  else s.pushNotice p (.frameReject .check)

/-- A byte that came with its stop bit, by the assembly's state (R177). -/
def State.assemble (s : State) (p : Port) (b : Byte) : State :=
  match (s.port p).assembly with
  | .hunting => if b = 0xA5 then s.setAssembly p .started else s
  | .started =>
    if b.toNat < 2 ∨ 62 < b.toNat then (s.setAssembly p .hunting).pushNotice p (.frameReject .length)
    else s.setAssembly p (.assembling b.toNat [b])
  | .assembling n bs =>
    let bs' := bs ++ [b]
    if bs'.length < n + 2 then s.setAssembly p (.assembling n bs')
    else (s.setAssembly p .hunting).completeFrame p bs'

/-- A byte received (R177); nothing is received while the line stands at space (R181, log 15). -/
def State.receive (s : State) (p : Port) (b : Byte) (stopBit : Bool) : State :=
  if (s.port p).inBreak then s
  else if stopBit then s.assemble p b
  else s.setAssembly p .hunting

/-- BYTE_RECEIVED: R177, R176, R178. -/
def execByteReceived (p : Port) (b : Byte) (stopBit : Bool) (s : State) : Answer :=
  .next (s.receive p b stopBit).finish

/-- INTER_BYTE_GAP: R177, a partial frame is discarded without report. -/
def execInterByteGap (p : Port) (s : State) : Answer := .next (s.setAssembly p .hunting)

/-! ## REPORT_SENT (R179) -/

/-- The report at the head of a port's queue sent, its entry free (R179). -/
def State.reportSent (s : State) (p : Port) : State := s.updPort p fun r => { r with queue := r.queue.tail }

/-- REPORT_SENT: R179. -/
def execReportSent (p : Port) (s : State) : Answer := .next (s.reportSent p)

/-! ## PORT_RESET and RETURN_TO_MARK (R181, R44, R50, R51) -/

/-- A port's own state at its reset (R181): hunting, an empty queue, a clear marker, and the break going on. -/
def resetPortRec : PortRec := { inBreak := true }

/-- A source's wait entries removed, with no report (R34). -/
def State.dropWaits (s : State) (src : Source) : State :=
  (s.waitQueue.filter fun e => e.req.source == src).foldl (fun t e => t.removeWait e.req.line) s

/-- What a port reset does to its source's holdings (R44, log 9). -/
def State.resetHoldings (s : State) (src : Source) : State :=
  (s.dropWaits src).releaseWhere (fun r => r.holder == some src) .portReset

/-- A port reset of X reaches the supervision: a lapse, or an owed one while STARTING (R51, R50). -/
def State.resetX (s : State) : State :=
  if s.supervised then
    if s.isRunning then s.lapse .portReset else { s with lapseOwed := some (s.lapseOwed.getD .portReset) }
  else s

/-- A port reset (R181): one for each break. -/
def State.portReset (s : State) (p : Port) : State :=
  if (s.port p).inBreak then s
  else
    let t := s.updPort p fun _ => resetPortRec
    match p with
    | .desk d => t.resetHoldings (.desk d)
    | .x => t.resetX
    | .m => t.resetHoldings .mc

/-- PORT_RESET: R181, R44, R51, R50. -/
def execPortReset (p : Port) (s : State) : Answer := .next (s.portReset p).finish

/-- The line back at mark: a new frame may begin (R181). -/
def State.returnToMark (s : State) (p : Port) : State := s.updPort p fun r => { r with inBreak := false }

/-- RETURN_TO_MARK: R181. -/
def execReturnToMark (p : Port) (s : State) : Answer := .next (s.returnToMark p)

/-! ## POR (R173) -/

/-- The array as a POR leaves it: the page in flight in one of three conditions (R173). -/
def arrayAfterPor (st : Store) (cut : CutPage) : Tab Page 362 :=
  match st.inFlight with
  | none => st.array
  | some w => match cut with
    | .asBefore => st.array
    | .asWritten => (st.writePage w.page w.data).array
    | .failing d c => st.array.set w.page ⟨d, c⟩

/-- The part after a POR: everything but the array at its reset value, the autoload about to read its first page (R167,
R173). -/
def State.afterPor (s : State) (cut : CutPage) : State :=
  { State.reset with
    now := s.now
    draws := s.draws
    pending := s.pending
    store := { State.reset.store with array := arrayAfterPor s.store cut, loadDue := s.now + pageReadTime } }

/-- POR: R167, R173 and the values the chapters give for POR. -/
def execPor (cut : CutPage) (s : State) : Answer := .next (s.afterPor cut)

end Sys2Proof.Machine
end

