-- ==== Sys2Proof/Machine/MeasurementEvents.lean ====
section
/-!
DEFINITION. The events of the measuring units: warm-up, standby delay, head set-up, settle, samples, discharge
(chapter 4). A command for a timer that is not running leaves the state as it is (log 1).
-/

namespace Sys2Proof.Machine

/-! ## WARM_UP_END and STANDBY_DELAY_EXPIRY (R71, R70) -/

/-- The grant programme of the bus a unit is bound to started, if it now can be (R71, R73). -/
def State.startBound (s : State) (b : Option BusId) : State :=
  match b with
  | some b => s.startGrantProgramme b
  | none => s

/-- The end of a unit's warm-up (R71). -/
def State.warmUpEnd (s : State) (u : MuId) : State :=
  let m := s.mu u
  match m.state, m.warmUp with
  | .warming, some due =>
    ((s.reach due).updMu u fun x => { x with state := .attached, warmUp := none }).startBound m.bus
  | _, _ => s

/-- WARM_UP_END: R71. -/
def execWarmUpEnd (u : MuId) (s : State) : Answer := .next (s.warmUpEnd u).finish

/-- The expiry of a READY unit's standby timer (R70). -/
def State.standbyExpiry (s : State) (u : MuId) : State :=
  let m := s.mu u
  match m.state, m.standby with
  | .ready, some due => (s.reach due).updMu u fun x => { x with state := .standby, standby := none }
  | _, _ => s

/-- STANDBY_DELAY_EXPIRY: R70. -/
def execStandbyDelayExpiry (u : MuId) (s : State) : Answer := .next (s.standbyExpiry u)

/-! ## HEAD_SET_UP_END, SETTLE_END, SAMPLE_ARRIVAL (R76, R91, R95, R101) -/

/-- A MEASURING unit's context, when its phase stands in a given part. -/
def State.contextIn (s : State) (u : MuId) (g : Stage) : Option Context :=
  if (s.mu u).state = .measuring then (s.mu u).context.filter fun c => c.stage == g else none

/-- A unit's context replaced. -/
def State.putContext (s : State) (u : MuId) (c : Context) : State := s.updMu u fun m => { m with context := some c }

/-- The end of a phase's head set-up: its settle time begins (R76). -/
def State.headSetUpEnd (s : State) (u : MuId) : State :=
  match s.contextIn u .setUp with
  | some c => (s.reach c.due).putContext u { c with stage := .settle, due := c.due + ms c.settleMs }
  | none => s

/-- HEAD_SET_UP_END: R76. -/
def execHeadSetUpEnd (u : MuId) (s : State) : Answer := .next (s.headSetUpEnd u)

/-- The end of a phase's settle time: a CAP phase reads its charge meter and ends, any other begins its samples (R76,
R80). -/
def State.settleEnd (s : State) (u : MuId) (charge : Nat) (saturated : Bool) : State :=
  match s.contextIn u .settle with
  | some c =>
    let t := s.reach c.due
    if c.kind = .cap then t.completeStep u c (capResult c charge saturated)
    else t.putContext u { c with stage := .sampling, due := c.due + sampleInterval }
  | none => s

/-- SETTLE_END: R76, R80, R101. -/
def execSettleEnd (u : MuId) (charge : Nat) (saturated : Bool) (s : State) : Answer :=
  .next (s.settleEnd u charge saturated).finish

/-- A sample arrives; the one that brings the count to N ends the phase (R91, R95). -/
def State.sampleArrival (s : State) (u : MuId) (raw : Int) : State :=
  match s.contextIn u .sampling with
  | some c =>
    let t := s.reach c.due
    let c' := { c with acc := c.acc.add raw, due := c.due + sampleInterval }
    if c.sampleCount ≤ c'.acc.count then t.endPhase u c' else t.putContext u c'
  | none => s

/-- SAMPLE_ARRIVAL: R91, R95. -/
def execSampleArrival (u : MuId) (raw : Int) (s : State) : Answer := .next (s.sampleArrival u raw).finish

/-! ## DISCHARGE_END (R87, R39) -/

/-- A DRAINING bus whose unit's discharge has ended goes to RELEASING (R39, R40). -/
def State.drained (s : State) (b : Option BusId) : State :=
  match b with
  | some b => if (s.bus b).state = .draining then s.enterReleasing b else s
  | none => s

/-- The end of a unit's discharge (R87). -/
def State.dischargeEnd (s : State) (u : MuId) : State :=
  let m := s.mu u
  match m.state, m.discharge with
  | .discharging, some due =>
    let t := (s.reach due).updMu u fun x => { x with state := .attached, discharge := none, switchPair := none }
    t.drained m.bus
  | _, _ => s

/-- DISCHARGE_END: R87, R39. -/
def execDischargeEnd (u : MuId) (s : State) : Answer := .next (s.dischargeEnd u).finish

end Sys2Proof.Machine
end

