-- ==== Sys2Proof/Machine/Dispatch.lean ====
section
/-!
DEFINITION. The effect of each command: one arm per row of spec/opcode_table.json, one direct call of its meaning.
-/

namespace Sys2Proof.Machine

/-- The effect of a command on everything but the queue of commands. -/
def exec (i : Instr) (s : State) : Host.Outcome State Fault Refusal :=
  match i with
  | .por cut => Sys2Proof.Machine.execPor cut s
  | .byteReceived p b stopBit => Sys2Proof.Machine.execByteReceived p b stopBit s
  | .interByteGap p => Sys2Proof.Machine.execInterByteGap p s
  | .portReset p => Sys2Proof.Machine.execPortReset p s
  | .reportSent p => Sys2Proof.Machine.execReportSent p s
  | .seize p tag line term prog => Sys2Proof.Machine.execSeize p tag line term prog s
  | .demandTest p tag line prog => Sys2Proof.Machine.execDemandTest p tag line prog s
  | .cancelWait p tag line => Sys2Proof.Machine.execCancelWait p tag line s
  | .terminate p tag bus term => Sys2Proof.Machine.execTerminate p tag bus term s
  | .release p tag bus => Sys2Proof.Machine.execRelease p tag bus s
  | .run p tag bus prog flag => Sys2Proof.Machine.execRun p tag bus prog flag s
  | .abort p tag bus => Sys2Proof.Machine.execAbort p tag bus s
  | .keep p tag bus => Sys2Proof.Machine.execKeep p tag bus s
  | .lineState p tag line state => Sys2Proof.Machine.execLineState p tag line state s
  | .lineStateIdleRange p tag first last => Sys2Proof.Machine.execLineStateIdleRange p tag first last s
  | .intrude p tag line => Sys2Proof.Machine.execIntrude p tag line s
  | .intrudeCancel p tag line => Sys2Proof.Machine.execIntrudeCancel p tag line s
  | .supervise p tag => Sys2Proof.Machine.execSupervise p tag s
  | .queryLine p tag line => Sys2Proof.Machine.execQueryLine p tag line s
  | .queryBus p tag bus => Sys2Proof.Machine.execQueryBus p tag bus s
  | .queryMu p tag unit => Sys2Proof.Machine.execQueryMu p tag unit s
  | .queryStatus p tag => Sys2Proof.Machine.execQueryStatus p tag s
  | .ticketNext p tag => Sys2Proof.Machine.execTicketNext p tag s
  | .ticketHand p tag number assignee => Sys2Proof.Machine.execTicketHand p tag number assignee s
  | .ticketClear p tag number => Sys2Proof.Machine.execTicketClear p tag number s
  | .ticketPurge p tag number => Sys2Proof.Machine.execTicketPurge p tag number s
  | .queryTicket p tag query => Sys2Proof.Machine.execQueryTicket p tag query s
  | .ticketList p tag first => Sys2Proof.Machine.execTicketList p tag first s
  | .ticketNote p tag number note => Sys2Proof.Machine.execTicketNote p tag number note s
  | .setClock p tag day hour minute second => Sys2Proof.Machine.execSetClock p tag day hour minute second s
  | .sweepSet p tag windowStart windowEnd first last prog pacing => Sys2Proof.Machine.execSweepSet p tag windowStart windowEnd first last prog pacing s
  | .sweepEnable p tag => Sys2Proof.Machine.execSweepEnable p tag s
  | .sweepDisable p tag => Sys2Proof.Machine.execSweepDisable p tag s
  | .sweepHold p tag => Sys2Proof.Machine.execSweepHold p tag s
  | .sweepResume p tag => Sys2Proof.Machine.execSweepResume p tag s
  | .sweepNewPass p tag => Sys2Proof.Machine.execSweepNewPass p tag s
  | .querySweep p tag selector index => Sys2Proof.Machine.execQuerySweep p tag selector index s
  | .settingsWrite p tag page data => Sys2Proof.Machine.execSettingsWrite p tag page data s
  | .settingsRead p tag page => Sys2Proof.Machine.execSettingsRead p tag page s
  | .restart p tag => Sys2Proof.Machine.execRestart p tag s
  | .operateCompletion b => Sys2Proof.Machine.execOperateCompletion b s
  | .switchCompletion b => Sys2Proof.Machine.execSwitchCompletion b s
  | .releaseCompletion b => Sys2Proof.Machine.execReleaseCompletion b s
  | .waitDeadlineExpiry line => Sys2Proof.Machine.execWaitDeadlineExpiry line s
  | .supervisionTimerExpiry => Sys2Proof.Machine.execSupervisionTimerExpiry s
  | .graceExpiry b => Sys2Proof.Machine.execGraceExpiry b s
  | .warmUpEnd u => Sys2Proof.Machine.execWarmUpEnd u s
  | .standbyDelayExpiry u => Sys2Proof.Machine.execStandbyDelayExpiry u s
  | .headSetUpEnd u => Sys2Proof.Machine.execHeadSetUpEnd u s
  | .settleEnd u charge saturated => Sys2Proof.Machine.execSettleEnd u charge saturated s
  | .sampleArrival u raw => Sys2Proof.Machine.execSampleArrival u raw s
  | .dischargeEnd u => Sys2Proof.Machine.execDischargeEnd u s
  | .pacingTimerExpiry => Sys2Proof.Machine.execPacingTimerExpiry s
  | .passEnd => Sys2Proof.Machine.execPassEnd s
  | .clockAdvance => Sys2Proof.Machine.execClockAdvance s
  | .slotWriteCompletion => Sys2Proof.Machine.execSlotWriteCompletion s
  | .settingsWriteCompletion => Sys2Proof.Machine.execSettingsWriteCompletion s
  | .accessQuiet => Sys2Proof.Machine.execAccessQuiet s
  | .drainEnd => Sys2Proof.Machine.execDrainEnd s
  | .autoloadPageRead => Sys2Proof.Machine.execAutoloadPageRead s
  | .autoloadCompletion => Sys2Proof.Machine.execAutoloadCompletion s
  | .returnToMark p => Sys2Proof.Machine.execReturnToMark p s

end Sys2Proof.Machine
end

