-- ==== Sys2Proof/Machine/Step.lean ====
section
/-!
DEFINITION. One step of the part: the command at the front of the queue is taken; on an empty queue the part idles for
0.1 ms (log 2).
-/

namespace Sys2Proof.Machine

/-- The part with nothing commanded: 0.1 ms passes (log 2). -/
def State.idle (s : State) : State := { s with now := s.now + 1 }

/-- One step: the front command's effect on the part with the rest of the queue. -/
def step (s : State) : Host.Outcome State Fault Refusal :=
  match s.pending with
  | [] => .next s.idle
  | c :: rest => exec c { s with pending := rest }

/-- The state with the command a word spells put at the front of its queue; unchanged where it spells none. No row of
the table gives bits, so it is always unchanged. A command comes to run by standing in the queue; from `State.reset` a
sender puts commands there (log 2). -/
def State.withFetchWord (s : State) (nbits w : Nat) : State :=
  match Sys2Proof.decodeTableWord nbits w with
  | some c => { s with pending := c :: s.pending }
  | none => s

end Sys2Proof.Machine
end

