-- ==== Sys2Proof/Safety.lean ====
section
/-!
DEFINITION. What the claims are stated in: states between events, states in which a port's orders are handled, and the
laws the manual states of the records (R5, R17, R34, R125, R158, R179).
-/

namespace Sys2Proof.Machine

/-! ## States between events -/

/-- Nothing is left for the end of the event: no overflow's lapse in hand (log 7), access not quiet in QUIESCING (R45),
the write service with nothing to begin (R172), a drain not ended (R174). -/
structure State.Settled (s : State) : Prop where
  noLapse : s.lapseInHand = none
  notQuiet : s.store.phase = .quiescing → ∃ b, (s.bus b).state ≠ .free
  serviceIdle : s.store.phase = .loading ∨ s.store.inFlight.isSome = true
    ∨ (s.store.settingsWrite = none ∧ s.store.anyDirty = false)
  notDrained : s.store.phase = .draining →
    s.store.settingsWrite.isSome = true ∨ s.store.inFlight.isSome = true ∨ s.store.anyDirty = true

/-- A settled state in which an order from a port is handled (R176, R178): RUNNING, and room for its REPLY and one
completion; whether the port's line stands at mark or at space, by the model's choice (log 34). -/
structure State.Hears (s : State) (p : Port) : Prop where
  settled : s.Settled
  running : s.store.phase = .running
  room : 2 ≤ s.freeEntries p

/-- A settled state in which an order from X is handled without a restoration: also SUPERVISED (R47). -/
structure State.HearsX (s : State) : Prop where
  hears : s.Hears .x
  supervised : s.supervised = true

/-- The room of a port's queue for `n` more kept reports. -/
def State.Room (s : State) (p : Port) (n : Nat) : Prop := n ≤ s.freeEntries p

/-- A state with a REPLY ACCEPTED or a refusal put at the tail of a port's queue, nothing else changed: the REPLY
carries the notices-lost marker as it stands, the order-tag flag, the tag, the kind and the code (R178, R180). -/
def State.answered (s : State) (p : Port) (tag : Byte) (k : OrderKind) (code : ReplyCode) (data : ReplyData) : State :=
  s.enqueue p (some tag) (.reply k.code code data)

/-- Bytes received one after another on a port, each with its stop bit: the answer of the last. -/
def sendBytes (p : Port) : List Byte → State → Answer
  | [], s => .next s
  | b :: bs, s => match exec (.byteReceived p b true) s with
    | .next t => sendBytes p bs t
    | .fault f => .fault f
    | .refused r => .refused r

/-! ## Words of the claims -/

/-- No request waits and the sweep is disabled: a bus or a unit that becomes free is granted to no one in the event
(R31, R153, R154). -/
structure State.Unclaimed (s : State) : Prop where
  noWaits : s.waitQueue = []
  sweepOff : s.sweep.enabled = false

/-- The sweep record after a derivation that finds the sweep disabled (R153). -/
def sweepSeenOff (w : SweepRec) : SweepRec := { w with lastState := .off }

/-- The lowest-numbered FREE bus (R24). -/
def State.LowestFree (s : State) (b : BusId) : Prop :=
  (s.bus b).state = .free ∧ ∀ c < b, (s.bus c).state ≠ .free

/-- The unit a binding chooses: the lowest-numbered READY one, or, if none is READY, the lowest-numbered STANDBY one
(R24). -/
def State.ChosenUnit (s : State) (u : MuId) : Prop :=
  ((s.mu u).state = .ready ∧ ∀ v < u, (s.mu v).state ≠ .ready)
    ∨ ((∀ v, (s.mu v).state ≠ .ready) ∧ (s.mu u).state = .standby ∧ ∀ v < u, (s.mu v).state ≠ .standby)

/-- A unit as a binding to a bus leaves it: READY becomes ATTACHED with its standby timer stopped, STANDBY becomes
WARMING for 1.5 s (R69, R71). -/
def boundUnit (now : Nat) (b : BusId) (m : MuRec) : MuRec :=
  if m.state = .ready then { m with state := .attached, bus := some b, standby := none }
  else { m with state := .warming, bus := some b, warmUp := some (now + 15000) }

/-- An ATTACHED unit as an unbinding leaves it: READY, its standby timer started unless the delay is 0 (R69, R70). -/
def freedUnit (now delay : Nat) (m : MuRec) : MuRec :=
  { m with state := .ready, bus := none, standby := if delay = 0 then none else some (now + delay * 600000) }

/-- What a request of a source meets the needs of with a bus and perhaps a unit (R24): the lowest-numbered FREE bus; for
MU termination the chosen unit; for TALK the desk's talk pair not in use. -/
structure State.NeedsMet (s : State) (q : Request) (b : BusId) (u : Option MuId) : Prop where
  bus : s.LowestFree b
  unit : (q.termination = .mu ∧ ∃ v, u = some v ∧ s.ChosenUnit v) ∨ (q.termination ≠ .mu ∧ u = none)
  talk : q.termination = .talk → ∀ d c, q.source = .desk d → (s.bus c).holder = some (.desk d) →
    (s.bus c).talkPair = false

/-- A request's needs are not met (R24): no bus is FREE; or MU is asked for and no unit is READY or STANDBY; or TALK is
asked for and the desk's talk pair is in use. -/
def State.NeedsUnmet (s : State) (q : Request) : Prop :=
  (∀ b, (s.bus b).state ≠ .free)
    ∨ (q.termination = .mu ∧ ∀ u, (s.mu u).state ≠ .ready ∧ (s.mu u).state ≠ .standby)
    ∨ (q.termination = .talk
      ∧ ∃ d c, q.source = .desk d ∧ (s.bus c).holder = some (.desk d) ∧ (s.bus c).talkPair = true)

/-- A request passes checks 2 to 4 of R22: the line on no bus, not queued, quarantined only for a desk without TALK, X
supervised and the line IDLE for MC, IDLE or UNKNOWN for a desk (R14); the source's count below its allowance (R23); a
programme given not empty. -/
structure State.Admitted (s : State) (q : Request) : Prop where
  offBus : (s.line q.line).onBus = none
  notQueued : (s.line q.line).queued = false
  quarantine : (s.line q.line).quarantined = true → q.source.automated = false ∧ q.termination ≠ .talk
  supervised : q.source.automated = true → s.supervised = true
  call : (s.line q.line).callState = .idle ∨ ((s.line q.line).callState = .unknown ∧ q.source.automated = false)
  allowance : s.countOf q.source < s.allowance q.source
  programme : ∀ p, q.programme = some p → (s.library.get p).count ≠ 0

/-- The bus record a grant makes, field by field (R25). -/
def grantRecord (s : State) (q : Request) (u : Option MuId) : BusRec where
  state := .operating
  holder := some q.source
  holderTag := some q.tag
  line := some q.line
  termination := q.termination
  boundMu := u
  grantProgramme := q.programme
  releasePending := none
  releaseTag := none
  terminateTag := none
  talkPair := q.termination == .talk
  intrusion := .none
  owed := none
  intrudeTag := none
  holdStart := some ⟨s.clock.day, s.clock.second, s.clock.valid⟩
  relayDue := some (s.now + 10 * s.config.operate)

/-- A state with one unit's record changed, if a unit is given. -/
def State.updUnit (s : State) (u : Option MuId) (f : MuRec → MuRec) : State :=
  match u with
  | some v => s.updMu v f
  | none => s

/-- The state a grant makes (R25): the bus, the unit bound, the line on the bus and blocked, BLOCK at the tail of X's
queue; nothing else. -/
def State.granted (s : State) (q : Request) (b : BusId) (u : Option MuId) : State :=
  (((s.updBus b fun _ => grantRecord s q u).updUnit u (boundUnit s.now b)).updLine q.line fun r =>
    { r with onBus := some b, blocked := true, queued := false }).enqueue .x none (.block q.line (some b))

/-- The ticket that holds a number, in the lowest slot should two hold it (R141). -/
def State.NumberAt (s : State) (n : Nat) (k : SlotId) (t : Ticket) : Prop :=
  s.slot k = some t ∧ t.number = n ∧ ∀ j < k, ∀ u, s.slot j = some u → u.number ≠ n

/-- The non-cleared ticket of a class on a line, in the lowest slot should two be found (R129). -/
def State.TicketAt (s : State) (l : LineId) (c : FaultClass) (k : SlotId) (t : Ticket) : Prop :=
  s.slot k = some t ∧ t.line = l ∧ t.cls = c ∧ t.state ≠ .cleared
    ∧ ∀ j < k, ∀ u, s.slot j = some u → ¬ (u.line = l ∧ u.cls = c ∧ u.state ≠ .cleared)

/-- A settled running state with a slot's contents changed by an order: while a page is in flight the slot joins the
dirty ones, else its write begins at once with the contents as changed (R127, R172). -/
def State.slotChanged (s : State) (k : SlotId) (x : Option Ticket) : State :=
  if s.store.inFlight.isSome then
    { s with tickets := s.tickets.set k x, store := { s.store with dirty := s.store.dirty.set k true } }
  else
    { s with
      tickets := s.tickets.set k x
      store := { s.store with inFlight := some ⟨slotPageId k, slotPage x, s.now + 50⟩, lastSlot := k } }

/-- A slot's contents changed within an event, the slot dirty (R127). -/
def State.slotDirty (s : State) (k : SlotId) (x : Option Ticket) : State :=
  { s with tickets := s.tickets.set k x, store := { s.store with dirty := s.store.dirty.set k true } }

/-- What ALM is to be once a slot no longer holds a ticket that is CRITICAL and OPEN (R146). -/
def State.AlarmWithout (s : State) (k : SlotId) (alarm : Bool) : Prop :=
  alarm = true ↔ (∃ j u, j ≠ k ∧ s.slot j = some u ∧ u.severity = .critical ∧ u.state = .opened)
    ∨ ∃ l, (s.line l).pendingMask.get 0 = true

/-- The retest list after an offer of a line (R121, R158): added at the end unless it stands there, its class is not swept,
it is quarantined, or 32 lines stand there. -/
def State.retestWith (s : State) (l : LineId) : List LineId :=
  if l ∉ s.retest ∧ (s.classes.get (s.line l).cls).inSweep = true ∧ (s.line l).quarantined = false ∧ s.retest.length < 32
  then s.retest ++ [l] else s.retest

/-- A stamp counts as earlier than another (R131): an invalid one before every valid one, valid ones by day and second. -/
def Stamp.Before (a b : Stamp) : Prop :=
  b.valid = true ∧ (a.valid = false ∨ a.day < b.day ∨ a.day = b.day ∧ a.second < b.second)

/-- The oldest ticket with a property, ties to the lowest slot (R131). -/
def State.OldestAt (s : State) (p : Ticket → Prop) (k : SlotId) (t : Ticket) : Prop :=
  s.slot k = some t ∧ p t
    ∧ ∀ j u, s.slot j = some u → p u → ¬ u.firstSeen.Before t.firstSeen ∧ (j < k → t.firstSeen.Before u.firstSeen)

/-- The number of a new ticket in a slot (R128): the first from the counter on, 65535 followed by 1, that no ticket of another
slot holds. -/
def State.NextNumber (s : State) (k : SlotId) (n : Nat) : Prop :=
  1 ≤ s.counter ∧ s.counter ≤ 65535 ∧ (∀ j t, j ≠ k → s.slot j = some t → t.number ≠ n)
    ∧ ∃ i ≤ 256, n = (s.counter - 1 + i) % 65535 + 1
      ∧ ∀ h < i, ∃ j t, j ≠ k ∧ s.slot j = some t ∧ t.number = (s.counter - 1 + h) % 65535 + 1

/-- A new ticket made in a slot under a number (R134, R128, R121): OPEN, its pending mark gone, NEW to M, the counter one past
the number, the line offered to the retest list but for class HAZARD. -/
def State.ticketMade (s : State) (k : SlotId) (n : Nat) (l : LineId) (c : FaultClass) (f : Failure) (src : Source)
    (stamp : Stamp) : State :=
  let new : Ticket :=
    ⟨n, l, c, f.severity, .opened, src, stamp, stamp, 1, f.value, f.pair, f.distance, 0, none, none, none, none⟩
  { (((s.slotDirty k (some new)).updLine l fun r =>
      { r with pendingMask := r.pendingMask.set c.index false }).enqueue .m none (.ticketEvent (.new new))) with
    counter := if n = 65535 then 1 else n + 1
    retest := if c ≠ .hazard then s.retestWith l else s.retest }

/-- A settled running state with a settings write accepted: it waits behind a page in flight, else it begins at once
(R169). -/
def State.writeAccepted (s : State) (page : PageId) (d : PageData) (tag : Byte) : State :=
  { s with store :=
      { s.store with
        settingsWrite := some ⟨page, d, tag⟩
        inFlight := if s.store.inFlight.isSome then s.store.inFlight else some ⟨page, d, s.now + 50⟩ } }

/-- The absolute line that an order's line field names (R16, R20): through a desk's window, or the number itself. -/
def State.NamesLine (s : State) (p : Port) (n : Nat) (l : LineId) : Prop :=
  match p with
  | .desk d => n < (s.config.windows.get d).count ∧ l.val = (s.config.windows.get d).base + n
  | .x => l.val = n
  | .m => l.val = n

/-- The record of a line whose request waits, or no longer waits (R6). -/
def waitFlag (q : Bool) (r : LineRec) : LineRec := { r with queued := q }

/-- A kept report to a holder's port, when the holder has one; RS has none (R26, R41). -/
def State.tellHolder (s : State) (src : Source) (tag : Option Byte) (body : Port → ReportBody) : State :=
  match src.port? with
  | some p => s.enqueue p tag (body p)
  | none => s

/-- A notice at the tail of the queues of D0 to D3 and M, in that order (R51, R52). -/
def State.noticeAll (s : State) (body : ReportBody) : State :=
  [Port.desk 0, .desk 1, .desk 2, .desk 3, .m].foldl (fun t p => t.enqueue p none body) s

/-- Room for one kept report to a holder. -/
def State.HolderRoom (s : State) (src : Source) : Prop := ∀ p, src.port? = some p → 1 ≤ s.freeEntries p

/-- A bound unit as an unbinding at RELEASING leaves it (R40, R69, R70): ATTACHED as `freedUnit` says, WARMING back in
STANDBY with its warm-up abandoned. -/
def unboundUnit (now delay : Nat) (m : MuRec) : MuRec :=
  if m.state = .warming then { m with state := .standby, bus := none, warmUp := none } else freedUnit now delay m

/-- A PENDING intrusion at a release decision becomes an answer GRANTED owed; otherwise nothing changes (R63). -/
def intrusionOwed (r : BusRec) : BusRec :=
  match r.intrusion with
  | .pending _ => { r with intrusion := .none, owed := some .granted }
  | .none => r
  | .kept => r

/-- A bus whose relays are still operating or switching at its release decision (R37). -/
def pendingRecord (c : Cause) (r : BusRec) : BusRec := { intrusionOwed r with releasePending := some c }

/-- A bus as it enters RELEASING by a release decision (R38, R40, R63). -/
def releasingRecord (due : Nat) (c : Cause) (r : BusRec) : BusRec :=
  { intrusionOwed r with
    state := .releasing, releasePending := some c, termination := .none, boundMu := none, grantProgramme := none
    relayDue := some due }

/-- A HELD bus with no unit, or with an ATTACHED or WARMING one, given back by a release decision (R38, R40): the unit
unbound, the release time running. -/
def State.givenBack (s : State) (b : BusId) (c : Cause) : State :=
  (s.updUnit (s.bus b).boundMu (unboundUnit s.now s.config.standby)).updBus b
    (releasingRecord (s.now + 10 * s.config.release) c)

/-- A bus that a release decision gives back at once, granting nothing to others: it has no unit, or an ATTACHED or
WARMING one that no wait entry and no sweep takes (R38, R40). -/
def State.GivesBack (s : State) (b : BusId) : Prop :=
  (s.bus b).boundMu = none
    ∨ s.Unclaimed ∧ ∃ u, (s.bus b).boundMu = some u ∧ ((s.mu u).state = .attached ∨ (s.mu u).state = .warming)

/-- A programme at its start, with its snapshots (R73, R74, R76, R77): step 0, its first leg's head set-up of 45 ms
running. -/
def startContext (s : State) (b : BusId) (l : LineId) (p : ProgId) (src : Source) (tag : HolderTag) (ticket : Bool) :
    Context where
  programme := p
  steps := snapSteps (s.library.get p)
  cls := (s.line l).cls
  classRec := s.classes.get (s.line l).cls
  holder := src
  tag := tag
  bus := b
  line := l
  ticket := ticket
  stepIndex := 0
  phase := .legAe
  stage := .setUp
  due := s.now + 450
  acc := {}
  range := .r100k
  ranged := false
  vf := none
  vm := none
  legAe := none
  sourceApplied := false
  results := freshResults (snapSteps (s.library.get p))

/-- A state with a programme started on a unit for the holder of a bus (R73): MEASURING, the grant programme cleared. -/
def State.started (s : State) (b : BusId) (u : MuId) (c : Context) : State :=
  (s.updBus b fun r => { r with grantProgramme := none }).updMu u fun m =>
    { m with state := .measuring, context := some c, source := none }

/-- The results at a programme's end: the step in flight becomes ABORTED (R85). -/
def resultsAtEnd (c : Context) : List StepResult :=
  c.results.map fun r => if r.index = c.stepIndex ∧ r.status = .notRun then { r with status := .aborted } else r

/-- A unit after a programme's end (R85, R87): the source off; DISCHARGING for the discharge time, the switch across the
step's pair, when the source was applied in the programme; else ATTACHED. -/
def unitAtEnd (now discharge : Nat) (c : Context) (m : MuRec) : MuRec :=
  if c.sourceApplied then
    { m with
      state := .discharging, context := none, source := none, discharge := some (now + 10 * discharge)
      switchPair := some c.pair }
  else { m with state := .attached, context := none, source := none }

/-- A state with a programme ended on a unit, its holder a desk or MC (R85, R86): the unit, then PROGRAMME_END with the
worst verdict over the DONE steps, their number, and the number of the others. -/
def State.ended (s : State) (u : MuId) (c : Context) (cause : EndCause) : State :=
  (s.updMu u (unitAtEnd s.now s.config.discharge c)).tellHolder c.holder c.tag.order? fun p =>
    .programmeEnd c.programme c.bus (s.lineFor p c.line) cause (worstVerdict (resultsAtEnd c))
      ((resultsAtEnd c).countP fun r => r.status == .done) ((resultsAtEnd c).countP fun r => r.status != .done)

/-- The payload lengths of an order kind (section 10.6). -/
def payloadLengths : OrderKind → List Nat
  | .seize => [4]
  | .cancelWait => [2]
  | .terminate => [2]
  | .release => [1]
  | .run => [2, 3]
  | .abort => [1]
  | .keep => [1]
  | .demandTest => [3]
  | .lineState => [3]
  | .lineStateIdleRange => [4]
  | .intrude => [2]
  | .intrudeCancel => [2]
  | .supervise => [0]
  | .queryLine => [2]
  | .queryBus => [1]
  | .queryMu => [1]
  | .queryStatus => [0]
  | .ticketNext => [0]
  | .ticketHand => [4]
  | .ticketClear => [2]
  | .ticketPurge => [2]
  | .queryTicket => [2, 3]
  | .ticketList => [1]
  | .ticketNote => [4]
  | .setClock => [5]
  | .sweepSet => [11]
  | .sweepEnable => [0]
  | .sweepDisable => [0]
  | .sweepHold => [0]
  | .sweepResume => [0]
  | .sweepNewPass => [0]
  | .querySweep => [1, 2]
  | .settingsWrite => [34]
  | .settingsRead => [2]
  | .restart => [0]

/-- Byte `n` of a page's data, as a number. -/
def dataAt (d : PageData) (n : Nat) : Nat := if h : n < 32 then (d.get ⟨n, h⟩).toNat else 0

/-- The two bytes at `n`, most significant first (section 10.6). -/
def dataWord (d : PageData) (n : Nat) : Nat := dataAt d n * 256 + dataAt d (n + 1)

/-- The four bytes at `n`, most significant first (section 10.6). -/
def dataLong (d : PageData) (n : Nat) : Nat := dataWord d n * 65536 + dataWord d (n + 2)

/-- A value held to a range (R164). -/
def held (a b n : Nat) : Nat := max a (min b n)

/-- A step record as it stands at byte `n` of a programme page (R72, section 10.6). -/
structure StepAt (d : PageData) (n : Nat) (r : StepRec) : Prop where
  kind : dataAt d n / 64 = (match r.kind with
    | .vdc => 0
    | .vac => 1
    | .res => 2
    | .cap => 3)
  pair : dataAt d n / 16 % 4 = r.pairCode.val
  range : dataAt d n % 4 = (match r.range with
    | .fixed .r10k => 0
    | .fixed .r100k => 1
    | .fixed .r1m => 2
    | .auto => 3)
  source : (dataAt d (n + 1) : Int) = r.source % 256
  settle : dataWord d (n + 2) = r.settle % 65536
  samples : dataAt d (n + 4) = r.samples % 256

/-- The codes of the fields of a ticket record (section 10.6). -/
def severityCode : Severity → Nat
  | .minor => 1
  | .major => 2
  | .critical => 3

/-- The codes of the fault classes (section 10.6). -/
def classCode : FaultClass → Nat
  | .hazard => 0
  | .foreignDc => 1
  | .foreignAc => 2
  | .lowIrAb => 3
  | .lowIrAe => 4
  | .lowIrBe => 5
  | .openLine => 6

/-- The codes of the ticket states (section 10.6). -/
def stateCode : TicketState → Nat
  | .opened => 1
  | .handed => 2
  | .cleared => 3

/-- The codes of a ticket's first source (section 10.6). -/
def sourceCode : Source → Nat
  | .desk k => k.val
  | .mc => 4
  | .rs => 5

/-- The codes of who cleared a ticket, 0 for no one (section 10.6). -/
def clearedByCode : Option Clearer → Nat
  | some (.desk k) => k.val
  | some .mc => 4
  | some .auto => 6
  | none => 0

/-- A stamp in a ticket record: its four bytes at `n`, its flags at bits `f` and `f + 1` of byte 6 (section 10.6). -/
structure StampAt (d : PageData) (n f : Nat) (x : Stamp) : Prop where
  day : dataWord d n = x.day % 65536
  second : dataWord d (n + 2) = x.second % 65536
  valid : (dataAt d 6).testBit f = x.valid
  high : (dataAt d 6).testBit (f + 1) = x.second.testBit 16

/-- A ticket record as it stands in its page (section 10.6): absent fields are zeros. -/
structure TicketRecordAt (d : PageData) (t : Ticket) : Prop where
  number : dataWord d 0 = t.number % 65536
  severity : dataAt d 2 / 64 = severityCode t.severity
  cls : dataAt d 2 / 8 % 8 = classCode t.cls
  line : dataWord d 2 % 2048 = t.line.val
  state : dataAt d 4 / 64 = stateCode t.state
  source : dataAt d 4 / 8 % 8 = sourceCode t.firstSource
  clearedBy : dataAt d 4 % 8 = clearedByCode t.clearedBy
  assigneePresent : (dataAt d 5).testBit 7 = t.assignee.isSome
  notePresent : (dataAt d 5).testBit 6 = t.note.isSome
  passes : dataAt d 5 / 8 % 8 = t.passes % 8
  distanceHigh : (dataAt d 5).testBit 2 = (t.distance.getD 0).testBit 16
  spare : dataAt d 5 % 4 = 0
  repeats : dataAt d 7 = t.repeats % 256
  value : (dataLong d 8 : Int) = t.value % 4294967296
  distance : dataWord d 12 = t.distance.getD 0 % 65536
  assignee : dataWord d 14 = t.assignee.getD 0 % 65536
  note : dataWord d 16 = t.note.getD 0 % 65536
  firstSeen : StampAt d 18 0 t.firstSeen
  lastSeen : StampAt d 22 2 t.lastSeen
  clearedAt : StampAt d 26 4 (t.clearedAt.getD ⟨0, 0, false⟩)
  flags : dataAt d 6 / 64 = 0
  rest : dataWord d 30 = 0

/-- A stored record is discarded (R147): its number is 0, or a coded field holds no code of R125. -/
def DiscardedRecord (d : PageData) : Prop :=
  dataWord d 0 = 0 ∨ (∀ v, dataAt d 2 / 64 ≠ severityCode v) ∨ (∀ v, dataAt d 2 / 8 % 8 ≠ classCode v)
    ∨ (∀ v, dataAt d 4 / 64 ≠ stateCode v) ∨ (∀ v, dataAt d 4 / 8 % 8 ≠ sourceCode v)
    ∨ (dataAt d 4 / 64 = stateCode .cleared ∧ ∀ v, dataAt d 4 % 8 ≠ clearedByCode (some v))

/-- A stamp as loaded from a ticket record (section 10.6). -/
structure LoadedStamp (d : PageData) (n f : Nat) (x : Stamp) : Prop where
  day : x.day = dataWord d n
  second : x.second = dataWord d (n + 2) + if (dataAt d 6).testBit (f + 1) = true then 65536 else 0
  valid : x.valid = (dataAt d 6).testBit f

/-- A ticket as loaded from its page with the corrections of R147: HAZARD is CRITICAL, a repeat count of 0 is 1, a distance
stands for class OPEN alone, cleared-by and the cleared stamp in CLEARED alone. The record tells no pair of the last value. -/
structure LoadedTicket (d : PageData) (t : Ticket) : Prop where
  number : t.number = dataWord d 0
  severity : (t.cls = .hazard → t.severity = .critical) ∧ (t.cls ≠ .hazard → severityCode t.severity = dataAt d 2 / 64)
  cls : classCode t.cls = dataAt d 2 / 8 % 8
  line : t.line.val = dataWord d 2 % 2048
  state : stateCode t.state = dataAt d 4 / 64
  source : sourceCode t.firstSource = dataAt d 4 / 8 % 8
  clearedBy : (t.state = .cleared → ∃ v, t.clearedBy = some v ∧ clearedByCode (some v) = dataAt d 4 % 8)
    ∧ (t.state ≠ .cleared → t.clearedBy = none)
  assignee : t.assignee = if (dataAt d 5).testBit 7 = true then some (dataWord d 14) else none
  note : t.note = if (dataAt d 5).testBit 6 = true then some (dataWord d 16) else none
  passes : t.passes = dataAt d 5 / 8 % 8
  distance : t.distance = if t.cls = .openLine
    then some (dataWord d 12 + if (dataAt d 5).testBit 2 = true then 65536 else 0) else none
  repeats : t.repeats = max 1 (dataAt d 7)
  value : t.value = if dataLong d 8 < 2147483648 then (dataLong d 8 : Int) else (dataLong d 8 : Int) - 4294967296
  pair : t.pair = none
  firstSeen : LoadedStamp d 18 0 t.firstSeen
  lastSeen : LoadedStamp d 22 2 t.lastSeen
  clearedAt : (t.state = .cleared → ∃ x, t.clearedAt = some x ∧ LoadedStamp d 26 4 x)
    ∧ (t.state ≠ .cleared → t.clearedAt = none)

/-- The pair of the last value (R113) of a ticket loaded into a slot, its record telling none: that of the ticket the slot
held, when it is the same in all else (R147, a restart's reloaded table equals the table before it), and otherwise a free
value (log 33). -/
inductive State.PairLoaded (s : State) (n : SlotId) (x : Ticket) : Option Pair → Prop where
  | kept (o : Ticket) : s.slot n = some o → { o with pair := none } = x → PairLoaded s n x o.pair
  | free : (∀ o, s.slot n = some o → { o with pair := none } ≠ x) →
      PairLoaded s n x (freePair x.cls (Config.loadedPair s.draws n.val))

/-- The ticket table at the end of an autoload (R147): the examined tickets, each with the pair of its last value. -/
def State.TableLoaded (s : State) (tickets : Tab (Option Ticket) 256) : Prop :=
  ∀ n, match (examine s.store.image s.store.dirty).tickets.get n with
    | none => tickets.get n = none
    | some x => ∃ p, s.PairLoaded n x p ∧ tickets.get n = some { x with pair := p }

/-- Two tickets that R147 lets stand together in no table: one number, or one line and fault class among the
non-cleared. -/
def Ticket.Clashes (x y : Ticket) : Prop :=
  x.number = y.number ∨ x.state ≠ .cleared ∧ y.state ≠ .cleared ∧ x.line = y.line ∧ x.cls = y.cls

/-- The loading of a record that is kept as a ticket corrected it (R147; which corrections count, log 17): a repeat count
of 0, a HAZARD that is not CRITICAL, a distance outside OPEN, a cleared-by or a cleared stamp outside CLEARED. -/
def CorrectedRecord (d : PageData) (x : Ticket) : Prop :=
  dataAt d 7 = 0 ∨ (x.cls = .hazard ∧ dataAt d 2 / 64 ≠ severityCode .critical)
    ∨ (x.cls ≠ .openLine ∧ (dataWord d 12 ≠ 0 ∨ (dataAt d 5).testBit 2 = true))
    ∨ (x.state ≠ .cleared ∧ (dataAt d 4 % 8 ≠ 0 ∨ ¬ LoadedStamp d 26 4 ⟨0, 0, false⟩))

/-- The code of a termination in an order's payload (section 10.6). -/
def termCode : Termination → Nat
  | .none => 0
  | .mu => 1
  | .talk => 2

/-- A switching bus (R35): the new termination, the order's tag, the unit bound, the talk pair held from TALK on. -/
def switchingRecord (due : Nat) (tag : Byte) (t : Termination) (u : Option MuId) (r : BusRec) : BusRec :=
  { r with
    state := .switching, terminateTag := some tag, termination := t, boundMu := u
    talkPair := r.talkPair || t == .talk, relayDue := some due }

/-- An order on a bus that its desk holds: the bus number is refused by NO_SUCH_BUS above 3 and NOT_HOLDER when the desk
does not hold that bus (R35, R42, R62, R83, R84). -/
def State.HolderRefused (s : State) (d : DeskId) (n : Nat) (code : ReplyCode) : Prop :=
  (3 < n ∧ code = .noSuchBus) ∨ (∃ b : BusId, b.val = n ∧ (s.bus b).holder ≠ some (.desk d) ∧ code = .notHolder)

/-- Whether the clock stands inside the sweep window (R153): from the start minute on and before the end minute, across
midnight when the start is later, always when they are equal. -/
def State.InsideWindow (s : State) : Prop :=
  let m := s.clock.second / 60
  let a := s.sweepCfg.windowStart
  let z := s.sweepCfg.windowEnd
  (a < z ∧ a ≤ m ∧ m < z) ∨ (z < a ∧ (a ≤ m ∨ m < z)) ∨ a = z

/-- The sweep state by the table of R153, the first line that holds. -/
def State.SweepIs (s : State) (st : SweepState) : Prop :=
  (s.sweep.enabled = false ∧ st = .off)
    ∨ (s.sweep.enabled = true ∧ s.sweep.mcHold = true ∧ st = .held)
    ∨ (s.sweep.enabled = true ∧ s.sweep.mcHold = false ∧ s.supervised = false ∧ st = .paused)
    ∨ (s.sweep.enabled = true ∧ s.sweep.mcHold = false ∧ s.supervised = true
        ∧ ((s.clock.valid = false ∨ ¬ s.InsideWindow) ∧ st = .waiting
          ∨ s.clock.valid = true ∧ s.InsideWindow ∧ st = .active))

/-- A state with the derived sweep state noted (log 25). -/
def State.seen (s : State) (st : SweepState) : State := { s with sweep := { s.sweep with lastState := st } }

/-- The step record that a context's step runs by: the precheck's, with the legs A-E and B-E one after the other (R77), or
the snapshot's (R74, R76). -/
def Context.Runs (c : Context) (x : SnapStep) : Prop :=
  (c.stepIndex = 0 ∧ x.kind = .vdc ∧ x.pair = (if c.phase = .legBe then .be else .ae) ∧ x.settle = 20 ∧ x.samples = 4)
    ∨ (1 ≤ c.stepIndex ∧ c.steps[c.stepIndex - 1]? = some x)

/-- A unit is MEASURING with a context that stands in a given part of its phase (R68, R74, R76). -/
def State.Measures (s : State) (u : MuId) (g : Stage) (c : Context) : Prop :=
  (s.mu u).state = .measuring ∧ (s.mu u).context = some c ∧ c.stage = g

/-- A state with a unit's context and source replaced. -/
def State.runOn (s : State) (u : MuId) (c : Context) (source : Option Int) : State :=
  s.updMu u fun m => { m with context := some c, source := source }

/-- A context at the beginning of a phase (R76, R90): 45 ms of head set-up, an empty accumulator. -/
def Context.atPhase (c : Context) (ph : Phase) (now : Nat) : Context :=
  { c with phase := ph, stage := .setUp, due := now + 450, acc := {} }

/-- A context at the beginning of the user step `i` with a record (R76 to R80): RES begins with phase F, an AUTO one on
R100K; CAP applies its source at once. -/
def Context.atUserStep (c : Context) (i : Nat) (y : SnapStep) (now : Nat) : Context :=
  { c.atPhase (if y.kind = .res then .f else .single) now with
    stepIndex := i, vf := none, vm := none, legAe := none, ranged := false
    range := match y.range with
      | .fixed r => r
      | .auto => .r100k
    sourceApplied := c.sourceApplied || y.kind == .cap }

/-- The result a phase's end gives its step when that end is the step's completion, from the context, its record and the
complete accumulator: the precheck's (R77, R105), a clipped step's (R81, R106), VDC's and VAC's (R78), RES's when no range
step follows (R79, R99, R100). -/
inductive StepEnds (c : Context) (x : SnapStep) (a : Accum) : StepResult → Prop where
  | precheck (ae : Int) (clip : Bool) : c.stepIndex = 0 → c.phase = .legBe → c.legAe = some (ae, clip) →
      StepEnds c x a
        { index := 0, kind := .vdc, pair := if ae.natAbs < a.mean.natAbs then .be else .ae, status := .done
          value := some (if ae.natAbs < a.mean.natAbs then a.mean else ae), clip := clip || a.clip
          verdict := some (judgePrecheck c.classRec ae a.mean (clip || a.clip)) }
  | clipped : 1 ≤ c.stepIndex → c.phase ≠ .legAe → c.phase ≠ .legBe → a.clip = true →
      StepEnds c x a
        { index := c.stepIndex, kind := x.kind, pair := x.pair, status := .done, value := some a.mean
          range := if x.kind = .res then some c.range else none, clip := true, ranged := c.ranged
          verdict := some .hazard }
  | vdc : 1 ≤ c.stepIndex → c.phase = .single → x.kind = .vdc → a.clip = false →
      StepEnds c x a
        { index := c.stepIndex, kind := .vdc, pair := x.pair, status := .done, value := some a.mean
          verdict := some (judgeStep c.classRec .vdc a.mean) }
  | vac : 1 ≤ c.stepIndex → c.phase = .single → x.kind = .vac → a.clip = false →
      StepEnds c x a
        { index := c.stepIndex, kind := .vac, pair := x.pair, status := .done, value := some (a.rms : Int)
          verdict := some (judgeStep c.classRec .vac (a.rms : Int)) }
  | res (vf : Int) (o : Resistance) : 1 ≤ c.stepIndex → x.kind = .res → a.clip = false → c.vf = some vf →
      c.phase = .mAgain ∨ (c.phase = .m ∧ (x.range ≠ .auto ∨ rangeTest (resInputs vf a.mean x.source) c.range = none)) →
      o = resistance c.range.ohms (resInputs vf a.mean x.source) →
      StepEnds c x a
        { index := c.stepIndex, kind := .res, pair := x.pair, status := .done, value := some (o.ohms : Int)
          range := some c.range, isOver := o.isOver, isUnder := o.isUnder, ranged := c.ranged
          verdict := some (judgeStep c.classRec .res (o.ohms : Int)) }

/-- A state at a step's completion, before what follows it (R82): the source off, the result in the context, STEP_RESULT to a
desk or MC. -/
def State.stepDone (s : State) (u : MuId) (c : Context) (r : StepResult) : State :=
  (s.runOn u { c with results := c.results.set c.stepIndex r } none).tellHolder c.holder none fun p =>
    .stepResult c.programme c.bus (s.lineFor p c.line) r

/-- Room for an event notice to a holder (R179). -/
def State.NoticeRoom (s : State) (src : Source) : Prop := ∀ p, src.port? = some p → 8 ≤ s.freeEntries p

/-- A bus released while its unit discharges (R38, R63). -/
def drainingRecord (c : Cause) (r : BusRec) : BusRec :=
  { intrusionOwed r with state := .draining, releasePending := some c, grantProgramme := none, relayDue := none }

/-- A DRAINING bus as its unit's discharge ends (R39, R40). -/
def drainedRecord (due : Nat) (r : BusRec) : BusRec :=
  { r with
    state := .releasing, termination := .none, boundMu := none, grantProgramme := none, relayDue := some due }

/-- The sweep takes a line, its last routine day apart (R15, R14): its class swept; not on a bus, not queued, not
quarantined; X supervised; the call state IDLE. -/
structure State.SweepTakes (s : State) (l : LineId) : Prop where
  swept : (s.classes.get (s.line l).cls).inSweep = true
  offBus : (s.line l).onBus = none
  notQueued : (s.line l).queued = false
  notQuarantined : (s.line l).quarantined = false
  supervised : s.supervised = true
  idle : (s.line l).callState = .idle

/-- A line was not tested today (R9): its recorded day is not today's, 65534 standing for day 65535 too. -/
def State.UntestedToday (s : State) (l : LineId) : Prop :=
  ∀ d, (s.line l).lastRoutine = some d → d ≠ s.clock.day ∧ ¬ (d = 65534 ∧ s.clock.day = 65535)

/-- The conditions of a start attempt (R154, R45). -/
structure State.MayStart (s : State) : Prop where
  running : s.store.phase = .running
  active : s.SweepIs .active
  ranOut : s.sweep.pacing = none
  notClosing : s.sweep.closing = false
  allowance : ((List.finRange 4).countP fun b => (s.bus b).state != .free && (s.bus b).holder == some .rs)
    < s.config.allowRs
  busReserve : s.config.busReserve + 1 ≤ (List.finRange 4).countP fun b => (s.bus b).state == .free
  muReserve : s.config.muReserve + 1
    ≤ (List.finRange 2).countP fun u => (s.mu u).state == .ready || (s.mu u).state == .standby
  programme : (s.library.get s.sweepCfg.programme).count ≠ 0

/-- The pacing timer restarted with the pacing in the shadow (R154). -/
def State.pacingRestarted (s : State) : State :=
  { s with sweep := { s.sweep with pacing := some (s.now + 10000 * s.sweepCfg.pacing) } }

/-- A sweep test started on a line (R155, R157, R9, R25, R27): the grant to RS with the test number as holder tag, the line's
last routine day, the test's record, tested and the test number counted on, the pacing timer restarted. -/
def State.sweepStarted (s : State) (l : LineId) (b : BusId) (u : MuId) : State :=
  let n := s.sweep.testNumber
  let t := (s.granted ⟨.rs, .test n, l, .mu, some s.sweepCfg.programme⟩ b (some u)).updLine l fun r =>
    { r with lastRoutine := some (min s.clock.day 65534) }
  { t with
    rsTests := s.rsTests ++ [⟨b, l, n, s.sweep.pass⟩]
    sweep := { s.sweep with
      tested := min 65535 (s.sweep.tested + 1), testNumber := (n + 1) % 65536
      pacing := some (s.now + 10000 * s.sweepCfg.pacing) } }

/-- A pass ended (R156): SWEEP_PASS to M as a notice, the rest flag set when nothing was tested, a new pass. -/
def State.passEnded (s : State) : State :=
  let w := s.sweep
  { s.pushNotice .m (.sweepPass w.pass w.tested w.skipped w.faulted) with
    sweep := { w with
      rest := w.tested == 0, tested := 0, skipped := 0, faulted := 0, pass := (w.pass + 1) % 65536
      cursor := s.sweepCfg.first, closing := false } }

/-- The sweep record after a walk that stands at `c` having skipped `n` lines (R155, R151). -/
def walked (w : SweepRec) (c n : Nat) (closing : Bool) : SweepRec :=
  { w with cursor := c, skipped := (satSucc 65535)^[n] w.skipped, closing := closing }

/-- What a start attempt does (R155): the first line of the retest list that the sweep takes, removed from it; else, unless
the sweep rests, the first line from the cursor on that it takes and has not tested today; else the pass closes, and ends at
once when no RS test runs (R156). Without a grant the pacing timer is restarted all the same. -/
inductive State.Attempts (s : State) : State → Prop where
  | retest (xs ys : List LineId) (l : LineId) (b : BusId) (u : MuId) : s.retest = xs ++ l :: ys →
      (∀ k ∈ xs, ¬ s.SweepTakes k) → s.SweepTakes l → s.LowestFree b → s.ChosenUnit u → 1 ≤ s.freeEntries .x →
      Attempts s ({ s with retest := xs ++ ys }.sweepStarted l b u)
  | rests : (∀ k ∈ s.retest, ¬ s.SweepTakes k) → s.sweep.rest = true → Attempts s s.pacingRestarted
  | cursor (l : LineId) (b : BusId) (u : MuId) : (∀ k ∈ s.retest, ¬ s.SweepTakes k) → s.sweep.rest = false →
      max s.sweep.cursor s.sweepCfg.first ≤ l.val → l.val ≤ s.sweepCfg.last → s.SweepTakes l → s.UntestedToday l →
      (∀ k : LineId, max s.sweep.cursor s.sweepCfg.first ≤ k.val → k < l → ¬ (s.SweepTakes k ∧ s.UntestedToday k)) →
      s.LowestFree b → s.ChosenUnit u → 1 ≤ s.freeEntries .x →
      Attempts s
        ({ s with
            sweep := walked s.sweep (l.val + 1) (l.val - max s.sweep.cursor s.sweepCfg.first)
              (l.val == s.sweepCfg.last) }.sweepStarted l b u)
  | closes (t : State) : (∀ k ∈ s.retest, ¬ s.SweepTakes k) → s.sweep.rest = false → s.sweepCfg.last ≤ 2047 →
      (∀ k : LineId, max s.sweep.cursor s.sweepCfg.first ≤ k.val → k.val ≤ s.sweepCfg.last →
        ¬ (s.SweepTakes k ∧ s.UntestedToday k)) →
      t = { s with
        sweep := walked s.sweep (s.sweepCfg.last + 1) (s.sweepCfg.last + 1 - max s.sweep.cursor s.sweepCfg.first)
          true } →
      Attempts s (if s.rsTests = [] then t.passEnded else t).pacingRestarted

/-- What a trigger for a start attempt does (R154): passed over unless every condition holds. -/
inductive State.Triggered (s : State) : State → Prop where
  | passed : ¬ s.MayStart → Triggered s s
  | attempted (t : State) : s.MayStart → s.Attempts t → Triggered s t

/-- A derivation of the sweep state and what follows it (R153): a change to ACTIVE is a trigger. -/
def State.Derived (s t : State) : Prop :=
  ∃ st, s.SweepIs st
    ∧ ((st = .active ∧ s.sweep.lastState ≠ .active → (s.seen st).Triggered t)
      ∧ (¬ (st = .active ∧ s.sweep.lastState ≠ .active) → t = s.seen st))

/-- The first dirty slot after the last one written, going round from 255 to 0 (R172). -/
def State.NextSlot (s : State) (k : SlotId) : Prop :=
  s.store.dirty.get k = true
    ∧ ((s.store.lastSlot < k ∧ ∀ j, s.store.lastSlot < j → j < k → s.store.dirty.get j = false)
      ∨ (k ≤ s.store.lastSlot ∧ (∀ j, s.store.lastSlot < j → s.store.dirty.get j = false)
        ∧ ∀ j < k, s.store.dirty.get j = false))

/-- The write service's choice when no page is in flight (R172): a settings write, else the next dirty slot with its contents
as they stand and its mark cleared, else nothing. -/
inductive State.Chooses (s : State) : State → Prop where
  | settings (q : PendingWrite) : s.store.settingsWrite = some q →
      Chooses s { s with store := { s.store with inFlight := some ⟨q.page, q.data, s.now + 50⟩ } }
  | slot (k : SlotId) : s.store.settingsWrite = none → s.NextSlot k →
      Chooses s { s with store :=
        { s.store with
          inFlight := some ⟨slotPageId k, slotPage (s.slot k), s.now + 50⟩, dirty := s.store.dirty.set k false
          lastSlot := k } }
  | idle : s.store.settingsWrite = none → (∀ k, s.store.dirty.get k = false) → Chooses s s

/-- A page written to the array with its check, at the time its write ends, nothing left in flight (R165, R172). -/
def State.written (s : State) (w : InFlight) : State :=
  { s with
    now := max s.now w.due
    store := { s.store with array := s.store.array.set w.page ⟨w.data, pageCheck w.data⟩, inFlight := none } }

/-- An autoload begun (R167, R174): LOADING, the first page 0.1 ms on, no page counted bad. -/
def State.loadBegun (s : State) : State :=
  { s with store :=
      { s.store with phase := .loading, loadIndex := 0, loadDue := s.now + 1, bad := {}, image := [] } }

/-! ## What an event brings about in other records -/

/-- A wait entry's line, source and count let a scan grant it (R31): the part RUNNING (R45); the line on no bus,
quarantined only for a desk without TALK, X supervised and the line IDLE for MC, IDLE or UNKNOWN for a desk (R14); the
source's count, the entry included, not above its allowance (R23). -/
structure State.ScanAdmits (s : State) (q : Request) : Prop where
  running : s.store.phase = .running
  offBus : (s.line q.line).onBus = none
  quarantine : (s.line q.line).quarantined = true → q.source.automated = false ∧ q.termination ≠ .talk
  supervised : q.source.automated = true → s.supervised = true
  call : (s.line q.line).callState = .idle ∨ ((s.line q.line).callState = .unknown ∧ q.source.automated = false)
  allowance : s.countOf q.source ≤ s.allowance q.source

/-- The entry for a line gone from the wait queue, the line no longer queued (R6). -/
def State.unqueued (s : State) (l : LineId) : State :=
  { s with waitQueue := s.waitQueue.filter fun e => e.req.line != l }.updLine l (waitFlag false)

/-- A scan's walk over entries (R31): each is granted, with the bus and unit its needs call for at that moment, or left in
its place. -/
inductive ScanWalk : List WaitEntry → State → State → Prop where
  | ends (s : State) : ScanWalk [] s s
  | grants (e : WaitEntry) (es : List WaitEntry) (s t : State) (b : BusId) (u : Option MuId) : s.ScanAdmits e.req →
      s.NeedsMet e.req b u → 1 ≤ s.freeEntries .x → ScanWalk es ((s.unqueued e.req.line).granted e.req b u) t →
      ScanWalk (e :: es) s t
  | leaves (e : WaitEntry) (es : List WaitEntry) (s t : State) : ¬ s.ScanAdmits e.req ∨ (∀ b u, ¬ s.NeedsMet e.req b u) →
      ScanWalk es s t → ScanWalk (e :: es) s t

/-- A scan of the wait queue from head to tail (R31). -/
def State.Scans (s t : State) : Prop := ScanWalk s.waitQueue s t

/-- A scan, after which RSS is told that a bus or a unit is free (R40, R41, R122, R154). -/
def State.ScansAndTells (s t : State) : Prop := ∃ u, s.Scans u ∧ u.Triggered t

/-- A line carries a hazard (R7, R120): a non-cleared HAZARD ticket, or a pending HAZARD mark. -/
def State.CarriesHazard (s : State) (l : LineId) : Prop :=
  (∃ n t, s.slot n = some t ∧ t.line = l ∧ t.cls = .hazard ∧ t.state ≠ .cleared)
    ∨ (s.line l).pendingMask.get 0 = true

/-- A line's quarantine evaluated (R120): nothing when the flag stands as it should; set, the line leaves the retest list
(R121); lifted, a scan runs and RSS is told (R122). -/
inductive State.QuarantineSettles (s : State) (l : LineId) : State → Prop where
  | stands : ((s.line l).quarantined = true ↔ s.CarriesHazard l) → QuarantineSettles s l s
  | sets : (s.line l).quarantined = false → s.CarriesHazard l →
      QuarantineSettles s l
        { s.updLine l fun r => { r with quarantined := true } with retest := s.retest.erase l }
  | lifts (t : State) : (s.line l).quarantined = true → ¬ s.CarriesHazard l →
      (s.updLine l fun r => { r with quarantined := false }).ScansAndTells t → QuarantineSettles s l t

/-- What follows the application of a class (R118): for HAZARD the line's quarantine is evaluated, for another nothing. -/
def State.AfterClass (s : State) (c : FaultClass) (l : LineId) (t : State) : Prop :=
  (c = .hazard ∧ s.QuarantineSettles l t) ∨ (c ≠ .hazard ∧ t = s)

/-- One class of a programme's outcome taken (R118): failed (R129), passed (R136) or untouched. -/
inductive State.ClassTaken (s : State) (o : OutcomeIn) (c : FaultClass) : State → Prop where
  | failed (f : Failure) (t : State) : failureOf c o.results = some f →
      (s.applyFailure o.line c f o.source o.stamp).AfterClass c o.line t → ClassTaken s o c t
  | passed (t : State) : failureOf c o.results = none → passedIn c o.cause o.results = true →
      (s.applyPass o.line c o.clearPasses o.stamp).AfterClass c o.line t → ClassTaken s o c t
  | untouched : failureOf c o.results = none → passedIn c o.cause o.results = false → ClassTaken s o c s

/-- Classes of an outcome taken one after the other. -/
inductive ClassesTaken (o : OutcomeIn) : List FaultClass → State → State → Prop where
  | ends (s : State) : ClassesTaken o [] s s
  | takes (c : FaultClass) (cs : List FaultClass) (s t u : State) : s.ClassTaken o c t → ClassesTaken o cs t u →
      ClassesTaken o (c :: cs) s u

/-- ALM is to be asserted (R146): a ticket CRITICAL and OPEN, or a pending HAZARD mark on some line. -/
def State.Alarmed (s : State) : Prop :=
  (∃ n t, s.slot n = some t ∧ t.severity = .critical ∧ t.state = .opened) ∨ ∃ l, (s.line l).pendingMask.get 0 = true

/-- The outcome of a ticketed programme taken (R118, R146): the seven classes in their order, then ALM once; a STARTING
part does not drive it. -/
def State.OutcomeTaken (s : State) (o : OutcomeIn) (t : State) : Prop :=
  ∃ u, ClassesTaken o [.hazard, .foreignDc, .foreignAc, .lowIrAb, .lowIrAe, .lowIrBe, .openLine] s u
    ∧ ((u.store.phase ≠ .running ∧ t = u)
      ∨ (u.store.phase = .running ∧ ∃ a : Bool, (a = true ↔ u.Alarmed) ∧ t = { u with alm := a }))

/-- An RS test's PROGRAMME_END counted (R157): 1 on faulted for a worst verdict above PASS on a test of the current pass. -/
def State.faultCounted (s : State) (b : BusId) (worst : Option Verdict) : State :=
  if (worst = some .marginal ∨ worst = some .fault ∨ worst = some .hazard)
      ∧ (s.rsTests.any fun t => t.bus == b && t.pass == s.sweep.pass) = true then
    { s with sweep := { s.sweep with faulted := satSucc 65535 s.sweep.faulted } }
  else s

/-- A programme ended on a unit (R85, R86, R118): the unit, PROGRAMME_END to a desk or MC or its count to RSS, and the
outcome when it is ticketed. -/
def State.ProgrammeEnds (s : State) (u : MuId) (c : Context) (cause : EndCause) (t : State) : Prop :=
  ∃ told : State,
    ((c.holder ≠ .rs ∧ s.HolderRoom c.holder ∧ told = s.ended u c cause)
      ∨ (c.holder = .rs
        ∧ told = (s.updMu u (unitAtEnd s.now s.config.discharge c)).faultCounted c.bus (worstVerdict (resultsAtEnd c))))
    ∧ ((c.ticket = false ∧ t = told)
      ∨ (c.ticket = true ∧ told.OutcomeTaken
          ⟨c.holder, c.line, c.classRec.clearPasses, cause, resultsAtEnd c, ⟨s.clock.day, s.clock.second, s.clock.valid⟩⟩
          t))

/-- The end cause that matches a release cause (R38); a programme's own end is no release's work (R43). -/
def matchingEnd : Cause → Option EndCause
  | .holder => some .aborted
  | .intruded => some .intruded
  | .lineBusy => some .lineBusy
  | .unsupervised => some .unsupervised
  | .portReset => some .portReset
  | .restart => some .restart
  | .programmeDone => none
  | .hazard => none

/-- A HELD bus at its release decision (R38, R63). -/
def decidedRecord (c : Cause) (r : BusRec) : BusRec :=
  { intrusionOwed r with releasePending := some c, grantProgramme := none }

/-- A release decision on a bus (R37, R38, R40): pending while its relays move; RELEASING with no unit, or with one ATTACHED
or WARMING, which is unbound, a scan following; DRAINING while the unit discharges; a MEASURING unit's programme ends first,
and the bus drains when its source was applied. A bus on its way out is left alone. -/
inductive State.Releases (s : State) (b : BusId) (c : Cause) : State → Prop where
  | ignored : (s.bus b).state = .free ∨ (s.bus b).state = .draining ∨ (s.bus b).state = .releasing → Releases s b c s
  | decided : (s.bus b).state = .operating ∨ (s.bus b).state = .switching → (s.bus b).releasePending ≠ none →
      Releases s b c s
  | pending : (s.bus b).state = .operating ∨ (s.bus b).state = .switching → (s.bus b).releasePending = none →
      Releases s b c (s.updBus b (pendingRecord c))
  | unitless : (s.bus b).state = .held → (s.bus b).boundMu = none → Releases s b c (s.givenBack b c)
  | unbinds (u : MuId) (t : State) : (s.bus b).state = .held → (s.bus b).boundMu = some u →
      (s.mu u).state = .attached ∨ (s.mu u).state = .warming → (s.givenBack b c).ScansAndTells t → Releases s b c t
  | drains (u : MuId) : (s.bus b).state = .held → (s.bus b).boundMu = some u → (s.mu u).state = .discharging →
      Releases s b c (s.updBus b (drainingRecord c))
  | endsDraining (u : MuId) (x : Context) (e : EndCause) (t : State) : (s.bus b).state = .held →
      (s.bus b).boundMu = some u → (s.mu u).state = .measuring → (s.mu u).context = some x → matchingEnd c = some e →
      x.sourceApplied = true → (s.updBus b (decidedRecord c)).ProgrammeEnds u x e t →
      Releases s b c (t.updBus b fun r => { r with state := .draining, relayDue := none })
  | endsReleasing (u : MuId) (x : Context) (e : EndCause) (t w : State) : (s.bus b).state = .held →
      (s.bus b).boundMu = some u → (s.mu u).state = .measuring → (s.mu u).context = some x → matchingEnd c = some e →
      x.sourceApplied = false → (s.updBus b (decidedRecord c)).ProgrammeEnds u x e t →
      ((t.updMu u (freedUnit t.now t.config.standby)).updBus b
        (drainedRecord (t.now + 10 * t.config.release))).ScansAndTells w →
      Releases s b c w

/-- Release decisions with one cause on the buses of a list that have a property, in its order (log 10). -/
inductive ReleaseWalk (p : BusRec → Prop) (c : Cause) : List BusId → State → State → Prop where
  | ends (s : State) : ReleaseWalk p c [] s s
  | takes (b : BusId) (bs : List BusId) (s t u : State) : p (s.bus b) → s.Releases b c t → ReleaseWalk p c bs t u →
      ReleaseWalk p c (b :: bs) s u
  | passes (b : BusId) (bs : List BusId) (s u : State) : ¬ p (s.bus b) → ReleaseWalk p c bs s u →
      ReleaseWalk p c (b :: bs) s u

/-- Release decisions with one cause on every bus that has a property. -/
def State.ReleasesAll (s : State) (p : BusRec → Prop) (c : Cause) (t : State) : Prop := ReleaseWalk p c [0, 1, 2, 3] s t

/-- The call states of a state after a lapse (R51): BUSY and RINGING lines UNKNOWN, the others as they were. -/
def State.LapsedLines (s : State) (ls : Tab LineRec 2048) : Prop :=
  ∀ l : LineId, ls.get l = if (s.line l).callState = .busy ∨ (s.line l).callState = .ringing
    then { s.line l with callState := .unknown } else s.line l

/-- The second half of a lapse (R51, R153), which an overflow's lapse takes at the end of its event (log 7): the buses of
MC and RS released; SUPERVISION_LOST to the desks and M; the sweep state derived. -/
def State.LapseEnds (s : State) (cause : LapseCause) (t : State) : Prop :=
  ∃ w : State, s.ReleasesAll (fun r => r.holder = some .mc ∨ r.holder = some .rs) .unsupervised w
    ∧ (∀ p, p ≠ .x → 8 ≤ w.freeEntries p) ∧ (w.noticeAll (.supervisionLost cause)).Derived t

/-- A supervision lapse (R51): UNSUPERVISED, the timer stopped, BUSY and RINGING lines UNKNOWN; then its second half. -/
def State.Lapses (s : State) (cause : LapseCause) (t : State) : Prop :=
  ∃ ls, s.LapsedLines ls ∧ { s with supervised := false, supTimer := none, lines := ls }.LapseEnds cause t

/-- The restoration of supervision (R52, R57, R153): the timer started, the resync to X, whose queue is emptied first when it
lacks the room, SUPERVISION_RESTORED to the desks and M, one scan, and the sweep state derived. -/
def State.Restores (s t : State) : Prop :=
  ∃ (blocked : List (LineId × Option BusId)) (w : State),
    blocked.Pairwise (fun x y => x.1 < y.1)
    ∧ (∀ l o, (l, o) ∈ blocked ↔ (s.line l).blocked = true ∧ (s.line l).onBus = o)
    ∧ blocked.length ≤ 30 ∧ (∀ p, p ≠ .x → 8 ≤ s.freeEntries p)
    ∧ State.Scans
        (State.noticeAll
          (([ReportBody.resyncBegin] ++ blocked.map (fun x => ReportBody.block x.1 x.2) ++ [ReportBody.resyncEnd]).foldl
            (fun t r => t.enqueue .x none r)
            (State.updPort
              { s with supervised := true, supTimer := some (s.now + 10000 * s.config.interval) } .x fun r =>
                if s.freeEntries .x < blocked.length + 2 then { r with queue := [], lost := true } else r))
          .supervisionRestored) w
    ∧ w.Derived t

/-- Wait entries that end with WAIT_EXPIRED, one after the other (R34). -/
inductive WaitsEnd (cause : WaitCause) : List WaitEntry → State → State → Prop where
  | ends (s : State) : WaitsEnd cause [] s s
  | takes (e : WaitEntry) (es : List WaitEntry) (s t : State) : s.HolderRoom e.req.source →
      WaitsEnd cause es
        ((s.unqueued e.req.line).tellHolder e.req.source e.req.tag.order? fun p =>
          .waitExpired cause (s.lineFor p e.req.line)) t →
      WaitsEnd cause (e :: es) s t

/-- The end of an event in which X's queue did not overflow (log 7): QUIESCING with every bus FREE becomes DRAINING (R45,
R174); the write service makes its choice when nothing is in flight (R172, log 8); DRAINING with nothing left to write begins
the autoload (R174, log 11). -/
def State.EventEnds (s t : State) : Prop :=
  s.lapseInHand = none ∧ ∃ q w : State,
    ((s.store.phase = .quiescing ∧ (∀ b, (s.bus b).state = .free)
        ∧ q = { s with store := { s.store with phase := .draining } })
      ∨ (¬ (s.store.phase = .quiescing ∧ ∀ b, (s.bus b).state = .free) ∧ q = s))
    ∧ ((q.store.phase ≠ .loading ∧ q.store.inFlight = none ∧ q.Chooses w)
      ∨ ((q.store.phase = .loading ∨ q.store.inFlight ≠ none) ∧ w = q))
    ∧ ((w.store.phase = .draining ∧ w.store.settingsWrite = none ∧ w.store.inFlight = none
          ∧ (∀ k, w.store.dirty.get k = false) ∧ t = w.loadBegun)
      ∨ (¬ (w.store.phase = .draining ∧ w.store.settingsWrite = none ∧ w.store.inFlight = none
          ∧ ∀ k, w.store.dirty.get k = false) ∧ t = w))

/-! ## Laws of the records -/

/-- Every outbound queue holds at most 32 reports (R179). -/
def State.QueuesBounded (s : State) : Prop := ∀ p : Port, (s.port p).queue.length ≤ 32

/-- The retest list holds at most 32 lines, none twice (R158). -/
def State.RetestBounded (s : State) : Prop := s.retest.length ≤ 32 ∧ s.retest.Nodup

/-- A line is on a bus exactly when that bus is in a state other than FREE and names the line (R17), and its blocked flag
is set exactly when it is on a bus (R5). -/
structure State.BusesAgree (s : State) : Prop where
  onBus : ∀ (l : LineId) (b : BusId), (s.line l).onBus = some b ↔ (s.bus b).state ≠ .free ∧ (s.bus b).line = some l
  blocked : ∀ l : LineId, (s.line l).blocked = (s.line l).onBus.isSome

/-- The wait queue holds at most 8 entries, no two for the same line, none from RS, and none for a line that is on a bus
(R28, R34); a line's queued flag is set exactly while an entry for it stands in the queue (R6). -/
structure State.WaitsAgree (s : State) : Prop where
  size : s.waitQueue.length ≤ 8
  lines : (s.waitQueue.map fun e => e.req.line).Nodup
  noRs : ∀ e ∈ s.waitQueue, e.req.source ≠ .rs
  offBus : ∀ e ∈ s.waitQueue, (s.line e.req.line).onBus = none
  queued : ∀ l : LineId, (s.line l).queued = true ↔ ∃ e ∈ s.waitQueue, e.req.line = l

/-- The ranges of a ticket's number, repeat count and pass count (R125). -/
def Ticket.InRange (t : Ticket) : Prop :=
  1 ≤ t.number ∧ t.number ≤ 65535 ∧ 1 ≤ t.repeats ∧ t.repeats ≤ 255 ∧ t.passes ≤ 7

/-- Every ticket keeps the ranges of R125, and the number counter its own (R128). -/
structure State.TicketsInRange (s : State) : Prop where
  tickets : ∀ (n : SlotId) (t : Ticket), s.slot n = some t → t.InRange
  counter : 1 ≤ s.counter ∧ s.counter ≤ 65535

/-- The buses and the measuring units agree (R17, R25, R68): a unit is bound to a bus exactly when that bus names it, so that
no unit is bound to two buses and no bus to two units; a bus has termination MU exactly when a unit is bound to it; a unit is
bound to no bus exactly when it is STANDBY or READY; a context exists exactly in MEASURING; a FREE or RELEASING bus has no unit
(R40, R41); and every bus is FREE while the store drains or loads (R174). -/
structure State.UnitsAgree (s : State) : Prop where
  bound : ∀ (b : BusId) (u : MuId), (s.bus b).boundMu = some u ↔ (s.mu u).bus = some b
  termination : ∀ b : BusId, (s.bus b).termination = .mu ↔ ∃ u, (s.bus b).boundMu = some u
  free : ∀ u : MuId, (s.mu u).bus = none ↔ (s.mu u).state = .standby ∨ (s.mu u).state = .ready
  measuring : ∀ u : MuId, (s.mu u).context ≠ none ↔ (s.mu u).state = .measuring
  leaving : ∀ b : BusId, (s.bus b).state = .free ∨ (s.bus b).state = .releasing → (s.bus b).boundMu = none
  quiet : s.store.phase = .draining ∨ s.store.phase = .loading → ∀ b, (s.bus b).state = .free

/-- A programme context keeps to its steps (R77 to R81, R105, R106): the precheck's legs are the phases of step 0 alone, and a
DONE step of fault class HAZARD was judged PASS or HAZARD. -/
structure Context.Fits (c : Context) : Prop where
  legs : c.stepIndex = 0 ↔ c.phase = .legAe ∨ c.phase = .legBe
  judged : ∀ r ∈ c.results, r.status = .done → stepClass r = .hazard → r.verdict = some .pass ∨ r.verdict = some .hazard

/-- Every context fits its steps. -/
def State.ContextsFit (s : State) : Prop := ∀ u c, (s.mu u).context = some c → c.Fits

/-- No two tickets hold one number, and a ticket of class HAZARD is CRITICAL (R125, R128); no two non-cleared tickets share
line and fault class (R129). -/
structure State.TicketsApart (s : State) : Prop where
  numbers : ∀ (n m : SlotId) (t u : Ticket), s.slot n = some t → s.slot m = some u → n ≠ m → t.number ≠ u.number
  classes : ∀ (n m : SlotId) (t u : Ticket), s.slot n = some t → s.slot m = some u → n ≠ m → t.state ≠ .cleared →
    u.state ≠ .cleared → ¬ (t.line = u.line ∧ t.cls = u.cls)
  hazard : ∀ (n : SlotId) (t : Ticket), s.slot n = some t → t.cls = .hazard → t.severity = .critical

/-- The ticket pages an autoload has gathered stand in ascending slot order, each of a page before the next one to be read
(R147, R167). -/
def State.ImageOrdered (s : State) : Prop :=
  s.store.image.Pairwise (fun x y => x.1 < y.1) ∧ ∀ x ∈ s.store.image, 106 + x.1.val < s.store.loadIndex

/-- A line is quarantined exactly when it carries a hazard (R7, R120). -/
def State.QuarantineAgrees (s : State) : Prop := ∀ l : LineId, (s.line l).quarantined = true ↔ s.CarriesHazard l

end Sys2Proof.Machine
end

