-- ==== Sys2Proof/WellFormed.lean ====
section
/-!
DEFINITION. Well-formed commands: each operand lies in the field that carries it (section 10.6), a charge reading is
one the meter can give (R101), and a cut-off page said to fail its check fails it (R173).
-/

namespace Sys2Proof

/-- A value of a two-byte field. -/
def word16 (n : Nat) : Bool := n < 65536

/-- A value of a one-byte field. -/
def byte8 (n : Nat) : Bool := n < 256

/-- Whether a QUERY_TICKET's values fit their fields. -/
def TicketQuery.wf : TicketQuery → Bool
  | .byNumber n => word16 n
  | .byLine l c => word16 l && byte8 c

/-- Whether a command's operands fit the fields that carry them. -/
def Instr.wf : Instr → Bool
  | .por (.failing d c) => !pageGood d c
  | .por .asBefore => true
  | .por .asWritten => true
  | .byteReceived _ _ _ => true
  | .interByteGap _ => true
  | .portReset _ => true
  | .reportSent _ => true
  | .seize _ _ l t pr => word16 l && byte8 t && pr.all (fun n => decide (n < 255))
  | .demandTest _ _ l pr => word16 l && byte8 pr
  | .cancelWait _ _ l => word16 l
  | .terminate _ _ b t => byte8 b && byte8 t
  | .release _ _ b => byte8 b
  | .run _ _ b pr f => byte8 b && byte8 pr && f.all byte8
  | .abort _ _ b => byte8 b
  | .keep _ _ b => byte8 b
  | .lineState _ _ l st => word16 l && byte8 st
  | .lineStateIdleRange _ _ a b => word16 a && word16 b
  | .intrude _ _ l => word16 l
  | .intrudeCancel _ _ l => word16 l
  | .supervise _ _ => true
  | .queryLine _ _ l => word16 l
  | .queryBus _ _ b => byte8 b
  | .queryMu _ _ u => byte8 u
  | .queryStatus _ _ => true
  | .ticketNext _ _ => true
  | .ticketHand _ _ n a => word16 n && word16 a
  | .ticketClear _ _ n => word16 n
  | .ticketPurge _ _ n => word16 n
  | .queryTicket _ _ q => q.wf
  | .ticketList _ _ f => byte8 f
  | .ticketNote _ _ n t => word16 n && word16 t
  | .setClock _ _ d h m s => word16 d && byte8 h && byte8 m && byte8 s
  | .sweepSet _ _ a b c d pr pc => word16 a && word16 b && word16 c && word16 d && byte8 pr && word16 pc
  | .sweepEnable _ _ => true
  | .sweepDisable _ _ => true
  | .sweepHold _ _ => true
  | .sweepResume _ _ => true
  | .sweepNewPass _ _ => true
  | .querySweep _ _ sel i => byte8 sel && i.all byte8
  | .settingsWrite _ _ pg _ => word16 pg
  | .settingsRead _ _ pg => word16 pg
  | .restart _ _ => true
  | .operateCompletion _ => true
  | .switchCompletion _ => true
  | .releaseCompletion _ => true
  | .waitDeadlineExpiry _ => true
  | .supervisionTimerExpiry => true
  | .graceExpiry _ => true
  | .warmUpEnd _ => true
  | .standbyDelayExpiry _ => true
  | .headSetUpEnd _ => true
  | .settleEnd _ q sat => decide (q ≤ 500000) && (!sat || q == 500000)
  | .sampleArrival _ _ => true
  | .dischargeEnd _ => true
  | .pacingTimerExpiry => true
  | .passEnd => true
  | .clockAdvance => true
  | .slotWriteCompletion => true
  | .settingsWriteCompletion => true
  | .accessQuiet => true
  | .drainEnd => true
  | .autoloadPageRead => true
  | .autoloadCompletion => true
  | .returnToMark _ => true

end Sys2Proof
end

