-- ==== Sys2Proof/Certificates/Slice0/Obligations.lean ====
section
/-!
DEFINITION. The statements for the provers.
-/

open Sys2Proof Sys2Proof.Machine

/-! ## The queue, the reset, the laws of the records -/

/-- A step takes the command at the front of the queue and answers what it does with the rest of the queue. With no
command waiting, 0.1 ms of the crystal's time passes and nothing else changes: the model's choice, log 2. -/
def Obligations.StepTakesTheFrontCommand : Prop :=
  (∀ (c : Instr) (rest : List Instr) (s : State),
     step { s with pending := c :: rest } = exec c { s with pending := rest })
  ∧ (∀ s : State, s.pending = [] → step s = .next { s with now := s.now + 1 })

/-- What stands after POR (R17, R28, R47, R58, R68, R125, R148, R151, R158, R166, R177, R179, R180): every bus FREE with
termination NONE and intrusion NONE, every line UNKNOWN, on no bus, not queued, not quarantined, with no pending mark and
never tested, both units STANDBY and unbound, no wait entry, no ticket, an empty retest list and no RS test, the sweep
record's MC hold, closing and rest clear, its pass number, its three counts and its test number 0, X UNSUPERVISED with its
timer stopped, ALM deasserted, the clock invalid at day 0, every port hunting with an empty queue and a clear marker, the
links at 19200, the store LOADING with cause POR, no page in flight and last slot 255. The model's
choices among these: no command waits in the model's own queue (log 2); the ticket table is empty and the clock's next
second stands at 0 before the autoload (log 4); no port's line stands at space (log 15). -/
def Obligations.ResetStandsAsAfterPor : Prop :=
  (∀ b, State.reset.bus b = {}) ∧ (∀ l, (State.reset.line l) = {}) ∧ (∀ u, State.reset.mu u = {})
    ∧ (∀ n, State.reset.slot n = none) ∧ (∀ p, State.reset.port p = {})
    ∧ State.reset.waitQueue = [] ∧ State.reset.retest = [] ∧ State.reset.rsTests = []
    ∧ State.reset.sweep.mcHold = false ∧ State.reset.sweep.closing = false ∧ State.reset.sweep.rest = false
    ∧ State.reset.sweep.pass = 0 ∧ State.reset.sweep.tested = 0 ∧ State.reset.sweep.skipped = 0
    ∧ State.reset.sweep.faulted = 0 ∧ State.reset.sweep.testNumber = 0
    ∧ State.reset.supervised = false ∧ State.reset.supTimer = none ∧ State.reset.lapseOwed = none
    ∧ State.reset.alm = false ∧ State.reset.clock = ⟨0, 0, false, 0⟩ ∧ State.reset.linkRate = .b19200
    ∧ State.reset.store.phase = .loading ∧ State.reset.store.resetCause = .por
    ∧ State.reset.store.settingsWrite = none ∧ State.reset.store.inFlight = none
    ∧ State.reset.store.lastSlot = 255 ∧ State.reset.store.anyDirty = false ∧ State.reset.pending = []

/-- The laws of the records hold at reset: lines, buses and units agree, the wait queue's laws, the tickets' ranges and what
keeps tickets apart, contexts that fit their steps, quarantine exactly with a hazard, the bounds of the retest list and of the
queues. The empty ticket table before the autoload is the model's choice, log 4. -/
def Obligations.ResetMeetsTheRecordLaws : Prop :=
  State.reset.BusesAgree ∧ State.reset.WaitsAgree ∧ State.reset.TicketsInRange ∧ State.reset.RetestBounded
    ∧ State.reset.QueuesBounded ∧ State.reset.UnitsAgree ∧ State.reset.ContextsFit ∧ State.reset.TicketsApart
    ∧ State.reset.QuarantineAgrees

/-- From every state in which lines, blocked flags and buses agree, each step leads to one in which they agree (R17, R5). So
for the units (R17, R25, R68): a unit is bound to a bus exactly when that bus names it, a bus has termination MU exactly when
a unit is bound to it, a context exists exactly in MEASURING. So for the contexts, which keep to their steps (R77 to R81,
R105, R106). -/
def Obligations.BusesAndLinesStayInAgreement : Prop :=
  (∀ s t : State, s.BusesAgree → step s = .next t → t.BusesAgree)
  ∧ (∀ s t : State, s.UnitsAgree → step s = .next t → t.UnitsAgree)
  ∧ (∀ s t : State, s.ContextsFit → step s = .next t → t.ContextsFit)

/-- The wait queue's laws outlast every step (R28, R34, R6). -/
def Obligations.WaitQueueStaysLawful : Prop :=
  ∀ s t : State, s.WaitsAgree → step s = .next t → t.WaitsAgree

/-- The ranges of the tickets and of the number counter outlast every step (R125, R128); the retest list stays within 32
lines, none twice (R158), and every queue within 32 reports (R179). No step gives two tickets one number, makes a HAZARD ticket
other than CRITICAL, or lets two non-cleared tickets share line and class (R125, R129), said where the ranges hold and every
context fits its steps; and a line stays quarantined exactly while it carries a hazard, a non-cleared HAZARD ticket or a
pending HAZARD mark (R7, R120). -/
def Obligations.TicketsListsAndQueuesStayInBounds : Prop :=
  (∀ s t : State, s.TicketsInRange → step s = .next t → t.TicketsInRange)
  ∧ (∀ s t : State, step s = .next t →
       (s.RetestBounded → t.RetestBounded) ∧ (s.QueuesBounded → t.QueuesBounded))
  ∧ (∀ s t : State, s.TicketsInRange → s.ContextsFit → s.TicketsApart → step s = .next t → t.TicketsApart)
  ∧ (∀ s t : State, s.QuarantineAgrees → step s = .next t → t.QuarantineAgrees)

/-! ## Frames and links -/

/-- The kind byte, the tag and the payload of seven frames, byte for byte by section 10.6: five carry the order named, two
carry none (a SUPERVISE with a payload byte, a kind that is no order). -/
def Obligations.FramesSpellTheirOrders : Prop :=
  decodeOrder (.desk 0) 0x11 0x01 [0x00, 0x28, 0x01, 0xFF] = some (.seize (.desk 0) 0x11 40 1 none)
    ∧ decodeOrder .m 0x12 0x08 [0x02, 0xBC, 0x04] = some (.demandTest .m 0x12 700 4)
    ∧ decodeOrder .x 0x1F 0x12 [0x04, 0x4C] = some (.intrude .x 0x1F 1100)
    ∧ decodeOrder .m 0x05 0x30 [0x02, 0x58, 0x17, 0x3B, 0x00] = some (.setClock .m 0x05 600 23 59 0)
    ∧ decodeOrder .m 0x06 0x24 [0x02, 0xBC, 0x05] = some (.queryTicket .m 0x06 (.byLine 700 5))
    ∧ decodeOrder .x 0x07 0x14 [0x00] = none ∧ decodeOrder .m 0x08 0x40 [] = none

/-- Every well-formed order's payload, in the layout of section 10.6, is read back as that order, with every operand at
every value its field admits. -/
def Obligations.OrderPayloadsReadBack : Prop :=
  ∀ (i : Instr) (p : Port) (tag : Byte) (k : OrderKind), i.wf = true → i.orderHead = some (p, tag, k) →
    decodeOrder p tag k.code i.payload = some i

/-- An order's frame received byte by byte on a hunting port whose line stands at mark does what the order does as one
command (R176, R177). That the command of an order and its frame take one path is read from the manual by inference, log
3. -/
def Obligations.FrameBytesDoWhatTheOrderDoes : Prop :=
  ∀ (i : Instr) (p : Port) (tag : Byte) (k : OrderKind) (fs : List Byte) (s : State),
    i.wf = true → i.orderHead = some (p, tag, k) → i.frame = some fs → s.Settled →
      (s.port p).assembly = .hunting → (s.port p).inBreak = false →
        sendBytes p fs s = exec i s

/-- The receive assembly byte by byte (R177): a hunting port waits for A5h; a length outside 2 to 62 is answered with
FRAME_REJECT LENGTH when the queue has room for a notice; a byte without its stop bit and an inter-byte gap bring the
assembly back to hunting; a frame whose bytes do not sum to 0 is answered with FRAME_REJECT CHECK; nothing is received
while the line stands at space (log 15). -/
def Obligations.ReceiveAssemblyFollowsTheBytes : Prop :=
  ∀ (p : Port) (b : Byte) (s : State), s.Settled →
    ((s.port p).inBreak = true → ∀ x, exec (.byteReceived p b x) s = .next s)
    ∧ ((s.port p).inBreak = false →
      exec (.byteReceived p b false) s = .next (s.updPort p fun r => { r with assembly := .hunting })
      ∧ ((s.port p).assembly = .hunting →
        (b ≠ 0xA5 → exec (.byteReceived p b true) s = .next s)
        ∧ (b = 0xA5 → exec (.byteReceived p b true) s = .next (s.updPort p fun r => { r with assembly := .started })))
      ∧ ((s.port p).assembly = .started →
        (2 ≤ b.toNat → b.toNat ≤ 62 → exec (.byteReceived p b true) s
          = .next (s.updPort p fun r => { r with assembly := .assembling b.toNat [b] }))
        ∧ (b.toNat < 2 ∨ 62 < b.toNat → 8 ≤ s.freeEntries p → exec (.byteReceived p b true) s
          = .next (s.updPort p fun r =>
              { r with assembly := .hunting, queue := r.queue ++ [⟨r.lost, false, 0, .frameReject .length⟩] })))
      ∧ (∀ n bs, (s.port p).assembly = .assembling n bs →
        (bs.length + 1 < n + 2 → exec (.byteReceived p b true) s
          = .next (s.updPort p fun r => { r with assembly := .assembling n (bs ++ [b]) }))
        ∧ (n + 2 ≤ bs.length + 1 → (bs ++ [b]).foldl (· + ·) 0 ≠ 0 → 8 ≤ s.freeEntries p →
          exec (.byteReceived p b true) s
          = .next (s.updPort p fun r =>
              { r with assembly := .hunting, queue := r.queue ++ [⟨r.lost, false, 0, .frameReject .check⟩] }))))
    ∧ exec (.interByteGap p) s = .next (s.updPort p fun r => { r with assembly := .hunting })

/-- An order that arrives while fewer than 2 entries of its port's queue are free is discarded without effect and the port's
marker is set (R178): whatever the order, whatever the port, also while STARTING. An order the port's role does not include
is answered NOT_PERMITTED, one of the port's own is answered STARTING while the part is STARTING, and nothing else happens
(R176), also on X while STARTING, when a frame has no effect on the supervision (R50). While RUNNING a refused order of X
counts for supervision (R47): SUPERVISED the timer is restarted first (R48), UNSUPERVISED supervision is restored first (R52),
and the REPLY follows. A frame that passes its
checks and spells no order, its kind none of section 10.6 or its length not one of that kind, is answered BAD_ORDER, or
discarded in the same way (R176, R178); from X it counts for supervision all the same (R47): it restarts the timer, or
restores supervision first, but has no such effect while STARTING. That the discard comes before the role check and before
any effect on the supervision is read by inference, log 13. -/
def Obligations.LinksRefuseAndDiscardOrders : Prop :=
  (∀ (i : Instr) (p : Port) (tag : Byte) (k : OrderKind) (s : State), i.orderHead = some (p, tag, k) → s.Settled →
     s.freeEntries p < 2 → exec i s = .next (s.updPort p fun r => { r with lost := true }))
  ∧ (∀ (i : Instr) (p : Port) (tag : Byte) (k : OrderKind) (s : State), i.orderHead = some (p, tag, k) → s.Settled →
       2 ≤ s.freeEntries p → (p ≠ .x ∨ s.store.phase ≠ .running) →
         (orderPermits k p = false → exec i s = .next (s.answered p tag k .notPermitted .none))
         ∧ (orderPermits k p = true → s.store.phase ≠ .running → exec i s = .next (s.answered p tag k .starting .none)))
  ∧ (∀ (i : Instr) (tag : Byte) (k : OrderKind) (s : State), i.orderHead = some (.x, tag, k) → s.Hears .x →
       orderPermits k .x = false →
         (s.supervised = true → exec i s
           = .next (State.answered { s with supTimer := some (s.now + 10000 * s.config.interval) } .x tag k .notPermitted
               .none))
         ∧ (s.supervised = false → ∀ t e, s.Restores t → 1 ≤ t.freeEntries .x →
           (t.answered .x tag k .notPermitted .none).EventEnds e → exec i s = .next e))
  ∧ (∀ (p : Port) (b len code tag : Byte) (n : Nat) (bs rest : List Byte) (s : State), s.Settled →
       (s.port p).inBreak = false → (s.port p).assembly = .assembling n bs → n + 2 ≤ bs.length + 1 →
       bs ++ [b] = len :: code :: tag :: rest → (bs ++ [b]).foldl (· + ·) 0 = 0 →
       (∀ k : OrderKind, k.code = code → rest.dropLast.length ∉ payloadLengths k) →
       let hunts := s.updPort p fun r => { r with assembly := .hunting }
       let refused := fun t : State => t.enqueue p (some tag) (.reply code .badOrder .none)
       (s.freeEntries p < 2 → exec (.byteReceived p b true) s = .next (hunts.updPort p fun r => { r with lost := true }))
       ∧ (2 ≤ s.freeEntries p →
         (p ≠ .x ∨ s.store.phase ≠ .running → exec (.byteReceived p b true) s = .next (refused hunts))
         ∧ (p = .x → s.store.phase = .running →
           (s.supervised = true → exec (.byteReceived p b true) s
             = .next (refused { hunts with supTimer := some (s.now + 10000 * s.config.interval) }))
           ∧ (s.supervised = false → ∀ t e, hunts.Restores t → 1 ≤ t.freeEntries .x → (refused t).EventEnds e →
             exec (.byteReceived p b true) s = .next e))))

/-- How reports join a queue (R179, R180): a kept report takes any free entry, at the tail, with the marker as it stands
and the order-tag flag set exactly when it bears an order's tag; finding none on a port other than X it empties the queue,
sets the marker and stands alone; a notice is dropped with the marker set while fewer than 8 entries are free. On X a kept
report that finds no free entry stands alone in the same way (R57); while SUPERVISED and RUNNING the state becomes
UNSUPERVISED with its timer stopped and the call states changed (R51), and while STARTING a lapse is owed, the first cause
recorded kept (R50). At the end of the event that lapse goes on with cause OVERFLOW (R51): the buses of MC and RS get
their release decisions, SUPERVISION_LOST goes to the desks and M, the sweep state is derived (R153), and then the event ends
as any other; so a KEEP (R62) whose DENIED finds X's queue full. That the report which empties the queue carries the marker as
just set is read by inference, log 22, and that the buses come lowest first, log 10. That the lapse's releases and notices
follow at the end of the event is the model's choice, log 7, and that the write service chooses there, log 8. -/
def Obligations.ReportsJoinTheQueue : Prop :=
  (∀ (s : State) (p : Port) (tag : Option Byte) (body : ReportBody),
     (s.freeEntries p ≠ 0 → s.pushKept p tag body
       = s.updPort p fun r => { r with queue := r.queue ++ [⟨r.lost, tag.isSome, tag.getD 0, body⟩] })
     ∧ (s.freeEntries p = 0 → p ≠ .x → s.pushKept p tag body
       = s.updPort p fun r => { r with queue := [⟨true, tag.isSome, tag.getD 0, body⟩], lost := true })
     ∧ (8 ≤ s.freeEntries p → s.pushNotice p body
       = s.updPort p fun r => { r with queue := r.queue ++ [⟨r.lost, false, 0, body⟩] })
     ∧ (s.freeEntries p < 8 → s.pushNotice p body = s.updPort p fun r => { r with lost := true }))
  ∧ (∀ (s : State) (tag : Option Byte) (body : ReportBody), s.freeEntries .x = 0 →
       let alone := s.updPort .x fun r => { r with queue := [⟨true, tag.isSome, tag.getD 0, body⟩], lost := true }
       (s.supervised = false → s.pushKept .x tag body = alone)
       ∧ (s.supervised = true → s.store.phase ≠ .running →
         s.pushKept .x tag body = { alone with lapseOwed := some (s.lapseOwed.getD .overflow) })
       ∧ (s.supervised = true → s.store.phase = .running → ∃ ls : Tab LineRec 2048, s.pushKept .x tag body
           = { alone with supervised := false, supTimer := none, lapseInHand := some .overflow, lines := ls }
         ∧ ∀ l : LineId, ls.get l = if (s.line l).callState = .busy ∨ (s.line l).callState = .ringing
             then { s.line l with callState := .unknown } else s.line l))
  ∧ (∀ (s t : State) (cause : LapseCause), s.lapseInHand = some cause →
       { s with lapseInHand := none }.LapseEnds cause t → s.settleLapse = t ∧ ∀ e, t.EventEnds e → s.finish = e)
  ∧ (∀ (d : DeskId) (tag x : Byte) (n due : Nat) (b : BusId) (l : LineId) (ls : Tab LineRec 2048) (s t e : State),
       s.Hears (.desk d) → s.supervised = true → s.freeEntries .x = 0 → b.val = n →
       (s.bus b).holder = some (.desk d) → (s.bus b).owed = none → (s.bus b).intrusion = .pending due →
       (s.bus b).line = some l → (s.classes.get (s.line l).cls).isProtected = false → (s.bus b).intrudeTag = some x →
       let kept := (s.answered (.desk d) tag .keep .accepted .none).updBus b fun r =>
         { r with intrusion := .kept, intrudeTag := none }
       let alone := kept.updPort .x fun r =>
         { r with queue := [⟨true, true, x, .intrudeAnswer .denied⟩], lost := true }
       s.LapsedLines ls → { alone with supervised := false, supTimer := none, lines := ls }.LapseEnds .overflow t →
       t.EventEnds e → exec (.keep (.desk d) tag n) s = .next e)

/-- A report that has been sent leaves the head of its port's queue, and its entry is free (R179); with none to send, no
effect: the model's choice, log 16. A line back at mark may begin a new frame (R181). A port reset (R181): the port hunting,
its queue empty, its marker clear; a second command in the same break does nothing. That the break is a flag which a reset
sets and the mark clears is the model's, log 15. Of D0 to D3 or M (R44): the source's wait entries leave the queue with no
report, and a release decision PORT_RESET is taken on each of its buses. Of X while UNSUPERVISED: nothing more; while
SUPERVISED and STARTING the lapse is owed, the first cause recorded kept (R50); while SUPERVISED and RUNNING it is taken,
cause PORT_RESET (R51). That the wait entries go before the releases is the model's choice, log 9; that the buses come
lowest first is read by inference, log 10. That the write service chooses at the end of the event is the model's choice, log
8. -/
def Obligations.PortEventsClearThePort : Prop :=
  (∀ (s : State) (p : Port),
     (exec (.reportSent p) s = .next (s.updPort p fun r => { r with queue := r.queue.drop 1 }))
     ∧ exec (.returnToMark p) s = .next (s.updPort p fun r => { r with inBreak := false }))
  ∧ (∀ (s : State) (p : Port), s.Settled →
       ((s.port p).inBreak = true → exec (.portReset p) s = .next s)
       ∧ ((s.port p).inBreak = false →
         let cleared := s.updPort p fun _ => ⟨.hunting, [], false, true⟩
         ((∀ src, portSource? p = some src →
             (∀ b, (s.bus b).holder ≠ some src) ∧ ∀ e ∈ s.waitQueue, e.req.source ≠ src) →
           (p = .x → s.supervised = false) → exec (.portReset p) s = .next cleared)
         ∧ (∀ (src : Source) (ls : Tab LineRec 2048) (t e : State), portSource? p = some src → s.WaitsAgree →
           (∀ l, ls.get l = if ∃ w ∈ s.waitQueue, w.req.source = src ∧ w.req.line = l then waitFlag false (s.line l)
             else s.line l) →
           State.ReleasesAll
             { cleared with waitQueue := s.waitQueue.filter fun w => w.req.source != src, lines := ls }
             (fun r => r.holder = some src) .portReset t →
           t.EventEnds e → exec (.portReset p) s = .next e)
         ∧ (p = .x → s.supervised = true →
           (s.store.phase ≠ .running →
             exec (.portReset p) s = .next { cleared with lapseOwed := some (s.lapseOwed.getD .portReset) })
           ∧ (s.store.phase = .running → ∀ t e, cleared.Lapses .portReset t → t.EventEnds e →
             exec (.portReset p) s = .next e))))

/-- POR (R167, R173): everything takes its value of after POR but the array, the crystal's time and the model's own
queue and count of draws (log 29); the page in flight is left as before, as written, or failing its check, which the command's
operand says (log 6); the autoload's first read comes 0.1 ms later. The shadows' values before the autoload are the model's
choice, log 4, and that a line at space is forgotten, log 15. -/
def Obligations.PorLeavesTheArray : Prop :=
  ∀ (s : State) (cut : CutPage), ∃ t, exec (.por cut) s = .next t
    ∧ t = { State.reset with
        now := s.now, draws := s.draws, pending := s.pending
        store := { State.reset.store with array := t.store.array, loadDue := s.now + 1 } }
    ∧ (s.store.inFlight = none → t.store.array = s.store.array)
    ∧ (∀ w, s.store.inFlight = some w →
      (∀ k, k ≠ w.page → t.store.array.get k = s.store.array.get k)
      ∧ t.store.array.get w.page = (match cut with
        | .asBefore => s.store.array.get w.page
        | .asWritten => ⟨w.data, pageCheck w.data⟩
        | .failing d c => ⟨d, c⟩))

/-! ## Queries -/

/-- A line as a report to a port gives it (R20): to a desk, a line inside its window is its desk-local number and one
outside is its absolute number with the outside-window flag set; to X and M, the absolute number, the flag clear. QUERY_LINE
(R16) answers the record of the line as it stands, written for the port in this way; a desk's number at or above its
window's count is OUT_OF_WINDOW, a number above 2047 from X or M BAD_PARAMETER. From X the frame restarts the supervision
timer first (R48). -/
def Obligations.QueryLineReportsTheRecord : Prop :=
  let view := fun (s : State) (p : Port) (l : LineId) => LineView.mk (s.lineFor p l) (s.line l).callState (s.line l).cls
    (s.line l).onBus ((s.line l).onBus.bind fun b => (s.bus b).holder) (s.line l).blocked (s.line l).queued
    (s.line l).quarantined (s.line l).pendingMask (s.line l).lastRoutine
  (∀ (s : State) (l : LineId),
     (∀ d, let w := s.config.windows.get d
       (w.base ≤ l.val → l.val < w.base + w.count → s.lineFor (.desk d) l = ⟨l.val - w.base, false⟩)
       ∧ (l.val < w.base ∨ w.base + w.count ≤ l.val → s.lineFor (.desk d) l = ⟨l.val, true⟩))
     ∧ s.lineFor .x l = ⟨l.val, false⟩ ∧ s.lineFor .m l = ⟨l.val, false⟩)
  ∧ ∀ (tag : Byte) (n : Nat) (l : LineId) (s : State),
    (∀ d, s.Hears (.desk d) →
      (n < (s.config.windows.get d).count → l.val = (s.config.windows.get d).base + n →
        exec (.queryLine (.desk d) tag n) s
          = .next (s.answered (.desk d) tag .queryLine .accepted (.line (view s (.desk d) l))))
      ∧ ((s.config.windows.get d).count ≤ n →
        exec (.queryLine (.desk d) tag n) s = .next (s.answered (.desk d) tag .queryLine .outOfWindow .none)))
    ∧ (s.Hears .m →
      (l.val = n → exec (.queryLine .m tag n) s = .next (s.answered .m tag .queryLine .accepted (.line (view s .m l))))
      ∧ (2047 < n → exec (.queryLine .m tag n) s = .next (s.answered .m tag .queryLine .badParameter .none)))
    ∧ (s.HearsX →
      (l.val = n → exec (.queryLine .x tag n) s
        = .next (s.startSupervisionTimer.answered .x tag .queryLine .accepted (.line (view s .x l))))
      ∧ (2047 < n → exec (.queryLine .x tag n) s
        = .next (s.startSupervisionTimer.answered .x tag .queryLine .badParameter .none)))

/-- QUERY_BUS (R46, R58): the bus record as it stands, the holder tag and whether an answer is owed to M only; above 3,
NO_SUCH_BUS. The order changes nothing but the queue its REPLY joins. -/
def Obligations.QueryBusReportsTheRecord : Prop :=
  ∀ (p : Port) (tag : Byte) (n : Nat) (s : State), p ≠ .x → s.Hears p →
    (∀ b : BusId, b.val = n →
      exec (.queryBus p tag n) s = .next (s.answered p tag .queryBus .accepted (.busRecord
        { state := (s.bus b).state, holder := (s.bus b).holder, line := (s.bus b).line.map (s.lineFor p)
          termination := (s.bus b).termination, boundMu := (s.bus b).boundMu
          releasePending := (s.bus b).releasePending, intrusion := (s.bus b).intrusion
          holdStart := (s.bus b).holdStart
          holderTag := match p with
            | .m => (s.bus b).holderTag
            | _ => none
          answerOwed := match p with
            | .m => some (s.bus b).owed.isSome
            | _ => none })))
    ∧ (3 < n → exec (.queryBus p tag n) s = .next (s.answered p tag .queryBus .noSuchBus .none))

/-- QUERY_MU (R89): the unit's state, its bus and that bus's holder, and, when MEASURING, the programme number, the step
index, the step's kind and the phase of its context, F, M or the single phase of the other kinds, a repeated M an M; above
1, BAD_PARAMETER. -/
def Obligations.QueryMuReportsTheUnit : Prop :=
  ∀ (p : Port) (tag : Byte) (n : Nat) (s : State), p ≠ .x → s.Hears p →
    (∀ u : MuId, u.val = n →
      ((s.mu u).state ≠ .measuring → exec (.queryMu p tag n) s = .next (s.answered p tag .queryMu .accepted (.unit
        ⟨(s.mu u).state, (s.mu u).bus, (s.mu u).bus.bind fun b => (s.bus b).holder, none⟩)))
      ∧ (∀ c, (s.mu u).state = .measuring → (s.mu u).context = some c →
        exec (.queryMu p tag n) s = .next (s.answered p tag .queryMu .accepted (.unit
          ⟨.measuring, (s.mu u).bus, (s.mu u).bus.bind fun b => (s.bus b).holder,
            some ⟨c.programme, c.stepIndex, c.kind, match c.phase with
              | .f => PhaseView.f
              | .m => .m
              | .mAgain => .m
              | .legAe => .single
              | .legBe => .single
              | .single => .single⟩⟩))))
    ∧ (1 < n → exec (.queryMu p tag n) s = .next (s.answered p tag .queryMu .badParameter .none))

/-- QUERY_STATUS (R180), from every port: the marker in the REPLY's flags and data, the free entries at the order, the
supervision state and ALM; the marker is clear afterwards. From X the state is SUPERVISED (R47). -/
def Obligations.QueryStatusReportsAndClearsTheMarker : Prop :=
  ∀ (tag : Byte) (s : State),
    (∀ p, p ≠ .x → s.Hears p → exec (.queryStatus p tag) s
      = .next (s.updPort p fun r => { r with
          lost := false
          queue := r.queue ++ [⟨r.lost, true, tag, .reply 0x1B .accepted
            (.status r.lost (32 - r.queue.length) s.supervised s.alm)⟩] }))
    ∧ (s.HearsX → exec (.queryStatus .x tag) s
      = .next (s.startSupervisionTimer.updPort .x fun r => { r with
          lost := false
          queue := r.queue ++ [⟨r.lost, true, tag, .reply 0x1B .accepted
            (.status r.lost (32 - r.queue.length) true s.alm)⟩] }))

/-- QUERY_TICKET (R141, R143). By number: the ticket holding it, in any state; from a desk only inside its window, with
the line in the desk's numbering; NO_SUCH_TICKET otherwise. By line and class: the non-cleared ticket of that class on that
line, NO_SUCH_TICKET when there is none. From M a line above 2047 or a class outside the seven is BAD_PARAMETER; from a desk a
line outside its window is OUT_OF_WINDOW, and after that a class outside the seven BAD_PARAMETER, and the ticket's line is
given in the desk's numbering. -/
def Obligations.QueryTicketFindsTheTicket : Prop :=
  (∀ (tag : Byte) (n : Nat) (k : SlotId) (t : Ticket) (s : State),
     (s.Hears .m → s.NumberAt n k t → exec (.queryTicket .m tag (.byNumber n)) s
       = .next (s.answered .m tag .queryTicket .accepted (.ticket (some ⟨t, ⟨t.line.val, false⟩⟩))))
     ∧ (∀ d, s.Hears (.desk d) → s.NumberAt n k t →
       ((s.config.windows.get d).base ≤ t.line.val →
         t.line.val < (s.config.windows.get d).base + (s.config.windows.get d).count →
         exec (.queryTicket (.desk d) tag (.byNumber n)) s = .next (s.answered (.desk d) tag .queryTicket .accepted
           (.ticket (some ⟨t, ⟨t.line.val - (s.config.windows.get d).base, false⟩⟩))))
       ∧ ((t.line.val < (s.config.windows.get d).base
           ∨ (s.config.windows.get d).base + (s.config.windows.get d).count ≤ t.line.val) →
         exec (.queryTicket (.desk d) tag (.byNumber n)) s
           = .next (s.answered (.desk d) tag .queryTicket .noSuchTicket .none)))
     ∧ (∀ p, p ≠ .x → s.Hears p → (∀ j u, s.slot j = some u → u.number ≠ n) →
       exec (.queryTicket p tag (.byNumber n)) s = .next (s.answered p tag .queryTicket .noSuchTicket .none)))
  ∧ (∀ (tag : Byte) (n code : Nat) (l : LineId) (c : FaultClass) (s : State), classCode c = code →
       (s.Hears .m → l.val = n →
         (∀ k t, s.TicketAt l c k t → exec (.queryTicket .m tag (.byLine n code)) s
           = .next (s.answered .m tag .queryTicket .accepted (.ticket (some ⟨t, ⟨l.val, false⟩⟩))))
         ∧ ((∀ j u, s.slot j = some u → ¬ (u.line = l ∧ u.cls = c ∧ u.state ≠ .cleared)) →
           exec (.queryTicket .m tag (.byLine n code)) s
             = .next (s.answered .m tag .queryTicket .noSuchTicket .none)))
       ∧ (∀ d, s.Hears (.desk d) → s.NamesLine (.desk d) n l →
         (∀ k t, s.TicketAt l c k t → exec (.queryTicket (.desk d) tag (.byLine n code)) s
           = .next (s.answered (.desk d) tag .queryTicket .accepted (.ticket (some ⟨t, ⟨n, false⟩⟩))))
         ∧ ((∀ j u, s.slot j = some u → ¬ (u.line = l ∧ u.cls = c ∧ u.state ≠ .cleared)) →
           exec (.queryTicket (.desk d) tag (.byLine n code)) s
             = .next (s.answered (.desk d) tag .queryTicket .noSuchTicket .none))))
  ∧ (∀ (tag : Byte) (n code : Nat) (s : State),
       (s.Hears .m → 2047 < n ∨ 6 < code → exec (.queryTicket .m tag (.byLine n code)) s
         = .next (s.answered .m tag .queryTicket .badParameter .none))
       ∧ ∀ d, s.Hears (.desk d) →
         ((s.config.windows.get d).count ≤ n → exec (.queryTicket (.desk d) tag (.byLine n code)) s
           = .next (s.answered (.desk d) tag .queryTicket .outOfWindow .none))
         ∧ (n < (s.config.windows.get d).count → (s.config.windows.get d).base + n ≤ 2047 → 6 < code →
           exec (.queryTicket (.desk d) tag (.byLine n code)) s
             = .next (s.answered (.desk d) tag .queryTicket .badParameter .none)))

/-- TICKET_NEXT (R137): an OPEN ticket of the highest severity any OPEN ticket has, and among those the oldest by R131,
ties to the lowest slot; NONE when no ticket is OPEN; nothing changed but the queue of M. -/
def Obligations.TicketNextNamesTheNeediest : Prop :=
  ∀ (tag : Byte) (s : State), s.Hears .m →
    ∃ o : Option (SlotId × Ticket),
      exec (.ticketNext .m tag) s = .next (s.answered .m tag .ticketNext .accepted
        (.ticket (o.map fun x => ⟨x.2, ⟨x.2.line.val, false⟩⟩)))
      ∧ (o = none → ∀ n t, s.slot n = some t → t.state ≠ .opened)
      ∧ ∀ n t, o = some (n, t) → s.slot n = some t ∧ t.state = .opened
        ∧ ∀ m u, s.slot m = some u → u.state = .opened →
          u.severity.rank < t.severity.rank
            ∨ (u.severity = t.severity
              ∧ (t.firstSeen.earlier u.firstSeen = true ∨ (u.firstSeen.earlier t.firstSeen = false ∧ n ≤ m)))

/-- TICKET_LIST (R142): at most 8 summaries of non-empty slots, from the first slot asked upward, in ascending order,
none left out between; END when no non-empty slot lies beyond the last, else the slot after it; above 255,
BAD_PARAMETER. -/
def Obligations.TicketListWalksTheSlots : Prop :=
  ∀ (tag : Byte) (first : Nat) (s : State), s.Hears .m →
    (255 < first → exec (.ticketList .m tag first) s = .next (s.answered .m tag .ticketList .badParameter .none))
    ∧ (first ≤ 255 → ∃ (sums : List TicketSummary) (next : Option Nat),
      exec (.ticketList .m tag first) s = .next (s.answered .m tag .ticketList .accepted (.tickets sums next))
      ∧ sums.length ≤ 8
      ∧ sums.Pairwise (fun a b => a.slot < b.slot)
      ∧ (∀ x ∈ sums, first ≤ x.slot.val ∧ ∃ t, s.slot x.slot = some t ∧ x.number = t.number ∧ x.line = t.line
          ∧ x.cls = t.cls ∧ x.severity = t.severity ∧ x.state = t.state)
      ∧ (∀ (n : SlotId) (t : Ticket), s.slot n = some t → first ≤ n.val →
          (∃ x ∈ sums, x.slot = n) ∨ (sums.length = 8 ∧ ∀ x ∈ sums, x.slot < n))
      ∧ (next = none ↔ ∀ (n : SlotId) (t : Ticket), s.slot n = some t → first ≤ n.val → ∃ x ∈ sums, x.slot = n)
      ∧ (∀ k, next = some k → ∃ x, sums.getLast? = some x ∧ k = x.slot.val + 1))

/-- QUERY_SWEEP (R161): RECORD gives the state and the flags, the window, range, programme and pacing of the shadow, the
clock and the counts as they stand, the time left on the pacing timer in whole seconds rounded down; LIST gives up to 16
retest lines from its index; a LIST whose index is above 31, and another selector, are BAD_PARAMETER. That a RECORD ignores
its index byte, whatever it is, is the model's choice, log 12. A LIST without its index byte asks from an index the spec
does not state, a free value (the model's choice, log 12): its REPLY is that of LIST with that index. -/
def Obligations.QuerySweepReportsRecordAndList : Prop :=
  ∀ (tag : Byte) (s : State), s.Hears .m →
    (∀ i, exec (.querySweep .m tag 0 i) s = .next (s.answered .m tag .querySweep .accepted (.sweep
      { state := s.sweepState, enabled := s.sweep.enabled, mcHold := s.sweep.mcHold, closing := s.sweep.closing
        rest := s.sweep.rest, windowStart := s.sweepCfg.windowStart, windowEnd := s.sweepCfg.windowEnd
        first := s.sweepCfg.first, last := s.sweepCfg.last, programme := s.sweepCfg.programme
        pacing := s.sweepCfg.pacing, pacingLeft := s.sweep.pacing.map fun t => (t - s.now) / 10000
        cursor := s.sweep.cursor, pass := s.sweep.pass, tested := s.sweep.tested, skipped := s.sweep.skipped
        faulted := s.sweep.faulted, running := s.rsTests.length, listed := s.retest.length
        day := s.clock.day, hour := s.clock.second / 3600, minute := s.clock.second / 60 % 60
        second := s.clock.second % 60, valid := s.clock.valid })))
    ∧ (∀ i, i ≤ 31 → exec (.querySweep .m tag 1 (some i)) s = .next (s.answered .m tag .querySweep .accepted
      (.retest ((s.retest.drop i).take 16) s.retest.length)))
    ∧ (∀ i, 31 < i → exec (.querySweep .m tag 1 (some i)) s
      = .next (s.answered .m tag .querySweep .badParameter .none))
    ∧ (∀ sel i, 1 < sel → exec (.querySweep .m tag sel i) s
      = .next (s.answered .m tag .querySweep .badParameter .none))
    ∧ exec (.querySweep .m tag 1 none) s
      = exec (.querySweep .m tag 1 (some (Config.sweepListIndexWhenAbsent s.draws))) { s with draws := s.draws + 1 }

/-- SETTINGS_READ (R171): each page in its layout (section 10.6) formed from the working state: the shadows, the class
fields of a map page's 32 lines, a slot's ticket or 32 zero bytes; above 361, BAD_PARAMETER; the array is not read. The
layouts byte by byte: configuration page 0, configuration page 1, a class page, the two pages of a programme with the step
records in them, and the ticket record, unused bytes and bits 0 and a stored pair code as it stands, both read by inference,
log 20. -/
def Obligations.SettingsReadFormsThePage : Prop :=
  (∀ (tag : Byte) (s : State), s.Hears .m →
    let gives := fun (n : Nat) (d : PageData) =>
      exec (.settingsRead .m tag n) s = .next (s.answered .m tag .settingsRead .accepted (.page d))
    gives 0 (config0Page s.config) ∧ gives 1 (sweepPage s.sweepCfg)
    ∧ (∀ c : ClassId, gives (2 + c.val) (classPage (s.classes.get c)))
    ∧ (∀ k : Fin 64, ∃ d, gives (10 + k.val) d
      ∧ ∀ (j : Fin 32) (l : LineId), l.val = 32 * k.val + j.val → (d.get j).toNat = (s.line l).cls.val)
    ∧ (∀ p : ProgId, gives (74 + 2 * p.val) (firstPage (s.library.get p))
      ∧ gives (75 + 2 * p.val) (secondPage (s.library.get p)))
    ∧ (∀ n : SlotId, (∀ t, s.slot n = some t → gives (106 + n.val) (pageOfBytes (ticketBytes t t.line.val)))
      ∧ (s.slot n = none → gives (106 + n.val) (Tab.replicate 32 0)))
    ∧ (∀ n, 361 < n → exec (.settingsRead .m tag n) s = .next (s.answered .m tag .settingsRead .badParameter .none)))
  ∧ (∀ c : Config0,
    let at_ := dataAt (config0Page c)
    let word := dataWord (config0Page c)
    at_ 0 = c.operate % 256 ∧ at_ 1 = c.release % 256 ∧ at_ 2 = c.switch % 256
    ∧ (∀ d : DeskId, word (3 + 4 * d.val) = (c.windows.get d).base % 65536
      ∧ word (5 + 4 * d.val) = (c.windows.get d).count % 65536)
    ∧ at_ 19 = c.allowDesk % 256 ∧ at_ 20 = c.allowMc % 256 ∧ at_ 21 = c.allowRs % 256
    ∧ at_ 22 = (c.busReserve + 16 * c.muReserve) % 256 ∧ at_ 23 = c.deskWait % 256 ∧ word 24 = c.mcWait % 65536
    ∧ at_ 26 = c.grace % 256 ∧ at_ 27 = c.interval % 256 ∧ at_ 28 = c.standby % 256 ∧ word 29 = c.discharge % 65536
    ∧ at_ 31 = (match c.rate with
      | .b9600 => 0
      | .b19200 => 1
      | .b38400 => 2
      | .b115200 => 3))
  ∧ (∀ c : SweepCfg,
    let at_ := dataAt (sweepPage c)
    let word := dataWord (sweepPage c)
    word 0 = c.windowStart % 65536 ∧ word 2 = c.windowEnd % 65536 ∧ word 4 = c.first % 65536 ∧ word 6 = c.last % 65536
    ∧ at_ 8 = c.programme.val ∧ word 9 = c.pacing % 65536 ∧ at_ 11 = (if c.startEnabled then 1 else 0)
    ∧ ∀ n, 12 ≤ n → at_ n = 0)
  ∧ (∀ c : ClassRec,
    let at_ := dataAt (classPage c)
    let word := dataWord (classPage c)
    word 0 = c.hazardLimit % 65536 ∧ word 2 = c.fdcWarn % 65536 ∧ word 4 = c.fdcFail % 65536 ∧ word 6 = c.facWarn % 65536
    ∧ word 8 = c.facFail % 65536 ∧ dataLong (classPage c) 10 = c.irWarn % 4294967296
    ∧ dataLong (classPage c) 14 = c.irFail % 4294967296 ∧ word 18 = c.capMin % 65536 ∧ at_ 20 = c.cpk % 256
    ∧ at_ 21 = c.clearPasses % 256 ∧ at_ 22 = (if c.isProtected then 1 else 0) ∧ at_ 23 = (if c.inSweep then 1 else 0)
    ∧ ∀ n, 24 ≤ n → at_ n = 0)
  ∧ (∀ e : ProgEntry, dataAt (firstPage e) 0 = e.count % 256 ∧ dataAt (firstPage e) 31 = 0
    ∧ dataWord (secondPage e) 30 = 0
    ∧ ∀ i : Fin 10,
      let d := if i.val < 5 then firstPage e else secondPage e
      let n := if i.val < 5 then 1 + 6 * i.val else 6 * (i.val - 5)
      StepAt d n (e.steps.get i) ∧ dataAt d n / 4 % 4 = 0 ∧ dataAt d (n + 5) = 0)
  ∧ ∀ t : Ticket, TicketRecordAt (pageOfBytes (ticketBytes t t.line.val)) t

/-! ## Requests for a bus -/

/-- A request that passes the checks of R22 and whose needs can be met is granted at once, waiting entries or not (R24,
R25, R30): REPLY ACCEPTED naming the bus, then the grant. A SEIZE names its line through the desk's window, termination MU
(1) or TALK (2), a programme only with MU; a DEMAND_TEST always names one, with MU. The X queue has an entry for BLOCK. -/
def Obligations.RequestsAreGranted : Prop :=
  ∀ (tag : Byte) (n : Nat) (l : LineId) (b : BusId) (u : Option MuId) (s : State), s.Room .x 1 →
    (∀ (d : DeskId) (pr : Option ProgId), s.Hears (.desk d) → s.NamesLine (.desk d) n l →
      (let q : Request := ⟨.desk d, .order tag, l, .mu, pr⟩
       s.Admitted q → s.NeedsMet q b u →
          exec (.seize (.desk d) tag n 1 (pr.map Fin.val)) s
            = .next ((s.answered (.desk d) tag .seize .accepted (.bus b)).granted q b u))
      ∧ (let q : Request := ⟨.desk d, .order tag, l, .talk, none⟩
         s.Admitted q → s.NeedsMet q b u →
          exec (.seize (.desk d) tag n 2 none) s
            = .next ((s.answered (.desk d) tag .seize .accepted (.bus b)).granted q b u)))
    ∧ (∀ pr : ProgId, s.Hears .m → s.NamesLine .m n l →
      let q : Request := ⟨.mc, .order tag, l, .mu, some pr⟩
      s.Admitted q → s.NeedsMet q b u →
        exec (.demandTest .m tag n pr.val) s
          = .next ((s.answered .m tag .demandTest .accepted (.bus b)).granted q b u))

/-- A request that passes the checks but whose needs are not met waits (R28, R30): QUEUED, behind every entry of the same
or higher priority, with the deadline of its priority's wait limit and its line's queued flag set; at 8 entries it is
answered QUEUE_FULL and leaves no trace. -/
def Obligations.RequestsWait : Prop :=
  ∀ (tag : Byte) (n : Nat) (l : LineId) (ds ms : List WaitEntry) (s : State), s.waitQueue = ds ++ ms →
    (∀ e ∈ ds, ∃ d, e.req.source = .desk d) → (∀ e ∈ ms, e.req.source = .mc) →
    (∀ (d : DeskId) (t : Termination) (pr : Option ProgId), s.Hears (.desk d) → s.NamesLine (.desk d) n l →
      (t = .mu ∨ t = .talk ∧ pr = none) →
      let q : Request := ⟨.desk d, .order tag, l, t, pr⟩
      let i : Instr := .seize (.desk d) tag n (if t = .mu then 1 else 2) (pr.map Fin.val)
      s.Admitted q → s.NeedsUnmet q →
        (s.waitQueue.length < 8 → exec i s
          = .next { (s.answered (.desk d) tag .seize .queued .none).updLine l (waitFlag true) with
              waitQueue := ds ++ [⟨q, s.now + 10000 * s.config.deskWait⟩] ++ ms })
        ∧ (8 ≤ s.waitQueue.length → exec i s = .next (s.answered (.desk d) tag .seize .queueFull .none)))
    ∧ (∀ pr : ProgId, s.Hears .m → s.NamesLine .m n l →
      let q : Request := ⟨.mc, .order tag, l, .mu, some pr⟩
      let i : Instr := .demandTest .m tag n pr.val
      s.Admitted q → s.NeedsUnmet q →
        (s.waitQueue.length < 8 → exec i s
          = .next { (s.answered .m tag .demandTest .queued .none).updLine l (waitFlag true) with
              waitQueue := ds ++ ms ++ [⟨q, s.now + 10000 * s.config.mcWait⟩] })
        ∧ (8 ≤ s.waitQueue.length → exec i s = .next (s.answered .m tag .demandTest .queueFull .none)))

/-- Refused requests (R21, R22, R14, R23): the parameters first, then the line, then the admission test in its order, the
allowance, the programme; the first that fails gives the code, and only the REPLY's queue changes. That a line under an
automated test is refused LINE_ON_TEST, where section 8.6 speaks of a desk waiting for it, is the model's choice, log 32. -/
def Obligations.RequestsAreRefusedInOrder : Prop :=
  ∀ (tag : Byte) (n : Nat) (l : LineId) (s : State),
    let r := s.line l
    let refusal := fun (src : Source) (t : Termination) (pr : Option ProgId) =>
      if r.onBus.isSome then some ReplyCode.lineOnTest
      else if r.queued then some .lineQueued
      else if r.quarantined ∧ (src = .mc ∨ t = .talk) then some .quarantined
      else if s.supervised = false ∧ src = .mc then some .unsupervised
      else if r.callState = .busy ∨ r.callState = .ringing ∨ (r.callState = .unknown ∧ src = .mc) then some .lineBusy
      else if s.allowance src ≤ s.countOf src then some .noAllowance
      else if ∃ p, pr = some p ∧ (s.library.get p).count = 0 then some .noProgramme
      else none
    (∀ d, s.Hears (.desk d) →
      let refused := fun (t : Nat) (pr : Option Nat) (code : ReplyCode) =>
        exec (.seize (.desk d) tag n t pr) s = .next (s.answered (.desk d) tag .seize code .none)
      (∀ t pr, t ≠ 1 → t ≠ 2 → refused t pr .badParameter)
      ∧ (∀ pr, 15 < pr → refused 1 (some pr) .badParameter)
      ∧ (∀ pr, refused 2 (some pr) .badParameter)
      ∧ ((s.config.windows.get d).count ≤ n →
        refused 2 none .outOfWindow ∧ ∀ pr : Option ProgId, refused 1 (pr.map Fin.val) .outOfWindow)
      ∧ (s.NamesLine (.desk d) n l →
        (∀ (pr : Option ProgId) (code : ReplyCode), refusal (.desk d) .mu pr = some code →
          refused 1 (pr.map Fin.val) code)
        ∧ ∀ code : ReplyCode, refusal (.desk d) .talk none = some code → refused 2 none code))
    ∧ (s.Hears .m →
      let refused := fun (pr : Nat) (code : ReplyCode) =>
        exec (.demandTest .m tag n pr) s = .next (s.answered .m tag .demandTest code .none)
      (∀ pr, 15 < pr → refused pr .badParameter)
      ∧ (2047 < n → ∀ pr, refused pr .badParameter)
      ∧ (s.NamesLine .m n l → ∀ (pr : ProgId) (code : ReplyCode), refusal .mc .mu (some pr) = some code →
        refused pr.val code))

/-- CANCEL_WAIT (R33): the source's entry for the line leaves the queue, the line's queued flag is cleared, and after the
REPLY ACCEPTED the source's port gets WAIT_EXPIRED with cause CANCELLED and the waiting request's tag; with no such entry
BAD_STATE; a line outside the window OUT_OF_WINDOW, above 2047 BAD_PARAMETER. A wait entry's deadline reached (R32): at that
time the entry leaves in the same way with cause TIMEOUT. No entry for the line, no effect: the model's choice, log 1. -/
def Obligations.WaitEntriesEndWithoutAGrant : Prop :=
  (∀ (p : Port) (src : Source) (tag waitTag : Byte) (n : Nat) (l : LineId) (s : State), portSource? p = some src →
     s.Hears p →
       (s.NamesLine p n l →
         (∀ (e : WaitEntry) (xs ys : List WaitEntry), s.waitQueue = xs ++ e :: ys → e.req.line = l →
           e.req.source = src → e.req.tag = .order waitTag → (∀ x ∈ xs ++ ys, x.req.line ≠ l) →
           exec (.cancelWait p tag n) s
             = .next { ((s.answered p tag .cancelWait .accepted .none).updLine l (waitFlag false)).enqueue p (some waitTag)
                 (.waitExpired .cancelled (s.lineFor p l)) with waitQueue := xs ++ ys })
         ∧ ((∀ e ∈ s.waitQueue, e.req.line = l → e.req.source ≠ src) →
           exec (.cancelWait p tag n) s = .next (s.answered p tag .cancelWait .badState .none)))
       ∧ (∀ d, p = .desk d → (s.config.windows.get d).count ≤ n →
         exec (.cancelWait p tag n) s = .next (s.answered p tag .cancelWait .outOfWindow .none))
       ∧ (p = .m → 2047 < n → exec (.cancelWait p tag n) s = .next (s.answered p tag .cancelWait .badParameter .none)))
  ∧ (∀ (p : Port) (src : Source) (waitTag : Byte) (l : LineId) (s : State), portSource? p = some src → s.Settled →
       s.Room p 1 →
         (∀ (e : WaitEntry) (xs ys : List WaitEntry), s.waitQueue = xs ++ e :: ys → e.req.line = l → e.req.source = src →
           e.req.tag = .order waitTag → (∀ x ∈ xs ++ ys, x.req.line ≠ l) →
           exec (.waitDeadlineExpiry l) s
             = .next { (s.updLine l (waitFlag false)).enqueue p (some waitTag) (.waitExpired .timeout (s.lineFor p l)) with
                 now := max s.now e.deadline, waitQueue := xs ++ ys })
         ∧ ((∀ e ∈ s.waitQueue, e.req.line ≠ l) → exec (.waitDeadlineExpiry l) s = .next s))

/-! ## Orders on a held bus -/

/-- TERMINATE (R35, R24, R69) on a HELD bus: its unit unbound and READY, then for MU the chosen unit bound, the bus
SWITCHING for the termination switch time with the new termination and the order's tag. Where a unit is freed, a scan runs and
RSS is told, once the relays have begun to switch; with nobody waiting for it (`Unclaimed`) nothing more happens. Then its
refusals in their order, each answered with nothing else done. -/
def Obligations.TerminateSwitchesTheBus : Prop :=
  (∀ (d : DeskId) (tag : Byte) (b : BusId) (t : Termination) (old new : Option MuId) (s : State), s.Hears (.desk d) →
     (s.bus b).holder = some (.desk d) → (s.bus b).state = .held → (s.bus b).releasePending = none →
     (s.bus b).boundMu = old → (∀ u, old = some u → (s.mu u).state = .attached) →
     let freed := s.updUnit old (freedUnit s.now s.config.standby)
     ((t = .none ∧ new = none)
       ∨ (t = .talk ∧ new = none ∧ (∀ l, (s.bus b).line = some l → (s.line l).quarantined = false)
         ∧ ∀ x, x ≠ b → (s.bus x).holder = some (.desk d) → (s.bus x).talkPair = false)
       ∨ (t = .mu ∧ ∃ u, new = some u ∧ freed.ChosenUnit u)) →
       let switched := (((s.answered (.desk d) tag .terminate .accepted .none).updUnit old
         (freedUnit s.now s.config.standby)).updUnit new (boundUnit s.now b)).updBus b
           (switchingRecord (s.now + 10 * s.config.switch) tag t new)
       (old = none ∨ s.Unclaimed → exec (.terminate (.desk d) tag b.val (termCode t)) s = .next switched)
       ∧ (old ≠ none → ∀ w e, switched.ScansAndTells w → w.EventEnds e →
         exec (.terminate (.desk d) tag b.val (termCode t)) s = .next e))
  ∧ (∀ (d : DeskId) (tag : Byte) (n code : Nat) (s : State), s.Hears (.desk d) →
       let refused := fun (code : Nat) (r : ReplyCode) =>
         exec (.terminate (.desk d) tag n code) s = .next (s.answered (.desk d) tag .terminate r .none)
       (3 < n → refused code .noSuchBus)
       ∧ (∀ b : BusId, b.val = n →
         (2 < code → refused code .badParameter)
         ∧ (code ≤ 2 →
           ((s.bus b).holder ≠ some (.desk d) → refused code .notHolder)
           ∧ ((s.bus b).holder = some (.desk d) →
             ((s.bus b).state ≠ .held ∨ (s.bus b).releasePending ≠ none → refused code .badState)
             ∧ ((∃ u, (s.bus b).boundMu = some u ∧ (s.mu u).state ≠ .attached) → refused code .badState)
             ∧ ((s.bus b).state = .held → (s.bus b).releasePending = none →
               (∀ u, (s.bus b).boundMu = some u → (s.mu u).state = .attached) →
               ((∃ l, (s.bus b).line = some l ∧ (s.line l).quarantined = true) → refused 2 .quarantined)
               ∧ ((∀ l, (s.bus b).line = some l → (s.line l).quarantined = false) →
                 (∃ x, x ≠ b ∧ (s.bus x).holder = some (.desk d) ∧ (s.bus x).talkPair = true) → refused 2 .badState)
               ∧ ((s.bus b).boundMu = none → (∀ u, (s.mu u).state ≠ .ready ∧ (s.mu u).state ≠ .standby) →
                 refused 1 .noMu))))))

/-- RELEASE (R42, R37, R38, R40, R63): the order's tag becomes the release tag and a release decision with cause HOLDER is
taken. In OPERATING or SWITCHING the cause is pending; HELD without a unit, or with one ATTACHED or WARMING, the bus goes to
RELEASING; with its unit DISCHARGING, to DRAINING; with its unit MEASURING the programme ends ABORTED, its outcome applied
when ticketing is on, and the bus goes to DRAINING when the source was applied, to RELEASING when it was not; a unit unbound
brings a scan and a notice to RSS. Refused for a bus not held, or whose release is decided. That the write service chooses
at the end of the event is the model's choice, log 8. -/
def Obligations.ReleaseTakesTheDecision : Prop :=
  ∀ (d : DeskId) (tag : Byte) (n : Nat) (s : State), s.Hears (.desk d) →
    (∀ code, s.HolderRefused d n code →
      exec (.release (.desk d) tag n) s = .next (s.answered (.desk d) tag .release code .none))
    ∧ (∀ b : BusId, b.val = n → (s.bus b).holder = some (.desk d) →
      let tagged := (s.answered (.desk d) tag .release .accepted .none).updBus b fun r => { r with releaseTag := some tag }
      ((s.bus b).releasePending ≠ none ∨ (s.bus b).state = .draining ∨ (s.bus b).state = .releasing →
        exec (.release (.desk d) tag n) s = .next (s.answered (.desk d) tag .release .badState .none))
      ∧ ((s.bus b).releasePending = none →
        ((s.bus b).state = .operating ∨ (s.bus b).state = .switching →
          exec (.release (.desk d) tag n) s = .next (tagged.updBus b (pendingRecord .holder)))
        ∧ ((s.bus b).state = .held →
          (s.GivesBack b → exec (.release (.desk d) tag n) s = .next (tagged.givenBack b .holder))
          ∧ (∀ t e, tagged.Releases b .holder t → t.EventEnds e → exec (.release (.desk d) tag n) s = .next e)
          ∧ (∀ u, (s.bus b).boundMu = some u →
            ((s.mu u).state = .discharging →
              exec (.release (.desk d) tag n) s = .next (tagged.updBus b (drainingRecord .holder)))
            ∧ (∀ c, (s.mu u).state = .measuring → (s.mu u).context = some c → c.ticket = false →
              c.holder = .desk d → c.sourceApplied = true → exec (.release (.desk d) tag n) s
                = .next ((tagged.ended u c .aborted).updBus b (drainingRecord .holder)))))))

/-- RUN (R83, R73, R74): the programme starts on the ATTACHED unit with its snapshots, with ticketing on unless the flag is
0; the refusals in their order. -/
def Obligations.RunStartsTheProgramme : Prop :=
  ∀ (d : DeskId) (tag : Byte) (n k : Nat) (flag : Option Nat) (s : State), s.Hears (.desk d) →
    let refused := fun (r : ReplyCode) =>
      exec (.run (.desk d) tag n k flag) s = .next (s.answered (.desk d) tag .run r .none)
    (3 < n → refused .noSuchBus)
    ∧ (n ≤ 3 → 15 < k → refused .badParameter)
    ∧ (k ≤ 15 → ∀ code, s.HolderRefused d n code → refused code)
    ∧ (∀ (b : BusId) (p : ProgId), b.val = n → p.val = k → (s.bus b).holder = some (.desk d) →
      ((s.bus b).state ≠ .held ∨ (s.bus b).releasePending ≠ none ∨ (s.bus b).termination ≠ .mu → refused .badState)
      ∧ (∀ (u : MuId) (l : LineId), (s.bus b).state = .held → (s.bus b).releasePending = none →
        (s.bus b).termination = .mu → (s.bus b).boundMu = some u → (s.bus b).line = some l →
        ((s.mu u).state ≠ .attached → refused .badState)
        ∧ ((s.mu u).state = .attached →
          ((s.library.get p).count = 0 → refused .noProgramme)
          ∧ ((s.library.get p).count ≠ 0 → exec (.run (.desk d) tag n k flag) s
            = .next ((s.answered (.desk d) tag .run .accepted .none).started b u
                (startContext s b l p (.desk d) (.order tag) (flag != some 0)))))))

/-- ABORT (R84, R85, R87, R118): the programme on the desk's bus ends with cause ABORTED, the bus keeping its state; with
ticketing on its outcome is applied, the classes in order, the quarantine and ALM evaluated. A bus whose unit is not
MEASURING is refused BAD_STATE. That the write service chooses at the end of the event is the model's choice, log 8. -/
def Obligations.AbortEndsTheProgramme : Prop :=
  ∀ (d : DeskId) (tag : Byte) (n : Nat) (s : State), s.Hears (.desk d) →
    (∀ code, s.HolderRefused d n code →
      exec (.abort (.desk d) tag n) s = .next (s.answered (.desk d) tag .abort code .none))
    ∧ (∀ b : BusId, b.val = n → (s.bus b).holder = some (.desk d) →
      ((∀ u, (s.bus b).boundMu = some u → (s.mu u).state ≠ .measuring) →
        exec (.abort (.desk d) tag n) s = .next (s.answered (.desk d) tag .abort .badState .none))
      ∧ (∀ u c, (s.bus b).boundMu = some u → (s.mu u).state = .measuring → (s.mu u).context = some c →
        c.holder = .desk d →
        (c.ticket = false → exec (.abort (.desk d) tag n) s
          = .next ((s.answered (.desk d) tag .abort .accepted .none).ended u c .aborted))
        ∧ (∀ t e, (s.answered (.desk d) tag .abort .accepted .none).ProgrammeEnds u c .aborted t → t.EventEnds e →
          exec (.abort (.desk d) tag n) s = .next e)))

/-- KEEP (R62): TOO_LATE when an answer is owed, BAD_STATE when no intrusion is PENDING, PROTECTED for a line of a protected
class; otherwise the intrusion becomes KEPT and the exchange gets DENIED with the INTRUDE's tag. -/
def Obligations.KeepDeniesTheIntrusion : Prop :=
  ∀ (d : DeskId) (tag : Byte) (n : Nat) (s : State), s.Hears (.desk d) →
    let refused := fun (r : ReplyCode) => exec (.keep (.desk d) tag n) s = .next (s.answered (.desk d) tag .keep r .none)
    (∀ code, s.HolderRefused d n code → refused code)
    ∧ (∀ b : BusId, b.val = n → (s.bus b).holder = some (.desk d) →
      ((s.bus b).owed ≠ none → refused .tooLate)
      ∧ ((s.bus b).owed = none →
        ((s.bus b).intrusion = .none ∨ (s.bus b).intrusion = .kept → refused .badState)
        ∧ (∀ due l, (s.bus b).intrusion = .pending due → (s.bus b).line = some l →
          ((s.classes.get (s.line l).cls).isProtected = true → refused .isProtected)
          ∧ (∀ t, (s.classes.get (s.line l).cls).isProtected = false → (s.bus b).intrudeTag = some t → s.Room .x 1 →
            exec (.keep (.desk d) tag n) s
              = .next (((s.answered (.desk d) tag .keep .accepted .none).updBus b fun r =>
                  { r with intrusion := .kept, intrudeTag := none }).enqueue .x (some t) (.intrudeAnswer .denied))))))

/-! ## Relay completions and the intrusion grace -/

/-- OPERATE_COMPLETION (R26): at the due time BUS_GRANTED goes to the holder's port with the holder tag, release pending or
not; then the bus is HELD, its grant programme starting when its unit is ATTACHED, or with a release pending it is taken
through the release decision on a held bus, a unit unbound bringing a scan and a notice to RSS. SWITCH_COMPLETION (R36):
TERMINATION_DONE with the terminate tag to the holder desk, the tag absent; a talk pair left behind no longer held, and a scan
then; then HELD, or the release decision with the pending cause. A bus in another state is left alone: the model's choice,
log 1. -/
def Obligations.RelayCompletionsHoldTheBus : Prop :=
  (∀ (b : BusId) (s : State), s.Settled →
     ((s.bus b).state ≠ .operating → exec (.operateCompletion b) s = .next s)
     ∧ ∀ (l : LineId) (due : Nat) (src : Source) (tag : HolderTag), (s.bus b).state = .operating →
       (s.bus b).relayDue = some due → (s.bus b).line = some l → (s.bus b).holder = some src →
       (s.bus b).holderTag = some tag → s.HolderRoom src →
       let at_ : State := { s with now := max s.now due }
       let told := (at_.updBus b fun r => { r with relayDue := none }).tellHolder src tag.order? fun p =>
         .busGranted b (s.lineFor p l) (s.bus b).termination (s.bus b).boundMu
       let held := told.updBus b fun r => { r with state := .held }
       ((s.bus b).releasePending = none →
         (((s.bus b).grantProgramme = none ∨ ∀ u, (s.bus b).boundMu = some u → (s.mu u).state ≠ .attached) →
           exec (.operateCompletion b) s = .next held)
         ∧ (∀ u p, (s.bus b).boundMu = some u → (s.mu u).state = .attached → (s.bus b).grantProgramme = some p →
           exec (.operateCompletion b) s = .next (held.started b u (startContext at_ b l p src tag true))))
       ∧ (∀ c, (s.bus b).releasePending = some c →
         (s.GivesBack b → exec (.operateCompletion b) s = .next (told.givenBack b c))
         ∧ ∀ u t e, (s.bus b).boundMu = some u → (s.mu u).state = .attached ∨ (s.mu u).state = .warming →
           (told.givenBack b c).ScansAndTells t → t.EventEnds e → exec (.operateCompletion b) s = .next e))
  ∧ (∀ (b : BusId) (s : State), s.Settled →
       ((s.bus b).state ≠ .switching → exec (.switchCompletion b) s = .next s)
       ∧ ∀ (l : LineId) (due : Nat) (d : DeskId), (s.bus b).state = .switching → (s.bus b).relayDue = some due →
         (s.bus b).line = some l → (s.bus b).holder = some (.desk d) → s.Room (.desk d) 1 →
         let leaves := (s.bus b).talkPair = true ∧ (s.bus b).termination ≠ .talk
         let told := ({ s with now := max s.now due }.updBus b fun r =>
           { r with
             relayDue := none, terminateTag := none
             talkPair := r.talkPair && r.termination == Termination.talk }).enqueue (.desk d) (s.bus b).terminateTag
               (.terminationDone b (s.lineFor (.desk d) l) (s.bus b).termination (s.bus b).boundMu)
         ((leaves → s.waitQueue = []) →
           ((s.bus b).releasePending = none →
             exec (.switchCompletion b) s = .next (told.updBus b fun r => { r with state := .held }))
           ∧ (∀ c, (s.bus b).releasePending = some c → s.GivesBack b →
             exec (.switchCompletion b) s = .next (told.givenBack b c)))
         ∧ ∀ w, (leaves ∧ told.Scans w) ∨ (¬ leaves ∧ w = told) →
           (∀ e, (s.bus b).releasePending = none → (w.updBus b fun r => { r with state := .held }).EventEnds e →
             exec (.switchCompletion b) s = .next e)
           ∧ (∀ c e, (s.bus b).releasePending = some c → (s.bus b).boundMu = none → (w.givenBack b c).EventEnds e →
             exec (.switchCompletion b) s = .next e)
           ∧ (∀ c u t e, (s.bus b).releasePending = some c → (s.bus b).boundMu = some u →
             (s.mu u).state = .attached ∨ (s.mu u).state = .warming → (w.givenBack b c).ScansAndTells t → t.EventEnds e →
             exec (.switchCompletion b) s = .next e))

/-- RELEASE_COMPLETION (R41, R66, R5): the line off its bus and no longer blocked, UNBLOCK to X, then the answer owed with its
tag, then BUS_RELEASED to the holder with the release tag or else the holder tag, and the bus FREE with nothing left of the
hold; for RS its record goes instead, and with the closing flag set and no other RS test running the pass ends (R157, R156).
Then a scan runs, RSS is told, and the event ends, in a restart too (R31, R154, R45); with no request waiting and the sweep
disabled nothing more happens. A bus in another state is left alone, and the time comes to the due time where it had not: the
model's choice, log 1. -/
def Obligations.ReleaseCompletionFreesTheBus : Prop :=
  ∀ (b : BusId) (s : State), s.Settled →
    ((s.bus b).state ≠ .releasing → exec (.releaseCompletion b) s = .next s)
    ∧ ∀ (l : LineId) (due : Nat) (src : Source) (tag : HolderTag), (s.bus b).state = .releasing →
      (s.bus b).relayDue = some due → (s.bus b).line = some l → (s.bus b).holder = some src →
      (s.bus b).holderTag = some tag → s.Room .x 2 → s.HolderRoom src →
      let unblocked := ({ s with now := max s.now due }.updLine l fun r =>
        { r with onBus := none, blocked := false }).enqueue .x none (.unblock l b)
      let answered := match (s.bus b).owed with
        | none => unblocked
        | some .granted => unblocked.enqueue .x (s.bus b).intrudeTag (.intrudeAnswer .granted)
        | some .withdrawn => unblocked.enqueue .x (s.bus b).intrudeTag (.intrudeAnswer .withdrawn)
      let told := answered.tellHolder src ((s.bus b).releaseTag.or tag.order?) fun p =>
        .busReleased (s.bus b).releasePending b (s.lineFor p l)
      let left := s.rsTests.filter fun t => t.bus != b
      let gone : State := { answered with rsTests := left }
      let closed := if s.sweep.closing = true ∧ left = [] then gone.passEnded else gone
      (s.store.phase = .running → s.Unclaimed →
        (src ≠ .rs → exec (.releaseCompletion b) s = .next (told.updBus b fun _ => {}))
        ∧ (src = .rs → s.sweep.closing = false → exec (.releaseCompletion b) s = .next (gone.updBus b fun _ => {})))
      ∧ ∀ t e, t.EventEnds e →
        (src ≠ .rs → (told.updBus b fun _ => {}).ScansAndTells t → exec (.releaseCompletion b) s = .next e)
        ∧ (src = .rs → (closed.updBus b fun _ => {}).ScansAndTells t → exec (.releaseCompletion b) s = .next e)

/-- GRACE_EXPIRY (R64, R63): a release decision with cause INTRUDED, the intrusion NONE and GRANTED owed: pending while the
relays move, RELEASING for a HELD bus with no unit or one ATTACHED or WARMING, a running programme ended first. A bus with
no PENDING intrusion is left alone: the model's choice, log 1. That the write service chooses at the end of the event is the
model's choice, log 8. -/
def Obligations.GraceExpiryReleasesTheBus : Prop :=
  ∀ (b : BusId) (s : State), s.Settled →
    ((∀ due, (s.bus b).intrusion ≠ .pending due) → exec (.graceExpiry b) s = .next s)
    ∧ ∀ due, (s.bus b).intrusion = .pending due →
      let at_ : State := { s with now := max s.now due }
      ((s.bus b).releasePending = none →
        ((s.bus b).state = .operating ∨ (s.bus b).state = .switching →
          exec (.graceExpiry b) s = .next (at_.updBus b (pendingRecord .intruded)))
        ∧ ((s.bus b).state = .held → s.GivesBack b → exec (.graceExpiry b) s = .next (at_.givenBack b .intruded)))
      ∧ ∀ t e, at_.Releases b .intruded t → t.EventEnds e → exec (.graceExpiry b) s = .next e

/-! ## The exchange link -/

/-- LINE_STATE (R53, R2, R3): the call state is written; a change to BUSY or RINGING takes a release decision LINE_BUSY on a
bus held by MC or RS and none on a desk's; a change to IDLE runs one scan (R31), which grants nothing when no request waits.
Any order from X restarts the supervision timer (R48). That the write service chooses at the end of the event is the model's
choice, log 8. -/
def Obligations.LineStateWritesTheCallState : Prop :=
  ∀ (tag : Byte) (n code : Nat) (s : State), s.HearsX →
    let heard := { s with supTimer := some (s.now + 10000 * s.config.interval) }
    (2047 < n ∨ 2 < code → exec (.lineState .x tag n code) s
      = .next (heard.answered .x tag .lineState .badParameter .none))
    ∧ ∀ (l : LineId) (st : CallState), l.val = n →
      (code = 0 ∧ st = .idle ∨ code = 1 ∧ st = .busy ∨ code = 2 ∧ st = .ringing) →
      let written := (heard.answered .x tag .lineState .accepted .none).updLine l fun r => { r with callState := st }
      let gives := fun t => exec (.lineState .x tag n code) s = .next t
      ((s.line l).callState = st → gives written)
      ∧ (st = .idle → s.waitQueue = [] → gives written)
      ∧ (st = .idle → (s.line l).callState ≠ .idle → ∀ t e, written.Scans t → t.EventEnds e → gives e)
      ∧ (st = .busy ∨ st = .ringing →
        ((s.line l).onBus = none → gives written)
        ∧ (∀ b, (s.line l).onBus = some b → (s.line l).callState ≠ st →
          (∀ d, (s.bus b).holder = some (.desk d) → gives written)
          ∧ ((s.bus b).holder = some .mc ∨ (s.bus b).holder = some .rs →
            (∀ t e, written.Releases b .lineBusy t → t.EventEnds e → gives e)
            ∧ ((s.bus b).state = .draining ∨ (s.bus b).state = .releasing → gives written)
            ∧ ((s.bus b).state = .operating ∨ (s.bus b).state = .switching →
              ((s.bus b).releasePending ≠ none → gives written)
              ∧ ((s.bus b).releasePending = none → gives (written.updBus b (pendingRecord .lineBusy))))
            ∧ ((s.bus b).state = .held → s.GivesBack b → gives (written.givenBack b .lineBusy)))))

/-- LINE_STATE_IDLE_RANGE (R54): the UNKNOWN lines of the range become IDLE and no other line changes; one scan runs when any
line changed (R31), which grants nothing when no request waits; a range out of bounds or out of order is BAD_PARAMETER. -/
def Obligations.IdleRangeTouchesUnknownLinesOnly : Prop :=
  ∀ (tag : Byte) (first last : Nat) (s : State), s.HearsX →
    let heard := { s with supTimer := some (s.now + 10000 * s.config.interval) }
    (2047 < last ∨ last < first → exec (.lineStateIdleRange .x tag first last) s
      = .next (heard.answered .x tag .lineStateIdleRange .badParameter .none))
    ∧ (last ≤ 2047 → first ≤ last →
      ∃ ls : Tab LineRec 2048,
        (∀ l : LineId, ls.get l = if first ≤ l.val ∧ l.val ≤ last ∧ (s.line l).callState = .unknown
          then { s.line l with callState := .idle } else s.line l)
        ∧ let written := { heard.answered .x tag .lineStateIdleRange .accepted .none with lines := ls }
          (s.waitQueue = [] ∨ (∀ l : LineId, first ≤ l.val → l.val ≤ last → (s.line l).callState ≠ .unknown) →
            exec (.lineStateIdleRange .x tag first last) s = .next written)
          ∧ ∀ (l : LineId) (t e : State), first ≤ l.val → l.val ≤ last → (s.line l).callState = .unknown →
            written.Scans t → t.EventEnds e → exec (.lineStateIdleRange .x tag first last) s = .next e)

/-- INTRUDE (R59 to R61), by the first case that fits: a free line is granted at once; a released bus comes to owe GRANTED;
an automated holder is released with cause INTRUDED, a running programme ended first; a desk's intrusion becomes PENDING for
the grace, with INTRUSION to the desk; a PENDING one is BAD_STATE; a KEPT one is denied. The desk's queue has room for the
notice. That the write service chooses at the end of the event is the model's choice, log 8. -/
def Obligations.IntrudeTakesTheFirstCase : Prop :=
  ∀ (tag : Byte) (n : Nat) (s : State), s.HearsX →
    let heard := { s with supTimer := some (s.now + 10000 * s.config.interval) }
    let refused := fun code => exec (.intrude .x tag n) s = .next (heard.answered .x tag .intrude code .none)
    let gives := fun t => exec (.intrude .x tag n) s = .next t
    let ok := heard.answered .x tag .intrude .accepted .none
    (2047 < n → refused .badParameter)
    ∧ ∀ l : LineId, l.val = n →
      ((s.line l).onBus = none → gives (ok.enqueue .x (some tag) (.intrudeAnswer .granted)))
      ∧ ∀ b, (s.line l).onBus = some b →
        let owing := fun t : State => t.updBus b fun r => { r with owed := some .granted, intrudeTag := some tag }
        ((s.bus b).releasePending ≠ none ∨ (s.bus b).state = .draining ∨ (s.bus b).state = .releasing →
          ((s.bus b).owed = none → gives (owing ok))
          ∧ ((s.bus b).owed = some .granted → refused .badState)
          ∧ ((s.bus b).owed = some .withdrawn →
            gives (owing (ok.enqueue .x (s.bus b).intrudeTag (.intrudeAnswer .withdrawn)))))
        ∧ ((s.bus b).releasePending = none →
          ((s.bus b).holder = some .mc ∨ (s.bus b).holder = some .rs →
            ((s.bus b).intrusion = .none →
              ((s.bus b).state = .operating ∨ (s.bus b).state = .switching →
                gives ((owing ok).updBus b fun r => { r with releasePending := some .intruded }))
              ∧ ((s.bus b).state = .held → s.GivesBack b → gives ((owing ok).givenBack b .intruded)))
            ∧ ((s.bus b).state ≠ .draining → (s.bus b).state ≠ .releasing →
              ∀ t e, (owing ok).Releases b .intruded t → t.EventEnds e → gives e))
          ∧ (∀ d, (s.bus b).holder = some (.desk d) → (s.bus b).state ≠ .draining → (s.bus b).state ≠ .releasing →
            s.Room (.desk d) 8 →
            ((s.bus b).intrusion = .none → gives ((ok.updBus b fun r =>
              { r with intrusion := .pending (s.now + 10000 * s.config.grace), intrudeTag := some tag }).enqueue (.desk d)
                none (.intrusion b (s.lineFor (.desk d) l) s.config.grace (s.classes.get (s.line l).cls).isProtected)))
            ∧ (∀ due, (s.bus b).intrusion = .pending due → refused .badState)
            ∧ ((s.bus b).intrusion = .kept → gives ((ok.enqueue .x (some tag) (.intrudeAnswer .denied)).enqueue (.desk d)
                none (.intrusionDenied b (s.lineFor (.desk d) l))))))

/-- INTRUDE_CANCEL (R65): a PENDING intrusion is withdrawn, with WITHDRAWN to X and the desk told; a GRANTED answer owed
becomes WITHDRAWN; anything else is BAD_STATE. The desk's queue has room for the notice. -/
def Obligations.IntrudeCancelWithdraws : Prop :=
  ∀ (tag : Byte) (n : Nat) (s : State), s.HearsX →
    let heard := { s with supTimer := some (s.now + 10000 * s.config.interval) }
    let refused := fun code => exec (.intrudeCancel .x tag n) s
      = .next (heard.answered .x tag .intrudeCancel code .none)
    let ok := heard.answered .x tag .intrudeCancel .accepted .none
    (2047 < n → refused .badParameter)
    ∧ ∀ l : LineId, l.val = n →
      ((s.line l).onBus = none → refused .badState)
      ∧ ∀ b, (s.line l).onBus = some b →
        (∀ due d, (s.bus b).intrusion = .pending due → (s.bus b).holder = some (.desk d) → s.Room (.desk d) 8 →
          exec (.intrudeCancel .x tag n) s
            = .next (((ok.updBus b fun r => { r with intrusion := .none, intrudeTag := none }).enqueue .x
                (s.bus b).intrudeTag (.intrudeAnswer .withdrawn)).enqueue (.desk d) none
                  (.intrusionWithdrawn b (s.lineFor (.desk d) l))))
        ∧ ((∀ due, (s.bus b).intrusion ≠ .pending due) →
          ((s.bus b).owed = some .granted → exec (.intrudeCancel .x tag n) s
            = .next (ok.updBus b fun r => { r with owed := some .withdrawn }))
          ∧ ((s.bus b).owed ≠ some .granted → refused .badState))

/-- SUPERVISE (R49, R47, R48, R52): while SUPERVISED it restarts the timer; while UNSUPERVISED it restores supervision: the
timer started, the resync to X (RESYNC_BEGIN, a BLOCK for every blocked line in ascending order with its bus, RESYNC_END),
SUPERVISION_RESTORED to the desks and M, a scan (R31), the sweep state derived (R153), and then its REPLY. So for every order
of X: while UNSUPERVISED it restores supervision first and is then handled as one that finds X SUPERVISED (R47). -/
def Obligations.SuperviseRestoresSupervision : Prop :=
  (∀ (tag : Byte) (s : State), s.Hears .x →
    let heard := { s with supervised := true, supTimer := some (s.now + 10000 * s.config.interval) }
    (s.supervised = true → exec (.supervise .x tag) s = .next (heard.answered .x tag .supervise .accepted .none))
    ∧ (s.supervised = false →
      (s.Unclaimed → ∀ blocked : List (LineId × Option BusId),
        blocked.Pairwise (fun x y => x.1 < y.1) →
        (∀ l o, (l, o) ∈ blocked ↔ (s.line l).blocked = true ∧ (s.line l).onBus = o) →
        s.Room .x (blocked.length + 3) → (∀ p, p ≠ .x → s.Room p 8) →
        let resync := [ReportBody.resyncBegin] ++ blocked.map (fun x => .block x.1 x.2) ++ [.resyncEnd]
        let told := State.noticeAll (resync.foldl (fun t r => t.enqueue .x none r) heard) .supervisionRestored
        exec (.supervise .x tag) s
          = .next ({ told with sweep := sweepSeenOff s.sweep }.answered .x tag .supervise .accepted .none))
      ∧ ∀ t e, s.Restores t → 1 ≤ t.freeEntries .x → (t.answered .x tag .supervise .accepted .none).EventEnds e →
        exec (.supervise .x tag) s = .next e))
  ∧ ∀ (i : Instr) (tag : Byte) (k : OrderKind) (s t : State), i.orderHead = some (.x, tag, k) → s.Hears .x →
    s.supervised = false → s.Restores t → 2 ≤ t.freeEntries .x → exec i s = exec i t

/-- SUPERVISION_TIMER_EXPIRY (R48, R51, R153): UNSUPERVISED with the timer stopped, BUSY and RINGING lines UNKNOWN, a
release decision UNSUPERVISED on every bus held by MC or RS, SUPERVISION_LOST TIMEOUT to the desks and M, the sweep state
derived; said apart where no automated holder has a bus and the sweep is disabled. A stopped timer, no effect: the model's
choice, log 1. That the buses come lowest first is read by inference, log 10. That the write service chooses at the end of
the event is the model's choice, log 8. -/
def Obligations.SupervisionTimerExpiryLapses : Prop :=
  ∀ s : State, s.Settled →
    (s.supTimer = none → exec .supervisionTimerExpiry s = .next s)
    ∧ ∀ due, s.supTimer = some due →
      (s.sweep.enabled = false →
        (∀ b, (s.bus b).holder ≠ some .mc ∧ (s.bus b).holder ≠ some .rs) → (∀ p, p ≠ .x → s.Room p 8) →
        ∃ ls : Tab LineRec 2048, exec .supervisionTimerExpiry s
            = .next (State.noticeAll
                { s with
                  now := max s.now due, supervised := false, supTimer := none, lines := ls
                  sweep := sweepSeenOff s.sweep } (.supervisionLost .timeout))
          ∧ ∀ l : LineId, ls.get l = if (s.line l).callState = .busy ∨ (s.line l).callState = .ringing
            then { s.line l with callState := .unknown } else s.line l)
      ∧ ∀ t e, State.Lapses { s with now := max s.now due } .timeout t → t.EventEnds e →
        exec .supervisionTimerExpiry s = .next e

/-! ## Orders on tickets, and the table's changes -/

/-- TICKET_HAND and TICKET_PURGE (R138, R140, R146, R127): an OPEN ticket becomes HANDED to the assignee, its slot is
written again and ALM evaluated; a CLEARED ticket's slot is emptied; a ticket in another state is BAD_STATE, a number no
ticket holds NO_SUCH_TICKET. TICKET_NOTE (R144, R143): an OPEN or HANDED ticket of a line in the desk's window takes the
note and nothing else of it changes; M is told NOTED; a CLEARED one is BAD_STATE, one outside the window or a number no
ticket holds NO_SUCH_TICKET. That the write service chooses at the end of the event, when no page is in flight, is the
model's choice, log 8. -/
def Obligations.TicketHandPurgeAndNoteChangeTheSlot : Prop :=
  (∀ (tag : Byte) (n a : Nat) (s : State), s.Hears .m →
     ((∀ j u, s.slot j = some u → u.number ≠ n) →
       exec (.ticketHand .m tag n a) s = .next (s.answered .m tag .ticketHand .noSuchTicket .none)
       ∧ exec (.ticketPurge .m tag n) s = .next (s.answered .m tag .ticketPurge .noSuchTicket .none))
     ∧ ∀ (k : SlotId) (t : Ticket), s.NumberAt n k t →
       (t.state ≠ .opened →
         exec (.ticketHand .m tag n a) s = .next (s.answered .m tag .ticketHand .badState .none))
       ∧ (t.state ≠ .cleared →
         exec (.ticketPurge .m tag n) s = .next (s.answered .m tag .ticketPurge .badState .none))
       ∧ (t.state = .cleared →
         exec (.ticketPurge .m tag n) s
           = .next ((s.answered .m tag .ticketPurge .accepted .none).slotChanged k none))
       ∧ (∀ alarm, t.state = .opened → s.AlarmWithout k alarm →
         let handed := { t with state := .handed, assignee := some a }
         exec (.ticketHand .m tag n a) s
           = .next { (s.answered .m tag .ticketHand .accepted
               (.ticket (some ⟨handed, ⟨t.line.val, false⟩⟩))).slotChanged k (some handed) with alm := alarm }))
  ∧ (∀ (d : DeskId) (tag : Byte) (n note : Nat) (s : State), s.Hears (.desk d) →
     ((∀ j u, s.slot j = some u → u.number ≠ n) →
       exec (.ticketNote (.desk d) tag n note) s = .next (s.answered (.desk d) tag .ticketNote .noSuchTicket .none))
     ∧ ∀ (k : SlotId) (t : Ticket), s.NumberAt n k t →
       let noted := { t with note := some note }
       ((s.inWindow d t.line = false ∨ t.state = .cleared) → exec (.ticketNote (.desk d) tag n note) s
         = .next (s.answered (.desk d) tag .ticketNote (if s.inWindow d t.line then .badState else .noSuchTicket) .none))
       ∧ (s.Room .m 8 → s.inWindow d t.line = true → t.state ≠ .cleared → exec (.ticketNote (.desk d) tag n note) s
         = .next (((s.answered (.desk d) tag .ticketNote .accepted (.ticket (some ⟨noted,
             ⟨t.line.val - (s.config.windows.get d).base, false⟩⟩))).enqueue .m none
               (.ticketEvent (.noted noted d))).slotChanged k (some noted))))

/-- TICKET_CLEAR (R139, R143, R146, R120, R122): a number no ticket holds, and from a desk a ticket of a line outside its
window, is NO_SUCH_TICKET; a CLEARED one is BAD_STATE. An OPEN or HANDED ticket becomes CLEARED by MC or by the desk whose
window holds its line, stamped now, everything else kept; the desk's clearing is told to M; for class HAZARD the line's
quarantine is evaluated, a scan and a notice to RSS following where it is lifted; then ALM is evaluated. That is said first
where no request waits and the sweep is disabled, then generally. That the write service chooses at the end of the event is
the model's choice, log 8. -/
def Obligations.TicketClearEndsTheTicket : Prop :=
  (∀ (tag : Byte) (n : Nat) (s : State), (∀ j u, s.slot j = some u → u.number ≠ n) →
    (s.Hears .m → exec (.ticketClear .m tag n) s = .next (s.answered .m tag .ticketClear .noSuchTicket .none))
    ∧ ∀ d, s.Hears (.desk d) →
      exec (.ticketClear (.desk d) tag n) s = .next (s.answered (.desk d) tag .ticketClear .noSuchTicket .none))
  ∧ (∀ (tag : Byte) (n : Nat) (k : SlotId) (t : Ticket) (s : State), s.NumberAt n k t →
    (s.Hears .m → t.state = .cleared →
      exec (.ticketClear .m tag n) s = .next (s.answered .m tag .ticketClear .badState .none))
    ∧ ∀ d, s.Hears (.desk d) →
      (s.inWindow d t.line = false →
        exec (.ticketClear (.desk d) tag n) s = .next (s.answered (.desk d) tag .ticketClear .noSuchTicket .none))
      ∧ (s.inWindow d t.line = true → t.state = .cleared →
        exec (.ticketClear (.desk d) tag n) s = .next (s.answered (.desk d) tag .ticketClear .badState .none)))
  ∧ ∀ (tag : Byte) (n : Nat) (k : SlotId) (t : Ticket) (s : State), s.NumberAt n k t → t.state ≠ .cleared →
    let cleared := fun (c : Clearer) =>
      { t with state := .cleared, clearedBy := some c, clearedAt := some ⟨s.clock.day, s.clock.second, s.clock.valid⟩ }
    let byMc := s.answered .m tag .ticketClear .accepted (.ticket (some ⟨cleared .mc, ⟨t.line.val, false⟩⟩))
    let byDesk := fun d => (s.answered (.desk d) tag .ticketClear .accepted (.ticket (some ⟨cleared (.desk d),
      ⟨t.line.val - (s.config.windows.get d).base, false⟩⟩))).enqueue .m none (.ticketEvent (.cleared (cleared (.desk d))))
    (∀ alarm : Bool, s.AlarmWithout k alarm → (t.cls = .hazard → s.Unclaimed ∧ (s.line t.line).quarantined = true) →
      let stays : Bool := (s.line t.line).pendingMask.get 0
      let freed := fun (x : State) => if t.cls = .hazard then
        x.updLine t.line fun r => { r with quarantined := stays } else x
      (t.cls = .hazard → ∀ j u, j ≠ k → s.slot j = some u →
        ¬ (u.line = t.line ∧ u.cls = .hazard ∧ u.state ≠ .cleared)) →
      (s.Hears .m → exec (.ticketClear .m tag n) s
        = .next { freed (byMc.slotChanged k (some (cleared .mc))) with alm := alarm })
      ∧ ∀ d, s.Hears (.desk d) → s.Room .m 8 → s.inWindow d t.line = true → exec (.ticketClear (.desk d) tag n) s
        = .next { freed ((byDesk d).slotChanged k (some (cleared (.desk d)))) with alm := alarm })
    ∧ (∀ (w e : State) (a : Bool), (a = true ↔ w.Alarmed) → { w with alm := a }.EventEnds e →
      (s.Hears .m → (byMc.slotDirty k (some (cleared .mc))).AfterClass t.cls t.line w →
        exec (.ticketClear .m tag n) s = .next e)
      ∧ ∀ d, s.Hears (.desk d) → s.Room .m 8 → s.inWindow d t.line = true →
        ((byDesk d).slotDirty k (some (cleared (.desk d)))).AfterClass t.cls t.line w →
        exec (.ticketClear (.desk d) tag n) s = .next e)

/-- A failed class (R129 to R135, R128): merged into the non-cleared ticket of its class; else a new OPEN ticket in the
lowest empty slot under the first number from the counter that no ticket holds; else, with the table full, in the slot of
the oldest CLEARED ticket, M told PURGED (R132); else, for a CRITICAL failure, in the slot of the oldest OPEN MINOR ticket,
M told EVICTED, its class marked pending on its line and the line offered (R133); else a pending mark and TICKET_OVERFLOW. A
passed class (R136): the pass count of its ticket rises, saturating at 7; reaching the clear passes, unless these are 0, the
ticket becomes CLEARED by AUTO with the programme's stamp and M is told; the class's pending mark goes. The queue of M has
room for the notices. The search for a number ends after 257, since no table holds more tickets, log 31. The last value
is taken with its pair (R113). -/
def Obligations.FailedAndPassedClassesChangeTheTable : Prop :=
  (∀ (l : LineId) (c : FaultClass) (f : Failure) (src : Source) (stamp : Stamp) (s : State), s.Room .m 8 →
     (∀ k t, s.TicketAt l c k t →
       let merged := { t with
         repeats := if t.repeats < 255 then t.repeats + 1 else 255, lastSeen := stamp, value := f.value
         pair := f.pair, distance := if c = .openLine then f.distance else t.distance
         severity := if t.severity.rank < f.severity.rank then f.severity else t.severity, passes := 0 }
       s.applyFailure l c f src stamp = (s.slotDirty k (some merged)).enqueue .m none
         (.ticketEvent (if t.severity.rank < f.severity.rank then .raised merged else .merged merged)))
     ∧ ((∀ k t, s.slot k = some t → ¬ (t.line = l ∧ t.cls = c ∧ t.state ≠ .cleared)) →
       (∀ k n, s.slot k = none → (∀ j < k, s.slot j ≠ none) → s.NextNumber k n →
         s.applyFailure l c f src stamp = s.ticketMade k n l c f src stamp)
       ∧ ((∀ k, s.slot k ≠ none) →
         (∀ k n x, s.OldestAt (fun t => t.state = .cleared) k x → s.NextNumber k n → s.Room .m 9 →
           s.applyFailure l c f src stamp
             = (s.enqueue .m none (.ticketEvent (.purged x.number x.line x.cls))).ticketMade k n l c f src stamp)
         ∧ ((∀ k t, s.slot k = some t → t.state ≠ .cleared) →
           (∀ k n x, f.severity = .critical → s.OldestAt (fun t => t.state = .opened ∧ t.severity = .minor) k x →
             s.NextNumber k n → s.Room .m 9 →
             let marked := (s.enqueue .m none (.ticketEvent (.evicted x.number x.line x.cls x.severity))).updLine x.line
               fun r => { r with pendingMask := r.pendingMask.set x.cls.index true }
             s.applyFailure l c f src stamp
               = { marked with retest := marked.retestWith x.line }.ticketMade k n l c f src stamp)
           ∧ ((f.severity = .critical → ∀ k t, s.slot k = some t → ¬ (t.state = .opened ∧ t.severity = .minor)) →
             s.applyFailure l c f src stamp = { (s.updLine l fun r =>
                 { r with pendingMask := r.pendingMask.set c.index true }).enqueue .m none
                   (.ticketOverflow l c f.severity f.value src) with
                 retest := if c ≠ .hazard then s.retestWith l else s.retest })))))
  ∧ (∀ (l : LineId) (c : FaultClass) (need : Nat) (stamp : Stamp) (s : State), s.Room .m 8 →
       let unmarked := fun (x : State) => x.updLine l fun r => { r with pendingMask := r.pendingMask.set c.index false }
       ((∀ k t, s.slot k = some t → ¬ (t.line = l ∧ t.cls = c ∧ t.state ≠ .cleared)) →
         s.applyPass l c need stamp = unmarked s)
       ∧ ∀ k t, s.TicketAt l c k t →
         let counted := { t with passes := min (t.passes + 1) 7 }
         let cleared := { counted with state := .cleared, clearedBy := some .auto, clearedAt := some stamp }
         t.passes ≤ 7 →
         (need = 0 ∨ min (t.passes + 1) 7 < need → s.applyPass l c need stamp = unmarked (s.slotDirty k (some counted)))
         ∧ (need ≠ 0 → need ≤ min (t.passes + 1) 7 →
           s.applyPass l c need stamp
             = unmarked ((s.slotDirty k (some cleared)).enqueue .m none (.ticketEvent (.cleared cleared)))))

/-! ## The maintenance centre's orders on the clock, the sweep, the settings and the part -/

/-- SET_CLOCK (R149, R150, R153): the day and the second of day as given, the clock valid, the second being counted begun
again; a change of day (an invalid clock's day taken as 0) clears the rest flag; the sweep state is derived. That the flag
is cleared before the state is derived, so that an attempt of the same event finds it clear, is read from R152 and R160 by
inference, and an invalid clock's day 0 from R148, log 21. Values outside their ranges are BAD_PARAMETER. The five flag
orders of the sweep (R160, R153): ACCEPTED, the change each names and no other, and a derivation of the state. A derivation
that finds ACTIVE anew is a trigger for a start attempt. The state last derived stands in a field, log 25. -/
def Obligations.ClockAndSweepOrdersDeriveTheState : Prop :=
  (∀ (tag : Byte) (day h m x : Nat) (s : State), s.Hears .m →
    (65535 < day ∨ 23 < h ∨ 59 < m ∨ 59 < x →
      exec (.setClock .m tag day h m x) s = .next (s.answered .m tag .setClock .badParameter .none))
    ∧ (day ≤ 65535 → h ≤ 23 → m ≤ 59 → x ≤ 59 →
      let set : State := { s.answered .m tag .setClock .accepted .none with
        clock := ⟨day, 3600 * h + 60 * m + x, true, s.now + 10000⟩
        sweep := { s.sweep with rest := s.sweep.rest && day == (if s.clock.valid then s.clock.day else 0) } }
      ∀ t, set.Derived t → exec (.setClock .m tag day h m x) s = .next t))
  ∧ ∀ (tag : Byte) (s : State), s.Hears .m →
    let does := fun (i : Instr) (k : OrderKind) (w : SweepRec) =>
      ∀ t, State.Derived { s.answered .m tag k .accepted .none with sweep := w } t → exec i s = .next t
    does (.sweepEnable .m tag) .sweepEnable { s.sweep with enabled := true, rest := false }
    ∧ does (.sweepDisable .m tag) .sweepDisable { s.sweep with enabled := false }
    ∧ does (.sweepHold .m tag) .sweepHold { s.sweep with mcHold := true }
    ∧ does (.sweepResume .m tag) .sweepResume { s.sweep with mcHold := false }
    ∧ does (.sweepNewPass .m tag) .sweepNewPass
        { s.sweep with
          cursor := s.sweepCfg.first, tested := 0, skipped := 0, faulted := 0
          pass := (s.sweep.pass + 1) % 65536, closing := false, rest := false }

/-- SETTINGS_WRITE and SWEEP_SET (R169, R159): the write becomes pending and begins at once with no page in flight; a page
above 361 is BAD_PARAMETER, a ticket page NOT_PERMITTED, a second write STORE_BUSY; SWEEP_SET writes page 1 from its values
as given, each field most significant byte first, with the start-enabled of the shadow. -/
def Obligations.SettingsWritesBecomePending : Prop :=
  ∀ (tag : Byte) (n : Nat) (d : PageData) (s : State), s.Hears .m →
    let refused := fun r => exec (.settingsWrite .m tag n d) s = .next (s.answered .m tag .settingsWrite r .none)
    (361 < n → refused .badParameter)
    ∧ (106 ≤ n → n ≤ 361 → refused .notPermitted)
    ∧ (∀ k : PageId, k.val = n → n < 106 →
      (s.store.settingsWrite ≠ none → refused .storeBusy)
      ∧ (s.store.settingsWrite = none → exec (.settingsWrite .m tag n d) s
        = .next ((s.answered .m tag .settingsWrite .accepted .none).writeAccepted k d tag)))
    ∧ ∀ a z f l p c : Nat, a < 65536 → z < 65536 → f < 65536 → l < 65536 → p < 256 → c < 65536 →
      (s.store.settingsWrite ≠ none →
        exec (.sweepSet .m tag a z f l p c) s = .next (s.answered .m tag .sweepSet .storeBusy .none))
      ∧ (s.store.settingsWrite = none → ∃ e : PageData,
        exec (.sweepSet .m tag a z f l p c) s
          = .next ((s.answered .m tag .sweepSet .accepted .none).writeAccepted 1 e tag)
        ∧ (let at_ := fun i : Fin 32 => (e.get i).toNat
          at_ 0 * 256 + at_ 1 = a ∧ at_ 2 * 256 + at_ 3 = z ∧ at_ 4 * 256 + at_ 5 = f ∧ at_ 6 * 256 + at_ 7 = l
            ∧ at_ 8 = p ∧ at_ 9 * 256 + at_ 10 = c ∧ at_ 11 = (if s.sweepCfg.startEnabled then 1 else 0)
            ∧ ∀ i : Fin 32, 12 ≤ i.val → at_ i = 0))

/-- RESTART (R182, R45, R34, R174, R146, R50): ACCEPTED; QUIESCING with cause RESTART, ALM deasserted, the supervision timer
stopped; a release decision with cause RESTART on every bus that is not FREE, running programmes ended first; then the wait
queue empties, each source told WAIT_EXPIRED. Said apart with an empty wait queue and every bus FREE, on its way out, or
with its relays operating or switching: each such bus gets the pending cause RESTART unless it has one; with every bus FREE
access is quiet at once: the drain waits for a page in flight, and with none the autoload begins. Taking those ends within
the event is the model's choice, log 11. That the buses come lowest first is read by inference, log 10. That the write
service chooses at the end of the event is the model's choice, log 8. -/
def Obligations.RestartQuiescesThePart : Prop :=
  ∀ (tag : Byte) (s : State), s.Hears .m →
    let quiesced : State := { s.answered .m tag .restart .accepted .none with alm := false, supTimer := none }
    let gives := fun (bs : Tab BusRec 4) (st : Store) =>
      exec (.restart .m tag) s = .next { quiesced with buses := bs, store := st }
    let quiescing : Store := { s.store with phase := .quiescing, resetCause := .restart }
    (s.waitQueue = [] → (∀ b, (s.bus b).state ≠ .held) →
      ((∃ b, (s.bus b).state ≠ .free) → ∃ bs : Tab BusRec 4, gives bs quiescing
        ∧ ∀ b, bs.get b = if ((s.bus b).state = .operating ∨ (s.bus b).state = .switching)
            ∧ (s.bus b).releasePending = none then pendingRecord .restart (s.bus b) else s.bus b)
      ∧ ((∀ b, (s.bus b).state = .free) →
        (s.store.inFlight ≠ none → gives s.buses { s.store with phase := .draining, resetCause := .restart })
        ∧ (s.store.inFlight = none → gives s.buses
          { s.store with
            phase := .loading, resetCause := .restart, loadIndex := 0, loadDue := s.now + 1, bad := {}, image := [] })))
    ∧ ∀ t w e, State.ReleasesAll { quiesced with store := quiescing } (fun r => r.state ≠ .free) .restart t →
      WaitsEnd .restart t.waitQueue t w → w.EventEnds e → exec (.restart .m tag) s = .next e

/-! ## The measuring units: timers, phases, steps -/

/-- WARM_UP_END (R71, R73): WARMING becomes ATTACHED at the due time, and the grant programme of a HELD bus starts.
STANDBY_DELAY_EXPIRY (R70): READY becomes STANDBY. DISCHARGE_END (R87, R39, R40, R70): DISCHARGING becomes ATTACHED and the
discharge switch opens; a DRAINING bus goes to RELEASING, its unit unbound to READY, a scan and a notice to RSS following; with
no request waiting and the sweep disabled nothing more happens. A unit in another state is left alone: the model's choice,
log 1. -/
def Obligations.UnitTimersMoveTheUnit : Prop :=
  ∀ (u : MuId) (s : State),
    (s.Settled → (s.mu u).state ≠ .warming → exec (.warmUpEnd u) s = .next s)
    ∧ (∀ (b : BusId) (due : Nat), s.Settled → (s.mu u).state = .warming → (s.mu u).warmUp = some due →
      (s.mu u).bus = some b →
      let at_ : State := { s with now := max s.now due }
      let warm := at_.updMu u fun m => { m with state := .attached, warmUp := none }
      ((s.bus b).state ≠ .held ∨ (s.bus b).grantProgramme = none → exec (.warmUpEnd u) s = .next warm)
      ∧ (∀ p l src tag, (s.bus b).state = .held → (s.bus b).boundMu = some u → (s.bus b).grantProgramme = some p →
        (s.bus b).line = some l → (s.bus b).holder = some src → (s.bus b).holderTag = some tag →
        exec (.warmUpEnd u) s = .next (warm.started b u (startContext at_ b l p src tag true))))
    ∧ ((s.mu u).state ≠ .ready ∨ (s.mu u).standby = none → exec (.standbyDelayExpiry u) s = .next s)
    ∧ (∀ due, (s.mu u).state = .ready → (s.mu u).standby = some due →
      exec (.standbyDelayExpiry u) s
        = .next ({ s with now := max s.now due }.updMu u fun m => { m with state := .standby, standby := none }))
    ∧ (s.Settled → (s.mu u).state ≠ .discharging → exec (.dischargeEnd u) s = .next s)
    ∧ ∀ (b : BusId) (due : Nat), s.Settled → (s.mu u).state = .discharging → (s.mu u).discharge = some due →
      (s.mu u).bus = some b →
      let at_ : State := { s with now := max s.now due }
      let open_ := fun m : MuRec => { m with state := .attached, discharge := none, switchPair := none }
      let unbound := (at_.updMu u fun m => freedUnit at_.now s.config.standby (open_ m)).updBus b
        (drainedRecord (at_.now + 10 * s.config.release))
      ((s.bus b).state ≠ .draining → exec (.dischargeEnd u) s = .next (at_.updMu u open_))
      ∧ ((s.bus b).state = .draining → (s.bus b).boundMu = some u →
        (s.Unclaimed → exec (.dischargeEnd u) s = .next unbound)
        ∧ ∀ t e, unbound.ScansAndTells t → t.EventEnds e → exec (.dischargeEnd u) s = .next e)

/-- The parts of a phase (R76, R90, R91): HEAD_SET_UP_END begins the settle time of the step's record; SETTLE_END of a phase
that samples begins the samples, the first 0.5 ms on; a SAMPLE_ARRIVAL short of the count adds the sample, clipped to plus or
minus 20000, its square and its clip to the accumulator, the next 0.5 ms on. In no such part a command changes nothing: the
model's choice, log 1. -/
def Obligations.PhasePartsFollowOneAnother : Prop :=
  ∀ (u : MuId) (s : State),
    ((∀ c, ¬ s.Measures u .setUp c) → exec (.headSetUpEnd u) s = .next s)
    ∧ (s.Settled → (∀ c, ¬ s.Measures u .settle c) → ∀ q f, exec (.settleEnd u q f) s = .next s)
    ∧ (s.Settled → (∀ c, ¬ s.Measures u .sampling c) → ∀ v, exec (.sampleArrival u v) s = .next s)
    ∧ ∀ (c : Context) (x : SnapStep), c.Runs x →
      let goes := fun (i : Instr) (d : Context) =>
        exec i s = .next ({ s with now := max s.now c.due }.updMu u fun m => { m with context := some d })
      (s.Measures u .setUp c →
        goes (.headSetUpEnd u) { c with stage := .settle, due := c.due + 10 * x.settle })
      ∧ (s.Settled → s.Measures u .settle c → x.kind ≠ .cap → ∀ q f,
        goes (.settleEnd u q f) { c with stage := .sampling, due := c.due + 5 })
      ∧ (s.Settled → s.Measures u .sampling c → c.acc.count + 1 < x.samples → ∀ v,
        let w := max (-20000) (min 20000 v)
        goes (.sampleArrival u v)
          { c with
            due := c.due + 5
            acc := ⟨c.acc.count + 1, c.acc.sum + w, c.acc.sumSq + w.natAbs * w.natAbs, c.acc.clip || w != v⟩ })

/-- The last sample of a phase that does not end its step (R77, R79, R95, R99): the precheck's leg A-E hands its mean and
clip on and leg B-E begins; phase F hands on Vf and phase M begins with the source on; the first phase M of an AUTO step
whose range test steps leaves its Vm in the context and is taken once more on the new range. That the time moves on to the
sample's due time, when it has not passed it, is the model's choice, log 1. -/
def Obligations.LastSamplesBeginTheNextPhase : Prop :=
  ∀ (u : MuId) (c : Context) (x : SnapStep) (v : Int) (s : State), s.Settled → s.Measures u .sampling c → c.Runs x →
    x.samples ≤ c.acc.count + 1 →
    let a := c.acc.add v
    let at_ : State := { s with now := max s.now c.due }
    (c.stepIndex = 0 → c.phase = .legAe → exec (.sampleArrival u v) s
      = .next (at_.runOn u { c.atPhase .legBe at_.now with legAe := some (a.mean, a.clip) } none))
    ∧ (1 ≤ c.stepIndex → c.phase = .f → x.kind = .res → a.clip = false → exec (.sampleArrival u v) s
      = .next (at_.runOn u { c.atPhase .m at_.now with vf := some a.mean, sourceApplied := true } (some x.source)))
    ∧ ∀ vf r, 1 ≤ c.stepIndex → c.phase = .m → x.kind = .res → x.range = .auto → a.clip = false → c.vf = some vf →
      rangeTest (resInputs vf a.mean x.source) c.range = some r → exec (.sampleArrival u v) s
      = .next (at_.runOn u { c.atPhase .mAgain at_.now with range := r, ranged := true, vm := some a.mean, sourceApplied := true }
          (some x.source))

/-- The completion of a step (R82, R77, R81, R85, R86, R101 to R104), by the last sample of its last phase or, for CAP, by
the reading of the charge meter at SETTLE_END: the source off, the result in the context, STEP_RESULT to a desk or MC
holder. Then the next step begins; after the last one the programme ends COMPLETE, after HAZARD it ends at once, a ticketed
one's outcome taken class by class (R118), an RS one's count noted (R157). An MC or RS hold's bus is then released,
PROGRAMME_DONE or HAZARD (R43): DRAINING when the source was applied, else given back. That a reading above 500,000 counts
as 500,000, and a saturated one so whatever the operand says, is read by inference, log 23. That the time moves on to the
event's due time, when it has not passed it, is the model's choice, log 1; that the write service chooses at the end of the
event, log 8. -/
def Obligations.StepsComplete : Prop :=
  ∀ (u : MuId) (c : Context) (x : SnapStep) (i : Instr) (r : StepResult) (s : State), s.Settled → c.Runs x →
    ((∃ v, i = .sampleArrival u v ∧ s.Measures u .sampling c ∧ x.samples ≤ c.acc.count + 1
        ∧ StepEnds c x (c.acc.add v) r)
      ∨ ∃ q full, i = .settleEnd u q full ∧ s.Measures u .settle c ∧ x.kind = .cap
        ∧ (let f := capacitance (if full then 500000 else min q 500000) x.source
          r = {
            index := c.stepIndex, kind := .cap, pair := x.pair, status := .done, value := some (f : Int)
            isOver := full || distanceLimited f c.classRec.cpk
            verdict := some (judgeStep c.classRec .cap (f : Int)), distance := some (distanceOf f c.classRec.cpk) })) →
    s.NoticeRoom c.holder →
    let at_ : State := { s with now := max s.now c.due }
    let d : Context := { c with results := c.results.set c.stepIndex r }
    let told := at_.stepDone u c r
    (∀ y, r.verdict ≠ some .hazard → c.steps[c.stepIndex]? = some y → exec i s
      = .next (told.runOn u (d.atUserStep (c.stepIndex + 1) y at_.now) (if y.kind = .cap then some y.source else none)))
    ∧ ∀ e : EndCause, (e = .hazard ∧ r.verdict = some .hazard
        ∨ e = .complete ∧ r.verdict ≠ some .hazard ∧ c.stepIndex = c.steps.length) →
      let cause := if e = .hazard then Cause.hazard else .programmeDone
      (c.ticket = false →
        (∀ k, c.holder = .desk k → exec i s = .next (told.ended u d e))
        ∧ (c.holder = .mc → (s.bus c.bus).state = .held → (s.bus c.bus).boundMu = some u →
          (c.sourceApplied = true → exec i s = .next ((told.ended u d e).updBus c.bus (drainingRecord cause)))
          ∧ (c.sourceApplied = false → s.Unclaimed → exec i s = .next ((told.ended u d e).givenBack c.bus cause))))
      ∧ ∀ w f, told.ProgrammeEnds u d e w →
        (∀ k, c.holder = .desk k → w.EventEnds f → exec i s = .next f)
        ∧ (c.holder = .mc ∨ c.holder = .rs → ∀ t, w.Releases c.bus cause t → t.EventEnds f → exec i s = .next f)

/-! ## The sweep's events, the clock, the store -/

/-- PACING_TIMER_EXPIRY (R154, R155): the timer has run out at its due time, and that is a trigger for a start attempt.
PASS_END (R156): with the closing flag set and no RS test running the pass ends. Otherwise the two change nothing: the model's
choice, logs 1 and 11. -/
def Obligations.SweepEventsTakeTheirAttempts : Prop :=
  ∀ s : State, s.Settled →
    (s.sweep.pacing = none → exec .pacingTimerExpiry s = .next s)
    ∧ (∀ due t, s.sweep.pacing = some due →
      State.Triggered { s with now := max s.now due, sweep := { s.sweep with pacing := none } } t →
      exec .pacingTimerExpiry s = .next t)
    ∧ (s.sweep.closing = false ∨ s.rsTests ≠ [] → exec .passEnd s = .next s)
    ∧ (s.sweep.closing = true → s.rsTests = [] → exec .passEnd s = .next s.passEnded)

/-- CLOCK_ADVANCE (R148, R150, R153): the second counts on; second 86399 is followed by second 0 of the next day, day 65535
by day 0, and a new day clears the rest flag; a new minute derives the sweep state. An invalid clock does not count. That a new
day's rest flag is cleared before the state is derived is read from R152 and R160 by inference, log 21; that the time comes to
the second's end where it had not is the model's choice, log 1. -/
def Obligations.ClockCountsTheSeconds : Prop :=
  ∀ s : State, s.Settled →
    (s.clock.valid = false → exec .clockAdvance s = .next s)
    ∧ (s.clock.valid = true →
      let day := s.clock.day
      let second := s.clock.second
      let due := s.clock.secondDue
      let at_ : State := { s with now := max s.now due }
      (second < 86399 →
        let t : State := { at_ with clock := ⟨day, second + 1, true, due + 10000⟩ }
        ((second + 1) / 60 = second / 60 → exec .clockAdvance s = .next t)
        ∧ ((second + 1) / 60 ≠ second / 60 → ∀ t', t.Derived t' → exec .clockAdvance s = .next t'))
      ∧ (second = 86399 →
        let t : State :=
          { at_ with
            clock := ⟨(day + 1) % 65536, 0, true, due + 10000⟩, sweep := { s.sweep with rest := false } }
        ∀ t', t.Derived t' → exec .clockAdvance s = .next t'))

/-- SLOT_WRITE_COMPLETION (R172, R174) and SETTINGS_WRITE_COMPLETION (R170, R152, R153, R154, R158): the page stands in the
array with its check and the service makes its next choice; a drain with nothing left begins the autoload. A settings write
first loads its shadow, reports WRITE_DONE with its tag and becomes absent; then a class or map page prunes the retest list,
a configuration page derives the sweep state and triggers an attempt, page 1 clearing the rest flag first, page 0 scanning
the wait queue first (R31); while RUNNING the event then ends with nothing more to do. With no such page in flight the
command changes nothing, and the time comes to the write's end where it had not: the model's choice, log 1. So is that the
service chooses before the effects of R170 on the sweep and the wait queue, log 8. -/
def Obligations.PageWritesComplete : Prop :=
  ∀ s : State, s.Settled →
    ((∀ w, s.store.inFlight = some w → w.page.val < 106) → exec .slotWriteCompletion s = .next s)
    ∧ (∀ w t, s.store.inFlight = some w → 106 ≤ w.page.val → s.store.phase ≠ .loading → (s.written w).Chooses t →
      (s.store.phase ≠ .draining ∨ t.store.inFlight ≠ none → exec .slotWriteCompletion s = .next t)
      ∧ (s.store.phase = .draining → t.store.inFlight = none → exec .slotWriteCompletion s = .next t.loadBegun))
    ∧ ((∀ w q, s.store.inFlight = some w → s.store.settingsWrite = some q → 106 ≤ w.page.val) →
      exec .settingsWriteCompletion s = .next s)
    ∧ (∀ w q t, s.store.inFlight = some w → w.page.val < 106 → s.store.settingsWrite = some q →
      s.store.phase ≠ .loading → s.Room .m 1 →
      let loaded := ((s.written w).loadShadow w.page w.data).enqueue .m (some q.tag) (.writeDone w.page)
      let ends := fun t : State => (s.store.phase = .running → exec .settingsWriteCompletion s = .next t)
        ∧ ∀ e, t.EventEnds e → exec .settingsWriteCompletion s = .next e
      State.Chooses { loaded with store := { loaded.store with settingsWrite := none } } t →
      (74 ≤ w.page.val → ends t)
      ∧ (2 ≤ w.page.val → w.page.val < 74 →
        ends { t with retest := t.retest.filter fun l => (t.classes.get (t.line l).cls).inSweep })
      ∧ (∀ t₁ t₂, w.page.val = 1 → State.Derived { t with sweep := { t.sweep with rest := false } } t₁ →
        t₁.Triggered t₂ → ends t₂)
      ∧ (∀ t₀ t₁ t₂, w.page.val = 0 → t.Scans t₀ → t₀.Derived t₁ → t₁.Triggered t₂ → ends t₂))

/-- ACCESS_QUIET and DRAIN_END (R174, R45): in QUIESCING with every bus FREE the phase becomes DRAINING and the service
chooses; in DRAINING with no settings write, no page in flight and no dirty slot the autoload begins. Between events neither
is left to take, since both are taken inside the event that brings them about: the model's choice, log 11. That the write
service chooses at the end of the event is the model's choice, log 8. -/
def Obligations.RestartPhasesFollow : Prop :=
  ∀ s : State,
    (s.Settled → exec .accessQuiet s = .next s ∧ exec .drainEnd s = .next s)
    ∧ (s.lapseInHand = none →
      (s.store.phase = .quiescing → (∀ b, (s.bus b).state = .free) →
        let drains : State := { s with store := { s.store with phase := .draining } }
        (s.store.inFlight ≠ none → exec .accessQuiet s = .next drains)
        ∧ (s.store.inFlight = none → ∀ t, drains.Chooses t →
          exec .accessQuiet s = .next (if t.store.inFlight = none then t.loadBegun else t)))
      ∧ (s.store.phase = .draining → s.store.settingsWrite = none → s.store.inFlight = none →
        (∀ k, s.store.dirty.get k = false) → exec .drainEnd s = .next s.loadBegun))

/-- AUTOLOAD_PAGE_READ (R167, R165, R164): the next page in ascending order, 0.1 ms after the one before. A good page is
loaded into its shadow, a ticket page kept for the examination unless it is 32 zero bytes; a bad one is counted in its area
and gives the area's defaults. Outside LOADING or with every page read nothing happens: the model's choice, log 1; the values
of a default step that R72 leaves open are its choice too, log 19. What a shadow takes from a page, by the layouts of section
10.6: configuration page 0 with its ranges (R164, R19), configuration page 1 (R152), a class page with its clamps and its
levels put in order (R10, R11), a map page (R13), a page of a programme, the other page's steps kept (R72). -/
def Obligations.AutoloadReadsThePages : Prop :=
  (∀ s : State,
    (s.store.phase ≠ .loading ∨ 362 ≤ s.store.loadIndex → exec .autoloadPageRead s = .next s)
    ∧ ∀ p : PageId, s.store.phase = .loading → s.store.loadIndex = p.val →
      let page := s.store.array.get p
      let k := s.store.bad
      let read : State :=
        { s with
          now := max s.now s.store.loadDue
          store := { s.store with loadIndex := p.val + 1, loadDue := s.store.loadDue + 1 } }
      let gives := fun t => exec .autoloadPageRead s = .next t
      let bad := fun (b : BadCounts) (t : State) => gives { t with store := { t.store with bad := b } }
      (page.check.toNat + (page.data.items.map BitVec.toNat).sum = 65535 →
        (p.val < 106 → gives (read.loadShadow p page.data))
        ∧ (∀ n : SlotId, p.val = 106 + n.val →
          ((∀ i, page.data.get i = 0) → gives read)
          ∧ (∀ i, page.data.get i ≠ 0 → gives
            { read with store := { read.store with image := s.store.image ++ [(n, page.data)] } })))
      ∧ (page.check.toNat + (page.data.items.map BitVec.toNat).sum ≠ 65535 →
        (p.val = 0 → bad { k with config := k.config + 1 } { read with config := {} })
        ∧ (p.val = 1 → bad { k with config := k.config + 1 } { read with sweepCfg := {} })
        ∧ (∀ c : ClassId, p.val = 2 + c.val →
          bad { k with cls := k.cls + 1 } { read with classes := s.classes.set c {} })
        ∧ (∀ m : Fin 64, p.val = 10 + m.val →
          bad { k with map := k.map + 1 } { read with lines := s.lines.mapIdx fun l r =>
            if l.val / 32 = m.val then { r with cls := 0 } else r })
        ∧ (∀ q : ProgId, p.val = 74 + 2 * q.val ∨ p.val = 75 + 2 * q.val → ∃ e : ProgEntry,
          bad { k with prog := k.prog + 1 } { read with library := s.library.set q e }
          ∧ e.count = (if p.val % 2 = 1 then (s.library.get q).count else if q = 0 then 8 else 0)
          ∧ ∀ i : Fin 10, e.steps.get i = if p.val % 2 = i.val / 5 then (defaultEntry q).steps.get i
              else (s.library.get q).steps.get i)
        ∧ (106 ≤ p.val → bad { k with ticket := k.ticket + 1 } read)))
  ∧ ∀ (s : State) (d : PageData),
    let at_ := dataAt d
    let word := dataWord d
    (∃ c : Config0, s.loadShadow 0 d = { s with config := c }
      ∧ c.operate = held 5 50 (at_ 0) ∧ c.release = held 5 50 (at_ 1) ∧ c.switch = held 5 50 (at_ 2)
      ∧ (∀ k : DeskId, (c.windows.get k).base = min 2047 (word (3 + 4 * k.val))
        ∧ (c.windows.get k).count = held 1 (2048 - (c.windows.get k).base) (word (5 + 4 * k.val)))
      ∧ c.allowDesk = min 4 (at_ 19) ∧ c.allowMc = min 4 (at_ 20) ∧ c.allowRs = min 4 (at_ 21)
      ∧ c.busReserve = min 3 (at_ 22 % 16) ∧ c.muReserve = at_ 22 / 16 % 2
      ∧ c.deskWait = held 5 120 (at_ 23) ∧ c.mcWait = held 10 600 (word 24) ∧ c.grace = held 2 60 (at_ 26)
      ∧ c.interval = held 1 60 (at_ 27) ∧ c.standby = at_ 28 ∧ c.discharge = held 50 500 (word 29)
      ∧ (at_ 31 = 0 → c.rate = .b9600) ∧ (at_ 31 = 2 → c.rate = .b38400) ∧ (at_ 31 = 3 → c.rate = .b115200)
      ∧ (at_ 31 = 1 ∨ 3 < at_ 31 → c.rate = .b19200))
    ∧ (∃ w : SweepCfg, s.loadShadow 1 d = { s with sweepCfg := w }
      ∧ w.windowStart = min (word 0) 1439 ∧ w.windowEnd = min (word 2) 1439 ∧ w.first = min (word 4) 2047
      ∧ w.last = max w.first (min (word 6) 2047) ∧ w.programme.val = min (at_ 8) 15
      ∧ w.pacing = held 1 600 (word 9) ∧ w.startEnabled = (at_ 11 != 0))
    ∧ (∀ (p : PageId) (c : ClassId), p.val = 2 + c.val → ∃ r : ClassRec,
      s.loadShadow p d = { s with classes := s.classes.set c r }
      ∧ r.hazardLimit = held 100 20000 (word 0)
      ∧ r.fdcWarn = min (held 1 20000 (word 2)) r.fdcFail ∧ r.fdcFail = held 1 20000 (word 4)
      ∧ r.facWarn = min (held 1 20000 (word 6)) r.facFail ∧ r.facFail = held 1 20000 (word 8)
      ∧ r.irWarn = max (min 1000000000 (dataLong d 10)) r.irFail ∧ r.irFail = min 1000000000 (dataLong d 14)
      ∧ r.capMin = word 18 ∧ r.cpk = held 20 100 (at_ 20) ∧ r.clearPasses = min 7 (at_ 21)
      ∧ r.isProtected = (at_ 22 != 0) ∧ r.inSweep = (at_ 23 != 0))
    ∧ (∀ (p : PageId) (m : Fin 64), p.val = 10 + m.val → ∃ lines : Tab LineRec 2048,
      s.loadShadow p d = { s with lines := lines }
      ∧ ∀ l : LineId, (l.val / 32 ≠ m.val → lines.get l = s.line l)
        ∧ ∃ c : ClassId, c.val = min 7 (at_ (l.val % 32))
          ∧ (l.val / 32 = m.val → lines.get l = { s.line l with cls := c }))
    ∧ ∀ (p : PageId) (q : ProgId), p.val = 74 + 2 * q.val ∨ p.val = 75 + 2 * q.val → ∃ e : ProgEntry,
      s.loadShadow p d = { s with library := s.library.set q e }
      ∧ e.count = (if p.val % 2 = 0 then min 10 (at_ 0) else (s.library.get q).count)
      ∧ ∀ i : Fin 10, (p.val % 2 ≠ i.val / 5 → e.steps.get i = (s.library.get q).steps.get i)
        ∧ (p.val % 2 = i.val / 5 →
          let r := e.steps.get i
          StepAt d (if i.val < 5 then 1 + 6 * i.val else 6 * (i.val - 5)) r
          ∧ r.settle < 65536 ∧ r.samples < 256 ∧ -128 ≤ r.source ∧ r.source ≤ 127)

/-- AUTOLOAD_COMPLETION (R168, R147, R124, R146, R162, R50, R183), with every page read and room in every queue: the
examined tickets and the counter, each line's quarantine and ALM from the loaded table and the pending marks, both units
STANDBY, the sweep enabled by start-enabled with its cursor at the range first after POR and its pacing timer started,
RUNNING at the loaded rate, START to every port; then a lapse owed is taken (its buses lowest first, log 10) while
SUPERVISED and dropped while UNSUPERVISED, or with none owed the supervision timer starts when SUPERVISED; and the service's
first choice, at the end of the event (the model's choice, log 8). With every bus FREE and room in every queue it completes:
RUNNING, the examined tickets in place, units in STANDBY, no lapse owed. Outside LOADING or before every page is read
nothing happens: the model's choice, log 1. The examination (R147), of pages in ascending slot order, as every step keeps
them gathered: a ticket as its slot's page gives it with R147's corrections is kept unless a kept lower slot holds its
number or, both not cleared, its line and fault class; a record is discarded for a number of 0 or a code outside R125's. The
discarded are counted and their slots dirty; a kept slot that was corrected is dirty, any other keeps its mark. Which
corrections count for the dirty slots is read by inference, log 17, and that a distance or a second out of its range is
kept, log 18. A loaded ticket alike in all else to the one its slot held takes that one's pair (R113), as a restart's table
equals the table before it; any other's is a free value, the model's choice, log 33. -/
def Obligations.AutoloadCompletionStartsThePart : Prop :=
  (∀ s : State, s.Settled → (s.store.phase ≠ .loading ∨ s.store.loadIndex ≠ 362 →
      exec .autoloadCompletion s = .next s)
    ∧ ∀ (tickets : Tab (Option Ticket) 256) (lines : Tab LineRec 2048) (alarm : Bool) (top : Nat) (st : SweepState),
      s.store.phase = .loading → s.store.loadIndex = 362 → (∀ p, 1 ≤ s.freeEntries p) →
      let e := examine s.store.image s.store.dirty
      s.TableLoaded tickets →
      (∀ l, ∃ q, lines.get l = { s.line l with quarantined := q }
        ∧ (q = true ↔ (s.line l).pendingMask.get 0 = true
          ∨ ∃ n x, e.tickets.get n = some x ∧ x.line = l ∧ x.cls = .hazard ∧ x.state ≠ .cleared)) →
      (alarm = true ↔ (∃ n x, e.tickets.get n = some x ∧ x.severity = .critical ∧ x.state = .opened)
        ∨ ∃ l, (s.line l).pendingMask.get 0 = true) →
      ((∀ n, e.tickets.get n = none) ∧ top = 0
        ∨ (∃ n x, e.tickets.get n = some x ∧ x.number = top) ∧ ∀ n x, e.tickets.get n = some x → x.number ≤ top) →
      let bad := { s.store.bad with ticket := s.store.bad.ticket + e.discarded }
      let up : State :=
        { s with
          tickets := tickets, counter := if top = 65535 then 1 else top + 1, lines := lines, alm := alarm
          draws := s.draws + 1
          units := s.units.map fun m => { m with state := .standby, standby := none }
          linkRate := s.config.rate
          sweep := { s.sweep with
            enabled := s.sweepCfg.startEnabled, pacing := some (s.now + 10000 * s.sweepCfg.pacing)
            cursor := if s.store.resetCause = .por then s.sweepCfg.first else s.sweep.cursor }
          store := { s.store with phase := .running, lastSlot := 255, dirty := e.dirty, image := [], bad := bad } }
      let started := fun timer : Option Nat => [Port.desk 0, .desk 1, .desk 2, .desk 3, .x, .m].foldl
        (fun t p => t.enqueue p none (.start s.store.resetCause bad)) ({ up with supTimer := timer }.seen st)
      up.SweepIs st →
      (s.lapseOwed = none → s.store.inFlight = none → ∀ t,
        (started (if s.supervised then some (s.now + 10000 * s.config.interval) else s.supTimer)).Chooses t →
        exec .autoloadCompletion s = .next t)
      ∧ ∀ cause, s.lapseOwed = some cause →
        let paid : State := { started s.supTimer with lapseOwed := none }
        (s.supervised = false → ∀ t, paid.EventEnds t → exec .autoloadCompletion s = .next t)
        ∧ (s.supervised = true → ∀ w t, paid.Lapses cause w → w.EventEnds t → exec .autoloadCompletion s = .next t))
  ∧ (∀ (image : List (SlotId × PageData)) (dirty : Tab Bool 256),
    let e := examine image dirty
    (∀ n x, e.tickets.get n = some x → ∃ d, (n, d) ∈ image ∧ loadTicket d = some x)
    ∧ (∀ n m x y, e.tickets.get n = some x → e.tickets.get m = some y → n ≠ m →
      x.number ≠ y.number ∧ (x.state ≠ .cleared → y.state ≠ .cleared → ¬ (x.line = y.line ∧ x.cls = y.cls)))
    ∧ (∀ n d, (n, d) ∈ image → e.tickets.get n = none → e.dirty.get n = true)
    ∧ (image.Pairwise (fun a b => a.1 < b.1) →
      (∀ n d x, (n, d) ∈ image → loadTicket d = some x →
        (∀ m < n, ∀ y, e.tickets.get m = some y → ¬ y.Clashes x) → e.tickets.get n = some x)
      ∧ e.discarded = (image.filter fun z => (e.tickets.get z.1).isNone).length
      ∧ (∀ n d x, (n, d) ∈ image → e.tickets.get n = some x →
        (CorrectedRecord d x → e.dirty.get n = true) ∧ (¬ CorrectedRecord d x → e.dirty.get n = dirty.get n))
      ∧ ∀ n, (∀ d, (n, d) ∉ image) → e.tickets.get n = none ∧ e.dirty.get n = dirty.get n))
  ∧ (∀ (k : FaultClass) (code : Nat),
    (k = .foreignDc ∨ k = .foreignAc → freePair k code ≠ none)
    ∧ (k ≠ .hazard → k ≠ .foreignDc → k ≠ .foreignAc → freePair k code = none))
  ∧ (∀ d : PageData, loadTicket d = none ↔ DiscardedRecord d)
  ∧ (∀ (d : PageData) (t : Ticket), loadTicket d = some t → LoadedTicket d t)
  ∧ State.reset.ImageOrdered
  ∧ (∀ s t : State, s.ImageOrdered → step s = .next t → t.ImageOrdered)
  ∧ ∀ s : State, s.Settled → s.store.phase = .loading → s.store.loadIndex = 362 →
    (∀ b, (s.bus b).state = .free) → (∀ p, 1 ≤ s.freeEntries p) →
    ∃ t, exec .autoloadCompletion s = .next t ∧ t.store.phase = .running ∧ t.store.image = []
      ∧ s.TableLoaded t.tickets ∧ t.linkRate = s.config.rate
      ∧ (∀ u, (t.mu u).state = .standby ∧ (t.mu u).standby = none) ∧ t.sweep.enabled = s.sweepCfg.startEnabled
      ∧ t.supervised = (s.supervised && s.lapseOwed.isNone) ∧ t.lapseOwed = none
      ∧ t.supTimer = if s.lapseOwed = none ∧ s.supervised = true then some (s.now + 10000 * s.config.interval)
          else if s.supervised = true then none else s.supTimer

/-! ## Arithmetic and verdicts -/

/-- The integer square root (R94): the largest whole number whose square is not greater than v, exact for every v up to
400,000,000; the rule's own figures. -/
def Obligations.IntegerRootIsExact : Prop :=
  (∀ v : Nat, v ≤ 400000000 → isqrt v * isqrt v ≤ v ∧ ∀ r : Nat, r * r ≤ v → r ≤ isqrt v)
  ∧ isqrt 0 = 0 ∧ (∀ v ∈ [1, 2, 3], isqrt v = 1) ∧ isqrt 4 = 2 ∧ isqrt 10000 = 100 ∧ isqrt 20000 = 141
  ∧ isqrt 399999999 = 19999

/-- The arithmetic of chapter 5: the rounded mean is the floor of (sum + N/2) / N (R92); the RMS is the root of
floor(sum of squares / N) - m * m, held to 0 to 20000 (R93); the resistance's inputs seen from the source's polarity (R96),
open, short or rounded to the nearest ohm up to 1,000,000,000 (R97, R98); the range test (R99); the capacitance (R102), the
distance and its limit (R103); and the clamps of a snapshot's step (R75). -/
def Obligations.ResultsAreWorkedExactly : Prop :=
  (∀ a : Accum, 1 ≤ a.count →
    (a.mean * a.count ≤ a.sum + (a.count / 2 : Nat) ∧ a.sum + (a.count / 2 : Nat) < (a.mean + 1) * a.count)
    ∧ (-20000 * (a.count : Int) ≤ a.sum → a.sum ≤ 20000 * a.count → -20000 ≤ a.mean ∧ a.mean ≤ 20000)
    ∧ a.rms ≤ 20000
    ∧ ∀ f : Int, f = ((a.sumSq / a.count : Nat) : Int) - a.mean * a.mean →
      (f ≤ 0 → a.rms = 0)
      ∧ (∀ r : Nat, 0 ≤ f → f ≤ 400000000 → (r : Int) * r ≤ f → f < ((r : Int) + 1) * (r + 1) → a.rms = r))
  ∧ (∀ vf vm v : Int,
    (0 ≤ v → resInputs vf vm v = ⟨v * 100, vm - vf, v * 100 - vm⟩)
    ∧ (v < 0 → resInputs vf vm v = resInputs (-vf) (-vm) (-v)))
  ∧ (∀ (g : Range) (i : ResInputs),
    let rs : Nat := match g with
      | .r10k => 10000
      | .r100k => 100000
      | .r1m => 1000000
    (i.den ≤ 2 → resistance g.ohms i = ⟨1000000000, true, false⟩)
    ∧ (2 < i.den → i.num ≤ 0 → resistance g.ohms i = ⟨0, false, true⟩)
    ∧ ∀ x : Nat, 2 < i.den → 0 < i.num → (x : Int) * i.den ≤ rs * i.num + i.den / 2 →
      rs * i.num + i.den / 2 < ((x : Int) + 1) * i.den →
      resistance g.ohms i = if 1000000000 < x then ⟨1000000000, true, false⟩ else ⟨x, false, false⟩)
  ∧ (∀ i : ResInputs,
    (i.den < i.vs / 20 → rangeTest i .r100k = some .r1m)
    ∧ (i.vs / 20 ≤ i.den → i.num < i.vs / 20 → rangeTest i .r100k = some .r10k)
    ∧ (i.vs / 20 ≤ i.den → i.vs / 20 ≤ i.num → ∀ r, rangeTest i r = none))
  ∧ (∀ (q : Nat) (v : Int), q ≤ 500000 → 10 ≤ v.natAbs → v.natAbs ≤ 120 →
    let dv := v.natAbs * 100
    let c := capacitance q v
    c * dv ≤ q * 100 + dv / 2 ∧ q * 100 + dv / 2 < (c + 1) * dv ∧ c ≤ 50000)
  ∧ (∀ c k d : Nat, 1 ≤ k → d * k ≤ c * 1000 + k / 2 → c * 1000 + k / 2 < (d + 1) * k →
    (d ≤ 99999 → distanceOf c k = d ∧ distanceLimited c k = false)
    ∧ (99999 < d → distanceOf c k = 99999 ∧ distanceLimited c k = true))
  ∧ ∀ r : StepRec,
    let x := snapStep r
    x.kind = r.kind ∧ x.range = r.range ∧ x.settle = max 10 (min 2000 r.settle)
    ∧ (∃ n, n ≤ 6 ∧ x.samples = 2 ^ n ∧ (r.samples = 0 → n = 0) ∧ (64 ≤ r.samples → n = 6)
      ∧ (1 ≤ r.samples → r.samples ≤ 64 → 2 ^ n ≤ r.samples ∧ r.samples < 2 ^ (n + 1)))
    ∧ (r.source = 0 → x.source = 10) ∧ (0 < r.source → x.source = max 10 (min 120 r.source))
    ∧ (r.source < 0 → x.source = min (-10) (max (-120) r.source))
    ∧ (r.pairCode = 1 → x.pair = .ae) ∧ (r.pairCode = 2 → x.pair = .be)
    ∧ (r.pairCode = 0 ∨ r.pairCode = 3 → x.pair = .ab)

/-- The verdict of an unclipped step by its kind and the class snapshot (R111), the precheck's (R112), a step's fault class
(R113), a verdict's severity (R114), the worst verdict of a programme (R86), and when a class has failed, with the severity,
the value with the pair of a VDC or VAC step (R113) and the distance it carries, or has passed (R116, R117). That step 0
counts as VDC is read from R105 and 10.6 by inference, log 35. -/
def Obligations.VerdictsFollowTheClass : Prop :=
  (∀ (c : ClassRec) (v : Int) (n : Nat),
    judgeStep c .vdc v = (if c.fdcFail ≤ v.natAbs then .fault else if c.fdcWarn ≤ v.natAbs then .marginal else .pass)
    ∧ judgeStep c .vac n = (if c.facFail ≤ n then .fault else if c.facWarn ≤ n then .marginal else .pass)
    ∧ judgeStep c .res n = (if n ≤ c.irFail then .fault else if n ≤ c.irWarn then .marginal else .pass)
    ∧ judgeStep c .cap n = (if n < c.capMin then .fault else .pass))
  ∧ (∀ (c : ClassRec) (ae be : Int) (clip : Bool),
    (judgePrecheck c ae be clip = .hazard ↔ clip = true ∨ c.hazardLimit ≤ ae.natAbs ∨ c.hazardLimit ≤ be.natAbs)
    ∧ (judgePrecheck c ae be clip ≠ .hazard → judgePrecheck c ae be clip = .pass))
  ∧ (∀ r : StepResult,
    (r.index = 0 ∨ r.clip = true → stepClass r = .hazard)
    ∧ (r.index ≠ 0 → r.clip = false →
      (r.kind = .vdc → stepClass r = .foreignDc) ∧ (r.kind = .vac → stepClass r = .foreignAc)
      ∧ (r.kind = .res → r.pair = .ab → stepClass r = .lowIrAb) ∧ (r.kind = .res → r.pair = .ae → stepClass r = .lowIrAe)
      ∧ (r.kind = .res → r.pair = .be → stepClass r = .lowIrBe) ∧ (r.kind = .cap → stepClass r = .openLine)))
  ∧ (Verdict.hazard.severity? = some .critical ∧ Verdict.fault.severity? = some .major
    ∧ Verdict.marginal.severity? = some .minor ∧ Verdict.pass.severity? = none
    ∧ Verdict.marginal.rank > Verdict.pass.rank ∧ Verdict.fault.rank > Verdict.marginal.rank
    ∧ Verdict.hazard.rank > Verdict.fault.rank
    ∧ Severity.minor.rank < Severity.major.rank ∧ Severity.major.rank < Severity.critical.rank)
  ∧ ∀ rs : List StepResult, (∀ r ∈ rs, r.status = .done → r.verdict ≠ none) →
    let has := fun v => ∃ r ∈ rs, r.status = .done ∧ r.verdict = some v
    ((worstVerdict rs = none ↔ ∀ r ∈ rs, r.status ≠ .done)
      ∧ ∀ v, worstVerdict rs = some v ↔ has v ∧ ∀ w, has w → w.rank ≤ v.rank)
    ∧ ∀ k : FaultClass,
      let fails := fun r : StepResult => r.status = .done ∧ stepClass r = k ∧ r.verdict ≠ some .pass
      ((∀ r ∈ rs, ¬ fails r) → failureOf k rs = none)
      ∧ (∀ xs ys r, rs = xs ++ r :: ys → fails r → (∀ y ∈ ys, ¬ fails y) → ∃ f, failureOf k rs = some f
        ∧ f.value = r.value.getD 0 ∧ f.pair = (if r.kind = .vdc ∨ r.kind = .vac then some r.pair else none)
        ∧ f.distance = (if k = .openLine then r.distance else none)
        ∧ (∀ x v, x ∈ rs → fails x → x.verdict = some v → ∃ sv, v.severity? = some sv ∧ sv.rank ≤ f.severity.rank)
        ∧ ∃ x v, x ∈ rs ∧ fails x ∧ x.verdict = some v ∧ v.severity? = some f.severity)
      ∧ ∀ cause, (passedIn k cause rs = true ↔ cause = .complete
        ∧ (∃ r ∈ rs, r.status = .done ∧ stepClass r = k) ∧ ∀ r ∈ rs, ¬ fails r)
end

