-- ==== Sys2Proof/Laws/Tab.lean ====
section
/-!
SUPPORT. Reading a table after each of its updates.
-/

set_option Elab.async false

namespace Sys2Proof

theorem Tab.ext_items {α : Type} {n : Nat} {s t : Tab α n} (h : s.items = t.items) : s = t := by
  cases s; cases t; simp_all

theorem Tab.get_eq {α : Type} {n : Nat} (t : Tab α n) (i : Fin n) :
    t.get i = t.items[i.val]'(by rw [t.size_eq]; exact i.isLt) := rfl

@[simp] theorem Tab.get_set_self {α : Type} {n : Nat} (t : Tab α n) (i : Fin n) (a : α) : (t.set i a).get i = a := by
  simp [Tab.get_eq, Tab.set]

theorem Tab.get_set_ne {α : Type} {n : Nat} (t : Tab α n) {i j : Fin n} (a : α) (h : i ≠ j) :
    (t.set i a).get j = t.get j := by
  have : i.val ≠ j.val := fun e => h (Fin.ext e)
  simp [Tab.get_eq, Tab.set, this]

theorem Tab.get_set {α : Type} {n : Nat} (t : Tab α n) (i j : Fin n) (a : α) :
    (t.set i a).get j = if i = j then a else t.get j := by
  split
  · subst_vars; simp
  · exact t.get_set_ne a ‹_›

@[simp] theorem Tab.get_replicate {α : Type} {n : Nat} (a : α) (i : Fin n) : (Tab.replicate n a).get i = a := by
  simp [Tab.get_eq, Tab.replicate]

@[simp] theorem Tab.get_map {α : Type} {n : Nat} (f : α → α) (t : Tab α n) (i : Fin n) :
    (t.map f).get i = f (t.get i) := by
  simp [Tab.get_eq, Tab.map]

@[simp] theorem Tab.get_mapIdx {α : Type} {n : Nat} (f : Fin n → α → α) (t : Tab α n) (i : Fin n) :
    (t.mapIdx f).get i = f i (t.get i) := by
  simp [Tab.get_eq, Tab.mapIdx]

@[simp] theorem Tab.get_ofFn {α : Type} {n : Nat} (f : Fin n → α) (i : Fin n) : (Tab.ofFn f).get i = f i := by
  simp [Tab.get_eq, Tab.ofFn]

theorem Tab.ext_get {α : Type} {n : Nat} {s t : Tab α n} (h : ∀ i, s.get i = t.get i) : s = t := by
  apply Tab.ext_items
  apply List.ext_getElem (by rw [s.size_eq, t.size_eq])
  intro i h₁ _
  simpa [Tab.get_eq] using h ⟨i, by rw [s.size_eq] at h₁; exact h₁⟩

@[simp] theorem Tab.set_get {α : Type} {n : Nat} (t : Tab α n) (i : Fin n) : t.set i (t.get i) = t := by
  apply Tab.ext_get
  intro j
  rw [Tab.get_set]
  split
  · subst_vars; rfl
  · rfl

@[simp] theorem Tab.set_set {α : Type} {n : Nat} (t : Tab α n) (i : Fin n) (a b : α) :
    (t.set i a).set i b = t.set i b := by
  apply Tab.ext_get
  intro j
  simp only [Tab.get_set]
  split <;> rfl

/-- A record stands in the indexed list exactly at its index. -/
theorem Tab.mem_indexed {α : Type} {n : Nat} (t : Tab α n) (i : Fin n) (a : α) :
    (i, a) ∈ t.indexed ↔ t.get i = a := by
  simp only [Tab.indexed, List.mem_iff_getElem]
  constructor
  · rintro ⟨k, hk, he⟩
    simp only [List.getElem_zip, Prod.mk.injEq, List.getElem_finRange] at he
    obtain ⟨h₁, h₂⟩ := he
    subst h₁
    simpa [Tab.get_eq] using h₂
  · intro h
    refine ⟨i.val, by simp [t.size_eq], ?_⟩
    simp only [List.getElem_zip, List.getElem_finRange, Prod.mk.injEq]
    exact ⟨by ext; simp, by rw [← h]; rfl⟩

end Sys2Proof
end

