-- ==== Sys2Proof/Laws/State.lean ====
section
/-!
SUPPORT. Each field of the state after each single update: one lemma per field per update, and the records read
after it.
-/

set_option Elab.async false

namespace Sys2Proof.Machine

/-! ### reach -/

@[simp] theorem State.reach_now (s : State) (t : Nat) : (s.reach t).now = max s.now t := rfl
@[simp] theorem State.reach_ports (s : State) (t : Nat) : (s.reach t).ports = s.ports := rfl
@[simp] theorem State.reach_linkRate (s : State) (t : Nat) : (s.reach t).linkRate = s.linkRate := rfl
@[simp] theorem State.reach_lines (s : State) (t : Nat) : (s.reach t).lines = s.lines := rfl
@[simp] theorem State.reach_classes (s : State) (t : Nat) : (s.reach t).classes = s.classes := rfl
@[simp] theorem State.reach_buses (s : State) (t : Nat) : (s.reach t).buses = s.buses := rfl
@[simp] theorem State.reach_waitQueue (s : State) (t : Nat) : (s.reach t).waitQueue = s.waitQueue := rfl
@[simp] theorem State.reach_config (s : State) (t : Nat) : (s.reach t).config = s.config := rfl
@[simp] theorem State.reach_supervised (s : State) (t : Nat) : (s.reach t).supervised = s.supervised := rfl
@[simp] theorem State.reach_supTimer (s : State) (t : Nat) : (s.reach t).supTimer = s.supTimer := rfl
@[simp] theorem State.reach_lapseOwed (s : State) (t : Nat) : (s.reach t).lapseOwed = s.lapseOwed := rfl
@[simp] theorem State.reach_lapseInHand (s : State) (t : Nat) : (s.reach t).lapseInHand = s.lapseInHand := rfl
@[simp] theorem State.reach_units (s : State) (t : Nat) : (s.reach t).units = s.units := rfl
@[simp] theorem State.reach_library (s : State) (t : Nat) : (s.reach t).library = s.library := rfl
@[simp] theorem State.reach_tickets (s : State) (t : Nat) : (s.reach t).tickets = s.tickets := rfl
@[simp] theorem State.reach_counter (s : State) (t : Nat) : (s.reach t).counter = s.counter := rfl
@[simp] theorem State.reach_alm (s : State) (t : Nat) : (s.reach t).alm = s.alm := rfl
@[simp] theorem State.reach_sweepCfg (s : State) (t : Nat) : (s.reach t).sweepCfg = s.sweepCfg := rfl
@[simp] theorem State.reach_sweep (s : State) (t : Nat) : (s.reach t).sweep = s.sweep := rfl
@[simp] theorem State.reach_retest (s : State) (t : Nat) : (s.reach t).retest = s.retest := rfl
@[simp] theorem State.reach_rsTests (s : State) (t : Nat) : (s.reach t).rsTests = s.rsTests := rfl
@[simp] theorem State.reach_clock (s : State) (t : Nat) : (s.reach t).clock = s.clock := rfl
@[simp] theorem State.reach_store (s : State) (t : Nat) : (s.reach t).store = s.store := rfl
@[simp] theorem State.reach_draws (s : State) (t : Nat) : (s.reach t).draws = s.draws := rfl
@[simp] theorem State.reach_pending (s : State) (t : Nat) : (s.reach t).pending = s.pending := rfl
@[simp] theorem State.reach_port (s : State) (t : Nat) (q : Port) : (s.reach t).port q = s.port q := rfl
@[simp] theorem State.reach_line (s : State) (t : Nat) (k : LineId) : (s.reach t).line k = s.line k := rfl
@[simp] theorem State.reach_bus (s : State) (t : Nat) (c : BusId) : (s.reach t).bus c = s.bus c := rfl
@[simp] theorem State.reach_mu (s : State) (t : Nat) (v : MuId) : (s.reach t).mu v = s.mu v := rfl
@[simp] theorem State.reach_slot (s : State) (t : Nat) (m : SlotId) : (s.reach t).slot m = s.slot m := rfl
@[simp] theorem State.reach_isRunning (s : State) (t : Nat) : (s.reach t).isRunning = s.isRunning := rfl

/-! ### updPort -/

@[simp] theorem State.updPort_now (s : State) (p : Port) (f : PortRec → PortRec) : (s.updPort p f).now = s.now := rfl
@[simp] theorem State.updPort_ports (s : State) (p : Port) (f : PortRec → PortRec) : (s.updPort p f).ports = s.ports.set (portIndex p) (f (s.port p)) :=
  rfl
@[simp] theorem State.updPort_linkRate (s : State) (p : Port) (f : PortRec → PortRec) : (s.updPort p f).linkRate = s.linkRate :=
  rfl
@[simp] theorem State.updPort_lines (s : State) (p : Port) (f : PortRec → PortRec) : (s.updPort p f).lines = s.lines :=
  rfl
@[simp] theorem State.updPort_classes (s : State) (p : Port) (f : PortRec → PortRec) : (s.updPort p f).classes = s.classes :=
  rfl
@[simp] theorem State.updPort_buses (s : State) (p : Port) (f : PortRec → PortRec) : (s.updPort p f).buses = s.buses :=
  rfl
@[simp] theorem State.updPort_waitQueue (s : State) (p : Port) (f : PortRec → PortRec) : (s.updPort p f).waitQueue = s.waitQueue :=
  rfl
@[simp] theorem State.updPort_config (s : State) (p : Port) (f : PortRec → PortRec) : (s.updPort p f).config = s.config :=
  rfl
@[simp] theorem State.updPort_supervised (s : State) (p : Port) (f : PortRec → PortRec) : (s.updPort p f).supervised = s.supervised :=
  rfl
@[simp] theorem State.updPort_supTimer (s : State) (p : Port) (f : PortRec → PortRec) : (s.updPort p f).supTimer = s.supTimer :=
  rfl
@[simp] theorem State.updPort_lapseOwed (s : State) (p : Port) (f : PortRec → PortRec) : (s.updPort p f).lapseOwed = s.lapseOwed :=
  rfl
@[simp] theorem State.updPort_lapseInHand (s : State) (p : Port) (f : PortRec → PortRec) : (s.updPort p f).lapseInHand = s.lapseInHand :=
  rfl
@[simp] theorem State.updPort_units (s : State) (p : Port) (f : PortRec → PortRec) : (s.updPort p f).units = s.units :=
  rfl
@[simp] theorem State.updPort_library (s : State) (p : Port) (f : PortRec → PortRec) : (s.updPort p f).library = s.library :=
  rfl
@[simp] theorem State.updPort_tickets (s : State) (p : Port) (f : PortRec → PortRec) : (s.updPort p f).tickets = s.tickets :=
  rfl
@[simp] theorem State.updPort_counter (s : State) (p : Port) (f : PortRec → PortRec) : (s.updPort p f).counter = s.counter :=
  rfl
@[simp] theorem State.updPort_alm (s : State) (p : Port) (f : PortRec → PortRec) : (s.updPort p f).alm = s.alm := rfl
@[simp] theorem State.updPort_sweepCfg (s : State) (p : Port) (f : PortRec → PortRec) : (s.updPort p f).sweepCfg = s.sweepCfg :=
  rfl
@[simp] theorem State.updPort_sweep (s : State) (p : Port) (f : PortRec → PortRec) : (s.updPort p f).sweep = s.sweep :=
  rfl
@[simp] theorem State.updPort_retest (s : State) (p : Port) (f : PortRec → PortRec) : (s.updPort p f).retest = s.retest :=
  rfl
@[simp] theorem State.updPort_rsTests (s : State) (p : Port) (f : PortRec → PortRec) : (s.updPort p f).rsTests = s.rsTests :=
  rfl
@[simp] theorem State.updPort_clock (s : State) (p : Port) (f : PortRec → PortRec) : (s.updPort p f).clock = s.clock :=
  rfl
@[simp] theorem State.updPort_store (s : State) (p : Port) (f : PortRec → PortRec) : (s.updPort p f).store = s.store :=
  rfl
@[simp] theorem State.updPort_draws (s : State) (p : Port) (f : PortRec → PortRec) : (s.updPort p f).draws = s.draws :=
  rfl
@[simp] theorem State.updPort_pending (s : State) (p : Port) (f : PortRec → PortRec) : (s.updPort p f).pending = s.pending :=
  rfl
@[simp] theorem State.updPort_line (s : State) (p : Port) (f : PortRec → PortRec) (k : LineId) : (s.updPort p f).line k = s.line k :=
  rfl
@[simp] theorem State.updPort_bus (s : State) (p : Port) (f : PortRec → PortRec) (c : BusId) : (s.updPort p f).bus c = s.bus c :=
  rfl
@[simp] theorem State.updPort_mu (s : State) (p : Port) (f : PortRec → PortRec) (v : MuId) : (s.updPort p f).mu v = s.mu v :=
  rfl
@[simp] theorem State.updPort_slot (s : State) (p : Port) (f : PortRec → PortRec) (m : SlotId) : (s.updPort p f).slot m = s.slot m :=
  rfl
@[simp] theorem State.updPort_isRunning (s : State) (p : Port) (f : PortRec → PortRec) : (s.updPort p f).isRunning = s.isRunning :=
  rfl

/-! ### updLine -/

@[simp] theorem State.updLine_now (s : State) (l : LineId) (f : LineRec → LineRec) : (s.updLine l f).now = s.now := rfl
@[simp] theorem State.updLine_ports (s : State) (l : LineId) (f : LineRec → LineRec) : (s.updLine l f).ports = s.ports :=
  rfl
@[simp] theorem State.updLine_linkRate (s : State) (l : LineId) (f : LineRec → LineRec) : (s.updLine l f).linkRate = s.linkRate :=
  rfl
@[simp] theorem State.updLine_lines (s : State) (l : LineId) (f : LineRec → LineRec) : (s.updLine l f).lines = s.lines.set l (f (s.line l)) :=
  rfl
@[simp] theorem State.updLine_classes (s : State) (l : LineId) (f : LineRec → LineRec) : (s.updLine l f).classes = s.classes :=
  rfl
@[simp] theorem State.updLine_buses (s : State) (l : LineId) (f : LineRec → LineRec) : (s.updLine l f).buses = s.buses :=
  rfl
@[simp] theorem State.updLine_waitQueue (s : State) (l : LineId) (f : LineRec → LineRec) : (s.updLine l f).waitQueue = s.waitQueue :=
  rfl
@[simp] theorem State.updLine_config (s : State) (l : LineId) (f : LineRec → LineRec) : (s.updLine l f).config = s.config :=
  rfl
@[simp] theorem State.updLine_supervised (s : State) (l : LineId) (f : LineRec → LineRec) : (s.updLine l f).supervised = s.supervised :=
  rfl
@[simp] theorem State.updLine_supTimer (s : State) (l : LineId) (f : LineRec → LineRec) : (s.updLine l f).supTimer = s.supTimer :=
  rfl
@[simp] theorem State.updLine_lapseOwed (s : State) (l : LineId) (f : LineRec → LineRec) : (s.updLine l f).lapseOwed = s.lapseOwed :=
  rfl
@[simp] theorem State.updLine_lapseInHand (s : State) (l : LineId) (f : LineRec → LineRec) : (s.updLine l f).lapseInHand = s.lapseInHand :=
  rfl
@[simp] theorem State.updLine_units (s : State) (l : LineId) (f : LineRec → LineRec) : (s.updLine l f).units = s.units :=
  rfl
@[simp] theorem State.updLine_library (s : State) (l : LineId) (f : LineRec → LineRec) : (s.updLine l f).library = s.library :=
  rfl
@[simp] theorem State.updLine_tickets (s : State) (l : LineId) (f : LineRec → LineRec) : (s.updLine l f).tickets = s.tickets :=
  rfl
@[simp] theorem State.updLine_counter (s : State) (l : LineId) (f : LineRec → LineRec) : (s.updLine l f).counter = s.counter :=
  rfl
@[simp] theorem State.updLine_alm (s : State) (l : LineId) (f : LineRec → LineRec) : (s.updLine l f).alm = s.alm := rfl
@[simp] theorem State.updLine_sweepCfg (s : State) (l : LineId) (f : LineRec → LineRec) : (s.updLine l f).sweepCfg = s.sweepCfg :=
  rfl
@[simp] theorem State.updLine_sweep (s : State) (l : LineId) (f : LineRec → LineRec) : (s.updLine l f).sweep = s.sweep :=
  rfl
@[simp] theorem State.updLine_retest (s : State) (l : LineId) (f : LineRec → LineRec) : (s.updLine l f).retest = s.retest :=
  rfl
@[simp] theorem State.updLine_rsTests (s : State) (l : LineId) (f : LineRec → LineRec) : (s.updLine l f).rsTests = s.rsTests :=
  rfl
@[simp] theorem State.updLine_clock (s : State) (l : LineId) (f : LineRec → LineRec) : (s.updLine l f).clock = s.clock :=
  rfl
@[simp] theorem State.updLine_store (s : State) (l : LineId) (f : LineRec → LineRec) : (s.updLine l f).store = s.store :=
  rfl
@[simp] theorem State.updLine_draws (s : State) (l : LineId) (f : LineRec → LineRec) : (s.updLine l f).draws = s.draws :=
  rfl
@[simp] theorem State.updLine_pending (s : State) (l : LineId) (f : LineRec → LineRec) : (s.updLine l f).pending = s.pending :=
  rfl
@[simp] theorem State.updLine_port (s : State) (l : LineId) (f : LineRec → LineRec) (q : Port) : (s.updLine l f).port q = s.port q :=
  rfl
@[simp] theorem State.updLine_bus (s : State) (l : LineId) (f : LineRec → LineRec) (c : BusId) : (s.updLine l f).bus c = s.bus c :=
  rfl
@[simp] theorem State.updLine_mu (s : State) (l : LineId) (f : LineRec → LineRec) (v : MuId) : (s.updLine l f).mu v = s.mu v :=
  rfl
@[simp] theorem State.updLine_slot (s : State) (l : LineId) (f : LineRec → LineRec) (m : SlotId) : (s.updLine l f).slot m = s.slot m :=
  rfl
@[simp] theorem State.updLine_isRunning (s : State) (l : LineId) (f : LineRec → LineRec) : (s.updLine l f).isRunning = s.isRunning :=
  rfl

/-! ### updBus -/

@[simp] theorem State.updBus_now (s : State) (b : BusId) (f : BusRec → BusRec) : (s.updBus b f).now = s.now := rfl
@[simp] theorem State.updBus_ports (s : State) (b : BusId) (f : BusRec → BusRec) : (s.updBus b f).ports = s.ports :=
  rfl
@[simp] theorem State.updBus_linkRate (s : State) (b : BusId) (f : BusRec → BusRec) : (s.updBus b f).linkRate = s.linkRate :=
  rfl
@[simp] theorem State.updBus_lines (s : State) (b : BusId) (f : BusRec → BusRec) : (s.updBus b f).lines = s.lines :=
  rfl
@[simp] theorem State.updBus_classes (s : State) (b : BusId) (f : BusRec → BusRec) : (s.updBus b f).classes = s.classes :=
  rfl
@[simp] theorem State.updBus_buses (s : State) (b : BusId) (f : BusRec → BusRec) : (s.updBus b f).buses = s.buses.set b (f (s.bus b)) :=
  rfl
@[simp] theorem State.updBus_waitQueue (s : State) (b : BusId) (f : BusRec → BusRec) : (s.updBus b f).waitQueue = s.waitQueue :=
  rfl
@[simp] theorem State.updBus_config (s : State) (b : BusId) (f : BusRec → BusRec) : (s.updBus b f).config = s.config :=
  rfl
@[simp] theorem State.updBus_supervised (s : State) (b : BusId) (f : BusRec → BusRec) : (s.updBus b f).supervised = s.supervised :=
  rfl
@[simp] theorem State.updBus_supTimer (s : State) (b : BusId) (f : BusRec → BusRec) : (s.updBus b f).supTimer = s.supTimer :=
  rfl
@[simp] theorem State.updBus_lapseOwed (s : State) (b : BusId) (f : BusRec → BusRec) : (s.updBus b f).lapseOwed = s.lapseOwed :=
  rfl
@[simp] theorem State.updBus_lapseInHand (s : State) (b : BusId) (f : BusRec → BusRec) : (s.updBus b f).lapseInHand = s.lapseInHand :=
  rfl
@[simp] theorem State.updBus_units (s : State) (b : BusId) (f : BusRec → BusRec) : (s.updBus b f).units = s.units :=
  rfl
@[simp] theorem State.updBus_library (s : State) (b : BusId) (f : BusRec → BusRec) : (s.updBus b f).library = s.library :=
  rfl
@[simp] theorem State.updBus_tickets (s : State) (b : BusId) (f : BusRec → BusRec) : (s.updBus b f).tickets = s.tickets :=
  rfl
@[simp] theorem State.updBus_counter (s : State) (b : BusId) (f : BusRec → BusRec) : (s.updBus b f).counter = s.counter :=
  rfl
@[simp] theorem State.updBus_alm (s : State) (b : BusId) (f : BusRec → BusRec) : (s.updBus b f).alm = s.alm := rfl
@[simp] theorem State.updBus_sweepCfg (s : State) (b : BusId) (f : BusRec → BusRec) : (s.updBus b f).sweepCfg = s.sweepCfg :=
  rfl
@[simp] theorem State.updBus_sweep (s : State) (b : BusId) (f : BusRec → BusRec) : (s.updBus b f).sweep = s.sweep :=
  rfl
@[simp] theorem State.updBus_retest (s : State) (b : BusId) (f : BusRec → BusRec) : (s.updBus b f).retest = s.retest :=
  rfl
@[simp] theorem State.updBus_rsTests (s : State) (b : BusId) (f : BusRec → BusRec) : (s.updBus b f).rsTests = s.rsTests :=
  rfl
@[simp] theorem State.updBus_clock (s : State) (b : BusId) (f : BusRec → BusRec) : (s.updBus b f).clock = s.clock :=
  rfl
@[simp] theorem State.updBus_store (s : State) (b : BusId) (f : BusRec → BusRec) : (s.updBus b f).store = s.store :=
  rfl
@[simp] theorem State.updBus_draws (s : State) (b : BusId) (f : BusRec → BusRec) : (s.updBus b f).draws = s.draws :=
  rfl
@[simp] theorem State.updBus_pending (s : State) (b : BusId) (f : BusRec → BusRec) : (s.updBus b f).pending = s.pending :=
  rfl
@[simp] theorem State.updBus_port (s : State) (b : BusId) (f : BusRec → BusRec) (q : Port) : (s.updBus b f).port q = s.port q :=
  rfl
@[simp] theorem State.updBus_line (s : State) (b : BusId) (f : BusRec → BusRec) (k : LineId) : (s.updBus b f).line k = s.line k :=
  rfl
@[simp] theorem State.updBus_mu (s : State) (b : BusId) (f : BusRec → BusRec) (v : MuId) : (s.updBus b f).mu v = s.mu v :=
  rfl
@[simp] theorem State.updBus_slot (s : State) (b : BusId) (f : BusRec → BusRec) (m : SlotId) : (s.updBus b f).slot m = s.slot m :=
  rfl
@[simp] theorem State.updBus_isRunning (s : State) (b : BusId) (f : BusRec → BusRec) : (s.updBus b f).isRunning = s.isRunning :=
  rfl

/-! ### updMu -/

@[simp] theorem State.updMu_now (s : State) (u : MuId) (f : MuRec → MuRec) : (s.updMu u f).now = s.now := rfl
@[simp] theorem State.updMu_ports (s : State) (u : MuId) (f : MuRec → MuRec) : (s.updMu u f).ports = s.ports := rfl
@[simp] theorem State.updMu_linkRate (s : State) (u : MuId) (f : MuRec → MuRec) : (s.updMu u f).linkRate = s.linkRate :=
  rfl
@[simp] theorem State.updMu_lines (s : State) (u : MuId) (f : MuRec → MuRec) : (s.updMu u f).lines = s.lines := rfl
@[simp] theorem State.updMu_classes (s : State) (u : MuId) (f : MuRec → MuRec) : (s.updMu u f).classes = s.classes :=
  rfl
@[simp] theorem State.updMu_buses (s : State) (u : MuId) (f : MuRec → MuRec) : (s.updMu u f).buses = s.buses := rfl
@[simp] theorem State.updMu_waitQueue (s : State) (u : MuId) (f : MuRec → MuRec) : (s.updMu u f).waitQueue = s.waitQueue :=
  rfl
@[simp] theorem State.updMu_config (s : State) (u : MuId) (f : MuRec → MuRec) : (s.updMu u f).config = s.config := rfl
@[simp] theorem State.updMu_supervised (s : State) (u : MuId) (f : MuRec → MuRec) : (s.updMu u f).supervised = s.supervised :=
  rfl
@[simp] theorem State.updMu_supTimer (s : State) (u : MuId) (f : MuRec → MuRec) : (s.updMu u f).supTimer = s.supTimer :=
  rfl
@[simp] theorem State.updMu_lapseOwed (s : State) (u : MuId) (f : MuRec → MuRec) : (s.updMu u f).lapseOwed = s.lapseOwed :=
  rfl
@[simp] theorem State.updMu_lapseInHand (s : State) (u : MuId) (f : MuRec → MuRec) : (s.updMu u f).lapseInHand = s.lapseInHand :=
  rfl
@[simp] theorem State.updMu_units (s : State) (u : MuId) (f : MuRec → MuRec) : (s.updMu u f).units = s.units.set u (f (s.mu u)) :=
  rfl
@[simp] theorem State.updMu_library (s : State) (u : MuId) (f : MuRec → MuRec) : (s.updMu u f).library = s.library :=
  rfl
@[simp] theorem State.updMu_tickets (s : State) (u : MuId) (f : MuRec → MuRec) : (s.updMu u f).tickets = s.tickets :=
  rfl
@[simp] theorem State.updMu_counter (s : State) (u : MuId) (f : MuRec → MuRec) : (s.updMu u f).counter = s.counter :=
  rfl
@[simp] theorem State.updMu_alm (s : State) (u : MuId) (f : MuRec → MuRec) : (s.updMu u f).alm = s.alm := rfl
@[simp] theorem State.updMu_sweepCfg (s : State) (u : MuId) (f : MuRec → MuRec) : (s.updMu u f).sweepCfg = s.sweepCfg :=
  rfl
@[simp] theorem State.updMu_sweep (s : State) (u : MuId) (f : MuRec → MuRec) : (s.updMu u f).sweep = s.sweep := rfl
@[simp] theorem State.updMu_retest (s : State) (u : MuId) (f : MuRec → MuRec) : (s.updMu u f).retest = s.retest := rfl
@[simp] theorem State.updMu_rsTests (s : State) (u : MuId) (f : MuRec → MuRec) : (s.updMu u f).rsTests = s.rsTests :=
  rfl
@[simp] theorem State.updMu_clock (s : State) (u : MuId) (f : MuRec → MuRec) : (s.updMu u f).clock = s.clock := rfl
@[simp] theorem State.updMu_store (s : State) (u : MuId) (f : MuRec → MuRec) : (s.updMu u f).store = s.store := rfl
@[simp] theorem State.updMu_draws (s : State) (u : MuId) (f : MuRec → MuRec) : (s.updMu u f).draws = s.draws := rfl
@[simp] theorem State.updMu_pending (s : State) (u : MuId) (f : MuRec → MuRec) : (s.updMu u f).pending = s.pending :=
  rfl
@[simp] theorem State.updMu_port (s : State) (u : MuId) (f : MuRec → MuRec) (q : Port) : (s.updMu u f).port q = s.port q :=
  rfl
@[simp] theorem State.updMu_line (s : State) (u : MuId) (f : MuRec → MuRec) (k : LineId) : (s.updMu u f).line k = s.line k :=
  rfl
@[simp] theorem State.updMu_bus (s : State) (u : MuId) (f : MuRec → MuRec) (c : BusId) : (s.updMu u f).bus c = s.bus c :=
  rfl
@[simp] theorem State.updMu_slot (s : State) (u : MuId) (f : MuRec → MuRec) (m : SlotId) : (s.updMu u f).slot m = s.slot m :=
  rfl
@[simp] theorem State.updMu_isRunning (s : State) (u : MuId) (f : MuRec → MuRec) : (s.updMu u f).isRunning = s.isRunning :=
  rfl

/-! ### enqueue -/

@[simp] theorem State.enqueue_now (s : State) (p : Port) (tag : Option Byte) (body : ReportBody) : (s.enqueue p tag body).now = s.now :=
  rfl
@[simp] theorem State.enqueue_linkRate (s : State) (p : Port) (tag : Option Byte) (body : ReportBody) : (s.enqueue p tag body).linkRate = s.linkRate :=
  rfl
@[simp] theorem State.enqueue_lines (s : State) (p : Port) (tag : Option Byte) (body : ReportBody) : (s.enqueue p tag body).lines = s.lines :=
  rfl
@[simp] theorem State.enqueue_classes (s : State) (p : Port) (tag : Option Byte) (body : ReportBody) : (s.enqueue p tag body).classes = s.classes :=
  rfl
@[simp] theorem State.enqueue_buses (s : State) (p : Port) (tag : Option Byte) (body : ReportBody) : (s.enqueue p tag body).buses = s.buses :=
  rfl
@[simp] theorem State.enqueue_waitQueue (s : State) (p : Port) (tag : Option Byte) (body : ReportBody) : (s.enqueue p tag body).waitQueue = s.waitQueue :=
  rfl
@[simp] theorem State.enqueue_config (s : State) (p : Port) (tag : Option Byte) (body : ReportBody) : (s.enqueue p tag body).config = s.config :=
  rfl
@[simp] theorem State.enqueue_supervised (s : State) (p : Port) (tag : Option Byte) (body : ReportBody) : (s.enqueue p tag body).supervised = s.supervised :=
  rfl
@[simp] theorem State.enqueue_supTimer (s : State) (p : Port) (tag : Option Byte) (body : ReportBody) : (s.enqueue p tag body).supTimer = s.supTimer :=
  rfl
@[simp] theorem State.enqueue_lapseOwed (s : State) (p : Port) (tag : Option Byte) (body : ReportBody) : (s.enqueue p tag body).lapseOwed = s.lapseOwed :=
  rfl
@[simp] theorem State.enqueue_lapseInHand (s : State) (p : Port) (tag : Option Byte) (body : ReportBody) : (s.enqueue p tag body).lapseInHand = s.lapseInHand :=
  rfl
@[simp] theorem State.enqueue_units (s : State) (p : Port) (tag : Option Byte) (body : ReportBody) : (s.enqueue p tag body).units = s.units :=
  rfl
@[simp] theorem State.enqueue_library (s : State) (p : Port) (tag : Option Byte) (body : ReportBody) : (s.enqueue p tag body).library = s.library :=
  rfl
@[simp] theorem State.enqueue_tickets (s : State) (p : Port) (tag : Option Byte) (body : ReportBody) : (s.enqueue p tag body).tickets = s.tickets :=
  rfl
@[simp] theorem State.enqueue_counter (s : State) (p : Port) (tag : Option Byte) (body : ReportBody) : (s.enqueue p tag body).counter = s.counter :=
  rfl
@[simp] theorem State.enqueue_alm (s : State) (p : Port) (tag : Option Byte) (body : ReportBody) : (s.enqueue p tag body).alm = s.alm :=
  rfl
@[simp] theorem State.enqueue_sweepCfg (s : State) (p : Port) (tag : Option Byte) (body : ReportBody) : (s.enqueue p tag body).sweepCfg = s.sweepCfg :=
  rfl
@[simp] theorem State.enqueue_sweep (s : State) (p : Port) (tag : Option Byte) (body : ReportBody) : (s.enqueue p tag body).sweep = s.sweep :=
  rfl
@[simp] theorem State.enqueue_retest (s : State) (p : Port) (tag : Option Byte) (body : ReportBody) : (s.enqueue p tag body).retest = s.retest :=
  rfl
@[simp] theorem State.enqueue_rsTests (s : State) (p : Port) (tag : Option Byte) (body : ReportBody) : (s.enqueue p tag body).rsTests = s.rsTests :=
  rfl
@[simp] theorem State.enqueue_clock (s : State) (p : Port) (tag : Option Byte) (body : ReportBody) : (s.enqueue p tag body).clock = s.clock :=
  rfl
@[simp] theorem State.enqueue_store (s : State) (p : Port) (tag : Option Byte) (body : ReportBody) : (s.enqueue p tag body).store = s.store :=
  rfl
@[simp] theorem State.enqueue_draws (s : State) (p : Port) (tag : Option Byte) (body : ReportBody) : (s.enqueue p tag body).draws = s.draws :=
  rfl
@[simp] theorem State.enqueue_pending (s : State) (p : Port) (tag : Option Byte) (body : ReportBody) : (s.enqueue p tag body).pending = s.pending :=
  rfl
@[simp] theorem State.enqueue_line (s : State) (p : Port) (tag : Option Byte) (body : ReportBody) (k : LineId) : (s.enqueue p tag body).line k = s.line k :=
  rfl
@[simp] theorem State.enqueue_bus (s : State) (p : Port) (tag : Option Byte) (body : ReportBody) (c : BusId) : (s.enqueue p tag body).bus c = s.bus c :=
  rfl
@[simp] theorem State.enqueue_mu (s : State) (p : Port) (tag : Option Byte) (body : ReportBody) (v : MuId) : (s.enqueue p tag body).mu v = s.mu v :=
  rfl
@[simp] theorem State.enqueue_slot (s : State) (p : Port) (tag : Option Byte) (body : ReportBody) (m : SlotId) : (s.enqueue p tag body).slot m = s.slot m :=
  rfl
@[simp] theorem State.enqueue_isRunning (s : State) (p : Port) (tag : Option Byte) (body : ReportBody) : (s.enqueue p tag body).isRunning = s.isRunning :=
  rfl

/-! ### markLost -/

@[simp] theorem State.markLost_now (s : State) (p : Port) : (s.markLost p).now = s.now := rfl
@[simp] theorem State.markLost_linkRate (s : State) (p : Port) : (s.markLost p).linkRate = s.linkRate := rfl
@[simp] theorem State.markLost_lines (s : State) (p : Port) : (s.markLost p).lines = s.lines := rfl
@[simp] theorem State.markLost_classes (s : State) (p : Port) : (s.markLost p).classes = s.classes := rfl
@[simp] theorem State.markLost_buses (s : State) (p : Port) : (s.markLost p).buses = s.buses := rfl
@[simp] theorem State.markLost_waitQueue (s : State) (p : Port) : (s.markLost p).waitQueue = s.waitQueue := rfl
@[simp] theorem State.markLost_config (s : State) (p : Port) : (s.markLost p).config = s.config := rfl
@[simp] theorem State.markLost_supervised (s : State) (p : Port) : (s.markLost p).supervised = s.supervised := rfl
@[simp] theorem State.markLost_supTimer (s : State) (p : Port) : (s.markLost p).supTimer = s.supTimer := rfl
@[simp] theorem State.markLost_lapseOwed (s : State) (p : Port) : (s.markLost p).lapseOwed = s.lapseOwed := rfl
@[simp] theorem State.markLost_lapseInHand (s : State) (p : Port) : (s.markLost p).lapseInHand = s.lapseInHand := rfl
@[simp] theorem State.markLost_units (s : State) (p : Port) : (s.markLost p).units = s.units := rfl
@[simp] theorem State.markLost_library (s : State) (p : Port) : (s.markLost p).library = s.library := rfl
@[simp] theorem State.markLost_tickets (s : State) (p : Port) : (s.markLost p).tickets = s.tickets := rfl
@[simp] theorem State.markLost_counter (s : State) (p : Port) : (s.markLost p).counter = s.counter := rfl
@[simp] theorem State.markLost_alm (s : State) (p : Port) : (s.markLost p).alm = s.alm := rfl
@[simp] theorem State.markLost_sweepCfg (s : State) (p : Port) : (s.markLost p).sweepCfg = s.sweepCfg := rfl
@[simp] theorem State.markLost_sweep (s : State) (p : Port) : (s.markLost p).sweep = s.sweep := rfl
@[simp] theorem State.markLost_retest (s : State) (p : Port) : (s.markLost p).retest = s.retest := rfl
@[simp] theorem State.markLost_rsTests (s : State) (p : Port) : (s.markLost p).rsTests = s.rsTests := rfl
@[simp] theorem State.markLost_clock (s : State) (p : Port) : (s.markLost p).clock = s.clock := rfl
@[simp] theorem State.markLost_store (s : State) (p : Port) : (s.markLost p).store = s.store := rfl
@[simp] theorem State.markLost_draws (s : State) (p : Port) : (s.markLost p).draws = s.draws := rfl
@[simp] theorem State.markLost_pending (s : State) (p : Port) : (s.markLost p).pending = s.pending := rfl
@[simp] theorem State.markLost_line (s : State) (p : Port) (k : LineId) : (s.markLost p).line k = s.line k := rfl
@[simp] theorem State.markLost_bus (s : State) (p : Port) (c : BusId) : (s.markLost p).bus c = s.bus c := rfl
@[simp] theorem State.markLost_mu (s : State) (p : Port) (v : MuId) : (s.markLost p).mu v = s.mu v := rfl
@[simp] theorem State.markLost_slot (s : State) (p : Port) (m : SlotId) : (s.markLost p).slot m = s.slot m := rfl
@[simp] theorem State.markLost_isRunning (s : State) (p : Port) : (s.markLost p).isRunning = s.isRunning := rfl

/-! ### emptyQueue -/

@[simp] theorem State.emptyQueue_now (s : State) (p : Port) : (s.emptyQueue p).now = s.now := rfl
@[simp] theorem State.emptyQueue_linkRate (s : State) (p : Port) : (s.emptyQueue p).linkRate = s.linkRate := rfl
@[simp] theorem State.emptyQueue_lines (s : State) (p : Port) : (s.emptyQueue p).lines = s.lines := rfl
@[simp] theorem State.emptyQueue_classes (s : State) (p : Port) : (s.emptyQueue p).classes = s.classes := rfl
@[simp] theorem State.emptyQueue_buses (s : State) (p : Port) : (s.emptyQueue p).buses = s.buses := rfl
@[simp] theorem State.emptyQueue_waitQueue (s : State) (p : Port) : (s.emptyQueue p).waitQueue = s.waitQueue := rfl
@[simp] theorem State.emptyQueue_config (s : State) (p : Port) : (s.emptyQueue p).config = s.config := rfl
@[simp] theorem State.emptyQueue_supervised (s : State) (p : Port) : (s.emptyQueue p).supervised = s.supervised := rfl
@[simp] theorem State.emptyQueue_supTimer (s : State) (p : Port) : (s.emptyQueue p).supTimer = s.supTimer := rfl
@[simp] theorem State.emptyQueue_lapseOwed (s : State) (p : Port) : (s.emptyQueue p).lapseOwed = s.lapseOwed := rfl
@[simp] theorem State.emptyQueue_lapseInHand (s : State) (p : Port) : (s.emptyQueue p).lapseInHand = s.lapseInHand :=
  rfl
@[simp] theorem State.emptyQueue_units (s : State) (p : Port) : (s.emptyQueue p).units = s.units := rfl
@[simp] theorem State.emptyQueue_library (s : State) (p : Port) : (s.emptyQueue p).library = s.library := rfl
@[simp] theorem State.emptyQueue_tickets (s : State) (p : Port) : (s.emptyQueue p).tickets = s.tickets := rfl
@[simp] theorem State.emptyQueue_counter (s : State) (p : Port) : (s.emptyQueue p).counter = s.counter := rfl
@[simp] theorem State.emptyQueue_alm (s : State) (p : Port) : (s.emptyQueue p).alm = s.alm := rfl
@[simp] theorem State.emptyQueue_sweepCfg (s : State) (p : Port) : (s.emptyQueue p).sweepCfg = s.sweepCfg := rfl
@[simp] theorem State.emptyQueue_sweep (s : State) (p : Port) : (s.emptyQueue p).sweep = s.sweep := rfl
@[simp] theorem State.emptyQueue_retest (s : State) (p : Port) : (s.emptyQueue p).retest = s.retest := rfl
@[simp] theorem State.emptyQueue_rsTests (s : State) (p : Port) : (s.emptyQueue p).rsTests = s.rsTests := rfl
@[simp] theorem State.emptyQueue_clock (s : State) (p : Port) : (s.emptyQueue p).clock = s.clock := rfl
@[simp] theorem State.emptyQueue_store (s : State) (p : Port) : (s.emptyQueue p).store = s.store := rfl
@[simp] theorem State.emptyQueue_draws (s : State) (p : Port) : (s.emptyQueue p).draws = s.draws := rfl
@[simp] theorem State.emptyQueue_pending (s : State) (p : Port) : (s.emptyQueue p).pending = s.pending := rfl
@[simp] theorem State.emptyQueue_line (s : State) (p : Port) (k : LineId) : (s.emptyQueue p).line k = s.line k := rfl
@[simp] theorem State.emptyQueue_bus (s : State) (p : Port) (c : BusId) : (s.emptyQueue p).bus c = s.bus c := rfl
@[simp] theorem State.emptyQueue_mu (s : State) (p : Port) (v : MuId) : (s.emptyQueue p).mu v = s.mu v := rfl
@[simp] theorem State.emptyQueue_slot (s : State) (p : Port) (m : SlotId) : (s.emptyQueue p).slot m = s.slot m := rfl
@[simp] theorem State.emptyQueue_isRunning (s : State) (p : Port) : (s.emptyQueue p).isRunning = s.isRunning := rfl

/-! ### clearMarker -/

@[simp] theorem State.clearMarker_now (s : State) (p : Port) : (s.clearMarker p).now = s.now := rfl
@[simp] theorem State.clearMarker_linkRate (s : State) (p : Port) : (s.clearMarker p).linkRate = s.linkRate := rfl
@[simp] theorem State.clearMarker_lines (s : State) (p : Port) : (s.clearMarker p).lines = s.lines := rfl
@[simp] theorem State.clearMarker_classes (s : State) (p : Port) : (s.clearMarker p).classes = s.classes := rfl
@[simp] theorem State.clearMarker_buses (s : State) (p : Port) : (s.clearMarker p).buses = s.buses := rfl
@[simp] theorem State.clearMarker_waitQueue (s : State) (p : Port) : (s.clearMarker p).waitQueue = s.waitQueue := rfl
@[simp] theorem State.clearMarker_config (s : State) (p : Port) : (s.clearMarker p).config = s.config := rfl
@[simp] theorem State.clearMarker_supervised (s : State) (p : Port) : (s.clearMarker p).supervised = s.supervised :=
  rfl
@[simp] theorem State.clearMarker_supTimer (s : State) (p : Port) : (s.clearMarker p).supTimer = s.supTimer := rfl
@[simp] theorem State.clearMarker_lapseOwed (s : State) (p : Port) : (s.clearMarker p).lapseOwed = s.lapseOwed := rfl
@[simp] theorem State.clearMarker_lapseInHand (s : State) (p : Port) : (s.clearMarker p).lapseInHand = s.lapseInHand :=
  rfl
@[simp] theorem State.clearMarker_units (s : State) (p : Port) : (s.clearMarker p).units = s.units := rfl
@[simp] theorem State.clearMarker_library (s : State) (p : Port) : (s.clearMarker p).library = s.library := rfl
@[simp] theorem State.clearMarker_tickets (s : State) (p : Port) : (s.clearMarker p).tickets = s.tickets := rfl
@[simp] theorem State.clearMarker_counter (s : State) (p : Port) : (s.clearMarker p).counter = s.counter := rfl
@[simp] theorem State.clearMarker_alm (s : State) (p : Port) : (s.clearMarker p).alm = s.alm := rfl
@[simp] theorem State.clearMarker_sweepCfg (s : State) (p : Port) : (s.clearMarker p).sweepCfg = s.sweepCfg := rfl
@[simp] theorem State.clearMarker_sweep (s : State) (p : Port) : (s.clearMarker p).sweep = s.sweep := rfl
@[simp] theorem State.clearMarker_retest (s : State) (p : Port) : (s.clearMarker p).retest = s.retest := rfl
@[simp] theorem State.clearMarker_rsTests (s : State) (p : Port) : (s.clearMarker p).rsTests = s.rsTests := rfl
@[simp] theorem State.clearMarker_clock (s : State) (p : Port) : (s.clearMarker p).clock = s.clock := rfl
@[simp] theorem State.clearMarker_store (s : State) (p : Port) : (s.clearMarker p).store = s.store := rfl
@[simp] theorem State.clearMarker_draws (s : State) (p : Port) : (s.clearMarker p).draws = s.draws := rfl
@[simp] theorem State.clearMarker_pending (s : State) (p : Port) : (s.clearMarker p).pending = s.pending := rfl
@[simp] theorem State.clearMarker_line (s : State) (p : Port) (k : LineId) : (s.clearMarker p).line k = s.line k := rfl
@[simp] theorem State.clearMarker_bus (s : State) (p : Port) (c : BusId) : (s.clearMarker p).bus c = s.bus c := rfl
@[simp] theorem State.clearMarker_mu (s : State) (p : Port) (v : MuId) : (s.clearMarker p).mu v = s.mu v := rfl
@[simp] theorem State.clearMarker_slot (s : State) (p : Port) (m : SlotId) : (s.clearMarker p).slot m = s.slot m := rfl
@[simp] theorem State.clearMarker_isRunning (s : State) (p : Port) : (s.clearMarker p).isRunning = s.isRunning := rfl

/-! ### setAssembly -/

@[simp] theorem State.setAssembly_now (s : State) (p : Port) (a : Assembly) : (s.setAssembly p a).now = s.now := rfl
@[simp] theorem State.setAssembly_linkRate (s : State) (p : Port) (a : Assembly) : (s.setAssembly p a).linkRate = s.linkRate :=
  rfl
@[simp] theorem State.setAssembly_lines (s : State) (p : Port) (a : Assembly) : (s.setAssembly p a).lines = s.lines :=
  rfl
@[simp] theorem State.setAssembly_classes (s : State) (p : Port) (a : Assembly) : (s.setAssembly p a).classes = s.classes :=
  rfl
@[simp] theorem State.setAssembly_buses (s : State) (p : Port) (a : Assembly) : (s.setAssembly p a).buses = s.buses :=
  rfl
@[simp] theorem State.setAssembly_waitQueue (s : State) (p : Port) (a : Assembly) : (s.setAssembly p a).waitQueue = s.waitQueue :=
  rfl
@[simp] theorem State.setAssembly_config (s : State) (p : Port) (a : Assembly) : (s.setAssembly p a).config = s.config :=
  rfl
@[simp] theorem State.setAssembly_supervised (s : State) (p : Port) (a : Assembly) : (s.setAssembly p a).supervised = s.supervised :=
  rfl
@[simp] theorem State.setAssembly_supTimer (s : State) (p : Port) (a : Assembly) : (s.setAssembly p a).supTimer = s.supTimer :=
  rfl
@[simp] theorem State.setAssembly_lapseOwed (s : State) (p : Port) (a : Assembly) : (s.setAssembly p a).lapseOwed = s.lapseOwed :=
  rfl
@[simp] theorem State.setAssembly_lapseInHand (s : State) (p : Port) (a : Assembly) : (s.setAssembly p a).lapseInHand = s.lapseInHand :=
  rfl
@[simp] theorem State.setAssembly_units (s : State) (p : Port) (a : Assembly) : (s.setAssembly p a).units = s.units :=
  rfl
@[simp] theorem State.setAssembly_library (s : State) (p : Port) (a : Assembly) : (s.setAssembly p a).library = s.library :=
  rfl
@[simp] theorem State.setAssembly_tickets (s : State) (p : Port) (a : Assembly) : (s.setAssembly p a).tickets = s.tickets :=
  rfl
@[simp] theorem State.setAssembly_counter (s : State) (p : Port) (a : Assembly) : (s.setAssembly p a).counter = s.counter :=
  rfl
@[simp] theorem State.setAssembly_alm (s : State) (p : Port) (a : Assembly) : (s.setAssembly p a).alm = s.alm := rfl
@[simp] theorem State.setAssembly_sweepCfg (s : State) (p : Port) (a : Assembly) : (s.setAssembly p a).sweepCfg = s.sweepCfg :=
  rfl
@[simp] theorem State.setAssembly_sweep (s : State) (p : Port) (a : Assembly) : (s.setAssembly p a).sweep = s.sweep :=
  rfl
@[simp] theorem State.setAssembly_retest (s : State) (p : Port) (a : Assembly) : (s.setAssembly p a).retest = s.retest :=
  rfl
@[simp] theorem State.setAssembly_rsTests (s : State) (p : Port) (a : Assembly) : (s.setAssembly p a).rsTests = s.rsTests :=
  rfl
@[simp] theorem State.setAssembly_clock (s : State) (p : Port) (a : Assembly) : (s.setAssembly p a).clock = s.clock :=
  rfl
@[simp] theorem State.setAssembly_store (s : State) (p : Port) (a : Assembly) : (s.setAssembly p a).store = s.store :=
  rfl
@[simp] theorem State.setAssembly_draws (s : State) (p : Port) (a : Assembly) : (s.setAssembly p a).draws = s.draws :=
  rfl
@[simp] theorem State.setAssembly_pending (s : State) (p : Port) (a : Assembly) : (s.setAssembly p a).pending = s.pending :=
  rfl
@[simp] theorem State.setAssembly_line (s : State) (p : Port) (a : Assembly) (k : LineId) : (s.setAssembly p a).line k = s.line k :=
  rfl
@[simp] theorem State.setAssembly_bus (s : State) (p : Port) (a : Assembly) (c : BusId) : (s.setAssembly p a).bus c = s.bus c :=
  rfl
@[simp] theorem State.setAssembly_mu (s : State) (p : Port) (a : Assembly) (v : MuId) : (s.setAssembly p a).mu v = s.mu v :=
  rfl
@[simp] theorem State.setAssembly_slot (s : State) (p : Port) (a : Assembly) (m : SlotId) : (s.setAssembly p a).slot m = s.slot m :=
  rfl
@[simp] theorem State.setAssembly_isRunning (s : State) (p : Port) (a : Assembly) : (s.setAssembly p a).isRunning = s.isRunning :=
  rfl

/-! ### lapseState -/

@[simp] theorem State.lapseState_now (s : State) : (s.lapseState).now = s.now := rfl
@[simp] theorem State.lapseState_ports (s : State) : (s.lapseState).ports = s.ports := rfl
@[simp] theorem State.lapseState_linkRate (s : State) : (s.lapseState).linkRate = s.linkRate := rfl
@[simp] theorem State.lapseState_lines (s : State) : (s.lapseState).lines = s.lines.map lapsedLine := rfl
@[simp] theorem State.lapseState_classes (s : State) : (s.lapseState).classes = s.classes := rfl
@[simp] theorem State.lapseState_buses (s : State) : (s.lapseState).buses = s.buses := rfl
@[simp] theorem State.lapseState_waitQueue (s : State) : (s.lapseState).waitQueue = s.waitQueue := rfl
@[simp] theorem State.lapseState_config (s : State) : (s.lapseState).config = s.config := rfl
@[simp] theorem State.lapseState_supervised (s : State) : (s.lapseState).supervised = false := rfl
@[simp] theorem State.lapseState_supTimer (s : State) : (s.lapseState).supTimer = none := rfl
@[simp] theorem State.lapseState_lapseOwed (s : State) : (s.lapseState).lapseOwed = s.lapseOwed := rfl
@[simp] theorem State.lapseState_lapseInHand (s : State) : (s.lapseState).lapseInHand = s.lapseInHand := rfl
@[simp] theorem State.lapseState_units (s : State) : (s.lapseState).units = s.units := rfl
@[simp] theorem State.lapseState_library (s : State) : (s.lapseState).library = s.library := rfl
@[simp] theorem State.lapseState_tickets (s : State) : (s.lapseState).tickets = s.tickets := rfl
@[simp] theorem State.lapseState_counter (s : State) : (s.lapseState).counter = s.counter := rfl
@[simp] theorem State.lapseState_alm (s : State) : (s.lapseState).alm = s.alm := rfl
@[simp] theorem State.lapseState_sweepCfg (s : State) : (s.lapseState).sweepCfg = s.sweepCfg := rfl
@[simp] theorem State.lapseState_sweep (s : State) : (s.lapseState).sweep = s.sweep := rfl
@[simp] theorem State.lapseState_retest (s : State) : (s.lapseState).retest = s.retest := rfl
@[simp] theorem State.lapseState_rsTests (s : State) : (s.lapseState).rsTests = s.rsTests := rfl
@[simp] theorem State.lapseState_clock (s : State) : (s.lapseState).clock = s.clock := rfl
@[simp] theorem State.lapseState_store (s : State) : (s.lapseState).store = s.store := rfl
@[simp] theorem State.lapseState_draws (s : State) : (s.lapseState).draws = s.draws := rfl
@[simp] theorem State.lapseState_pending (s : State) : (s.lapseState).pending = s.pending := rfl
@[simp] theorem State.lapseState_port (s : State) (q : Port) : (s.lapseState).port q = s.port q := rfl
@[simp] theorem State.lapseState_bus (s : State) (c : BusId) : (s.lapseState).bus c = s.bus c := rfl
@[simp] theorem State.lapseState_mu (s : State) (v : MuId) : (s.lapseState).mu v = s.mu v := rfl
@[simp] theorem State.lapseState_slot (s : State) (m : SlotId) : (s.lapseState).slot m = s.slot m := rfl
@[simp] theorem State.lapseState_isRunning (s : State) : (s.lapseState).isRunning = s.isRunning := rfl

/-! ### startSupervisionTimer -/

@[simp] theorem State.startSupervisionTimer_now (s : State) : (s.startSupervisionTimer).now = s.now := rfl
@[simp] theorem State.startSupervisionTimer_ports (s : State) : (s.startSupervisionTimer).ports = s.ports := rfl
@[simp] theorem State.startSupervisionTimer_linkRate (s : State) : (s.startSupervisionTimer).linkRate = s.linkRate :=
  rfl
@[simp] theorem State.startSupervisionTimer_lines (s : State) : (s.startSupervisionTimer).lines = s.lines := rfl
@[simp] theorem State.startSupervisionTimer_classes (s : State) : (s.startSupervisionTimer).classes = s.classes := rfl
@[simp] theorem State.startSupervisionTimer_buses (s : State) : (s.startSupervisionTimer).buses = s.buses := rfl
@[simp] theorem State.startSupervisionTimer_waitQueue (s : State) : (s.startSupervisionTimer).waitQueue = s.waitQueue :=
  rfl
@[simp] theorem State.startSupervisionTimer_config (s : State) : (s.startSupervisionTimer).config = s.config := rfl
@[simp] theorem State.startSupervisionTimer_supervised (s : State) : (s.startSupervisionTimer).supervised = s.supervised :=
  rfl
@[simp] theorem State.startSupervisionTimer_supTimer (s : State) : (s.startSupervisionTimer).supTimer = some (s.now + seconds s.config.interval) :=
  rfl
@[simp] theorem State.startSupervisionTimer_lapseOwed (s : State) : (s.startSupervisionTimer).lapseOwed = s.lapseOwed :=
  rfl
@[simp] theorem State.startSupervisionTimer_lapseInHand (s : State) : (s.startSupervisionTimer).lapseInHand = s.lapseInHand :=
  rfl
@[simp] theorem State.startSupervisionTimer_units (s : State) : (s.startSupervisionTimer).units = s.units := rfl
@[simp] theorem State.startSupervisionTimer_library (s : State) : (s.startSupervisionTimer).library = s.library := rfl
@[simp] theorem State.startSupervisionTimer_tickets (s : State) : (s.startSupervisionTimer).tickets = s.tickets := rfl
@[simp] theorem State.startSupervisionTimer_counter (s : State) : (s.startSupervisionTimer).counter = s.counter := rfl
@[simp] theorem State.startSupervisionTimer_alm (s : State) : (s.startSupervisionTimer).alm = s.alm := rfl
@[simp] theorem State.startSupervisionTimer_sweepCfg (s : State) : (s.startSupervisionTimer).sweepCfg = s.sweepCfg :=
  rfl
@[simp] theorem State.startSupervisionTimer_sweep (s : State) : (s.startSupervisionTimer).sweep = s.sweep := rfl
@[simp] theorem State.startSupervisionTimer_retest (s : State) : (s.startSupervisionTimer).retest = s.retest := rfl
@[simp] theorem State.startSupervisionTimer_rsTests (s : State) : (s.startSupervisionTimer).rsTests = s.rsTests := rfl
@[simp] theorem State.startSupervisionTimer_clock (s : State) : (s.startSupervisionTimer).clock = s.clock := rfl
@[simp] theorem State.startSupervisionTimer_store (s : State) : (s.startSupervisionTimer).store = s.store := rfl
@[simp] theorem State.startSupervisionTimer_draws (s : State) : (s.startSupervisionTimer).draws = s.draws := rfl
@[simp] theorem State.startSupervisionTimer_pending (s : State) : (s.startSupervisionTimer).pending = s.pending := rfl
@[simp] theorem State.startSupervisionTimer_port (s : State) (q : Port) : (s.startSupervisionTimer).port q = s.port q :=
  rfl
@[simp] theorem State.startSupervisionTimer_line (s : State) (k : LineId) : (s.startSupervisionTimer).line k = s.line k :=
  rfl
@[simp] theorem State.startSupervisionTimer_bus (s : State) (c : BusId) : (s.startSupervisionTimer).bus c = s.bus c :=
  rfl
@[simp] theorem State.startSupervisionTimer_mu (s : State) (v : MuId) : (s.startSupervisionTimer).mu v = s.mu v := rfl
@[simp] theorem State.startSupervisionTimer_slot (s : State) (m : SlotId) : (s.startSupervisionTimer).slot m = s.slot m :=
  rfl
@[simp] theorem State.startSupervisionTimer_isRunning (s : State) : (s.startSupervisionTimer).isRunning = s.isRunning :=
  rfl

/-! ### startPacing -/

@[simp] theorem State.startPacing_now (s : State) : (s.startPacing).now = s.now := rfl
@[simp] theorem State.startPacing_ports (s : State) : (s.startPacing).ports = s.ports := rfl
@[simp] theorem State.startPacing_linkRate (s : State) : (s.startPacing).linkRate = s.linkRate := rfl
@[simp] theorem State.startPacing_lines (s : State) : (s.startPacing).lines = s.lines := rfl
@[simp] theorem State.startPacing_classes (s : State) : (s.startPacing).classes = s.classes := rfl
@[simp] theorem State.startPacing_buses (s : State) : (s.startPacing).buses = s.buses := rfl
@[simp] theorem State.startPacing_waitQueue (s : State) : (s.startPacing).waitQueue = s.waitQueue := rfl
@[simp] theorem State.startPacing_config (s : State) : (s.startPacing).config = s.config := rfl
@[simp] theorem State.startPacing_supervised (s : State) : (s.startPacing).supervised = s.supervised := rfl
@[simp] theorem State.startPacing_supTimer (s : State) : (s.startPacing).supTimer = s.supTimer := rfl
@[simp] theorem State.startPacing_lapseOwed (s : State) : (s.startPacing).lapseOwed = s.lapseOwed := rfl
@[simp] theorem State.startPacing_lapseInHand (s : State) : (s.startPacing).lapseInHand = s.lapseInHand := rfl
@[simp] theorem State.startPacing_units (s : State) : (s.startPacing).units = s.units := rfl
@[simp] theorem State.startPacing_library (s : State) : (s.startPacing).library = s.library := rfl
@[simp] theorem State.startPacing_tickets (s : State) : (s.startPacing).tickets = s.tickets := rfl
@[simp] theorem State.startPacing_counter (s : State) : (s.startPacing).counter = s.counter := rfl
@[simp] theorem State.startPacing_alm (s : State) : (s.startPacing).alm = s.alm := rfl
@[simp] theorem State.startPacing_sweepCfg (s : State) : (s.startPacing).sweepCfg = s.sweepCfg := rfl
@[simp] theorem State.startPacing_sweep (s : State) : (s.startPacing).sweep = { s.sweep with pacing := some (s.now + seconds s.sweepCfg.pacing) } :=
  rfl
@[simp] theorem State.startPacing_retest (s : State) : (s.startPacing).retest = s.retest := rfl
@[simp] theorem State.startPacing_rsTests (s : State) : (s.startPacing).rsTests = s.rsTests := rfl
@[simp] theorem State.startPacing_clock (s : State) : (s.startPacing).clock = s.clock := rfl
@[simp] theorem State.startPacing_store (s : State) : (s.startPacing).store = s.store := rfl
@[simp] theorem State.startPacing_draws (s : State) : (s.startPacing).draws = s.draws := rfl
@[simp] theorem State.startPacing_pending (s : State) : (s.startPacing).pending = s.pending := rfl
@[simp] theorem State.startPacing_port (s : State) (q : Port) : (s.startPacing).port q = s.port q := rfl
@[simp] theorem State.startPacing_line (s : State) (k : LineId) : (s.startPacing).line k = s.line k := rfl
@[simp] theorem State.startPacing_bus (s : State) (c : BusId) : (s.startPacing).bus c = s.bus c := rfl
@[simp] theorem State.startPacing_mu (s : State) (v : MuId) : (s.startPacing).mu v = s.mu v := rfl
@[simp] theorem State.startPacing_slot (s : State) (m : SlotId) : (s.startPacing).slot m = s.slot m := rfl
@[simp] theorem State.startPacing_isRunning (s : State) : (s.startPacing).isRunning = s.isRunning := rfl

/-! ### clearRest -/

@[simp] theorem State.clearRest_now (s : State) : (s.clearRest).now = s.now := rfl
@[simp] theorem State.clearRest_ports (s : State) : (s.clearRest).ports = s.ports := rfl
@[simp] theorem State.clearRest_linkRate (s : State) : (s.clearRest).linkRate = s.linkRate := rfl
@[simp] theorem State.clearRest_lines (s : State) : (s.clearRest).lines = s.lines := rfl
@[simp] theorem State.clearRest_classes (s : State) : (s.clearRest).classes = s.classes := rfl
@[simp] theorem State.clearRest_buses (s : State) : (s.clearRest).buses = s.buses := rfl
@[simp] theorem State.clearRest_waitQueue (s : State) : (s.clearRest).waitQueue = s.waitQueue := rfl
@[simp] theorem State.clearRest_config (s : State) : (s.clearRest).config = s.config := rfl
@[simp] theorem State.clearRest_supervised (s : State) : (s.clearRest).supervised = s.supervised := rfl
@[simp] theorem State.clearRest_supTimer (s : State) : (s.clearRest).supTimer = s.supTimer := rfl
@[simp] theorem State.clearRest_lapseOwed (s : State) : (s.clearRest).lapseOwed = s.lapseOwed := rfl
@[simp] theorem State.clearRest_lapseInHand (s : State) : (s.clearRest).lapseInHand = s.lapseInHand := rfl
@[simp] theorem State.clearRest_units (s : State) : (s.clearRest).units = s.units := rfl
@[simp] theorem State.clearRest_library (s : State) : (s.clearRest).library = s.library := rfl
@[simp] theorem State.clearRest_tickets (s : State) : (s.clearRest).tickets = s.tickets := rfl
@[simp] theorem State.clearRest_counter (s : State) : (s.clearRest).counter = s.counter := rfl
@[simp] theorem State.clearRest_alm (s : State) : (s.clearRest).alm = s.alm := rfl
@[simp] theorem State.clearRest_sweepCfg (s : State) : (s.clearRest).sweepCfg = s.sweepCfg := rfl
@[simp] theorem State.clearRest_sweep (s : State) : (s.clearRest).sweep = { s.sweep with rest := false } := rfl
@[simp] theorem State.clearRest_retest (s : State) : (s.clearRest).retest = s.retest := rfl
@[simp] theorem State.clearRest_rsTests (s : State) : (s.clearRest).rsTests = s.rsTests := rfl
@[simp] theorem State.clearRest_clock (s : State) : (s.clearRest).clock = s.clock := rfl
@[simp] theorem State.clearRest_store (s : State) : (s.clearRest).store = s.store := rfl
@[simp] theorem State.clearRest_draws (s : State) : (s.clearRest).draws = s.draws := rfl
@[simp] theorem State.clearRest_pending (s : State) : (s.clearRest).pending = s.pending := rfl
@[simp] theorem State.clearRest_port (s : State) (q : Port) : (s.clearRest).port q = s.port q := rfl
@[simp] theorem State.clearRest_line (s : State) (k : LineId) : (s.clearRest).line k = s.line k := rfl
@[simp] theorem State.clearRest_bus (s : State) (c : BusId) : (s.clearRest).bus c = s.bus c := rfl
@[simp] theorem State.clearRest_mu (s : State) (v : MuId) : (s.clearRest).mu v = s.mu v := rfl
@[simp] theorem State.clearRest_slot (s : State) (m : SlotId) : (s.clearRest).slot m = s.slot m := rfl
@[simp] theorem State.clearRest_isRunning (s : State) : (s.clearRest).isRunning = s.isRunning := rfl

/-! ### clearSettingsWrite -/

@[simp] theorem State.clearSettingsWrite_now (s : State) : (s.clearSettingsWrite).now = s.now := rfl
@[simp] theorem State.clearSettingsWrite_ports (s : State) : (s.clearSettingsWrite).ports = s.ports := rfl
@[simp] theorem State.clearSettingsWrite_linkRate (s : State) : (s.clearSettingsWrite).linkRate = s.linkRate := rfl
@[simp] theorem State.clearSettingsWrite_lines (s : State) : (s.clearSettingsWrite).lines = s.lines := rfl
@[simp] theorem State.clearSettingsWrite_classes (s : State) : (s.clearSettingsWrite).classes = s.classes := rfl
@[simp] theorem State.clearSettingsWrite_buses (s : State) : (s.clearSettingsWrite).buses = s.buses := rfl
@[simp] theorem State.clearSettingsWrite_waitQueue (s : State) : (s.clearSettingsWrite).waitQueue = s.waitQueue := rfl
@[simp] theorem State.clearSettingsWrite_config (s : State) : (s.clearSettingsWrite).config = s.config := rfl
@[simp] theorem State.clearSettingsWrite_supervised (s : State) : (s.clearSettingsWrite).supervised = s.supervised :=
  rfl
@[simp] theorem State.clearSettingsWrite_supTimer (s : State) : (s.clearSettingsWrite).supTimer = s.supTimer := rfl
@[simp] theorem State.clearSettingsWrite_lapseOwed (s : State) : (s.clearSettingsWrite).lapseOwed = s.lapseOwed := rfl
@[simp] theorem State.clearSettingsWrite_lapseInHand (s : State) : (s.clearSettingsWrite).lapseInHand = s.lapseInHand :=
  rfl
@[simp] theorem State.clearSettingsWrite_units (s : State) : (s.clearSettingsWrite).units = s.units := rfl
@[simp] theorem State.clearSettingsWrite_library (s : State) : (s.clearSettingsWrite).library = s.library := rfl
@[simp] theorem State.clearSettingsWrite_tickets (s : State) : (s.clearSettingsWrite).tickets = s.tickets := rfl
@[simp] theorem State.clearSettingsWrite_counter (s : State) : (s.clearSettingsWrite).counter = s.counter := rfl
@[simp] theorem State.clearSettingsWrite_alm (s : State) : (s.clearSettingsWrite).alm = s.alm := rfl
@[simp] theorem State.clearSettingsWrite_sweepCfg (s : State) : (s.clearSettingsWrite).sweepCfg = s.sweepCfg := rfl
@[simp] theorem State.clearSettingsWrite_sweep (s : State) : (s.clearSettingsWrite).sweep = s.sweep := rfl
@[simp] theorem State.clearSettingsWrite_retest (s : State) : (s.clearSettingsWrite).retest = s.retest := rfl
@[simp] theorem State.clearSettingsWrite_rsTests (s : State) : (s.clearSettingsWrite).rsTests = s.rsTests := rfl
@[simp] theorem State.clearSettingsWrite_clock (s : State) : (s.clearSettingsWrite).clock = s.clock := rfl
@[simp] theorem State.clearSettingsWrite_store (s : State) : (s.clearSettingsWrite).store = { s.store with settingsWrite := none } :=
  rfl
@[simp] theorem State.clearSettingsWrite_draws (s : State) : (s.clearSettingsWrite).draws = s.draws := rfl
@[simp] theorem State.clearSettingsWrite_pending (s : State) : (s.clearSettingsWrite).pending = s.pending := rfl
@[simp] theorem State.clearSettingsWrite_port (s : State) (q : Port) : (s.clearSettingsWrite).port q = s.port q := rfl
@[simp] theorem State.clearSettingsWrite_line (s : State) (k : LineId) : (s.clearSettingsWrite).line k = s.line k :=
  rfl
@[simp] theorem State.clearSettingsWrite_bus (s : State) (c : BusId) : (s.clearSettingsWrite).bus c = s.bus c := rfl
@[simp] theorem State.clearSettingsWrite_mu (s : State) (v : MuId) : (s.clearSettingsWrite).mu v = s.mu v := rfl
@[simp] theorem State.clearSettingsWrite_slot (s : State) (m : SlotId) : (s.clearSettingsWrite).slot m = s.slot m :=
  rfl

/-! ### writeSlot -/

@[simp] theorem State.writeSlot_now (s : State) (n : SlotId) (x : Option Ticket) : (s.writeSlot n x).now = s.now := rfl
@[simp] theorem State.writeSlot_ports (s : State) (n : SlotId) (x : Option Ticket) : (s.writeSlot n x).ports = s.ports :=
  rfl
@[simp] theorem State.writeSlot_linkRate (s : State) (n : SlotId) (x : Option Ticket) : (s.writeSlot n x).linkRate = s.linkRate :=
  rfl
@[simp] theorem State.writeSlot_lines (s : State) (n : SlotId) (x : Option Ticket) : (s.writeSlot n x).lines = s.lines :=
  rfl
@[simp] theorem State.writeSlot_classes (s : State) (n : SlotId) (x : Option Ticket) : (s.writeSlot n x).classes = s.classes :=
  rfl
@[simp] theorem State.writeSlot_buses (s : State) (n : SlotId) (x : Option Ticket) : (s.writeSlot n x).buses = s.buses :=
  rfl
@[simp] theorem State.writeSlot_waitQueue (s : State) (n : SlotId) (x : Option Ticket) : (s.writeSlot n x).waitQueue = s.waitQueue :=
  rfl
@[simp] theorem State.writeSlot_config (s : State) (n : SlotId) (x : Option Ticket) : (s.writeSlot n x).config = s.config :=
  rfl
@[simp] theorem State.writeSlot_supervised (s : State) (n : SlotId) (x : Option Ticket) : (s.writeSlot n x).supervised = s.supervised :=
  rfl
@[simp] theorem State.writeSlot_supTimer (s : State) (n : SlotId) (x : Option Ticket) : (s.writeSlot n x).supTimer = s.supTimer :=
  rfl
@[simp] theorem State.writeSlot_lapseOwed (s : State) (n : SlotId) (x : Option Ticket) : (s.writeSlot n x).lapseOwed = s.lapseOwed :=
  rfl
@[simp] theorem State.writeSlot_lapseInHand (s : State) (n : SlotId) (x : Option Ticket) : (s.writeSlot n x).lapseInHand = s.lapseInHand :=
  rfl
@[simp] theorem State.writeSlot_units (s : State) (n : SlotId) (x : Option Ticket) : (s.writeSlot n x).units = s.units :=
  rfl
@[simp] theorem State.writeSlot_library (s : State) (n : SlotId) (x : Option Ticket) : (s.writeSlot n x).library = s.library :=
  rfl
@[simp] theorem State.writeSlot_tickets (s : State) (n : SlotId) (x : Option Ticket) : (s.writeSlot n x).tickets = s.tickets.set n x :=
  rfl
@[simp] theorem State.writeSlot_counter (s : State) (n : SlotId) (x : Option Ticket) : (s.writeSlot n x).counter = s.counter :=
  rfl
@[simp] theorem State.writeSlot_alm (s : State) (n : SlotId) (x : Option Ticket) : (s.writeSlot n x).alm = s.alm := rfl
@[simp] theorem State.writeSlot_sweepCfg (s : State) (n : SlotId) (x : Option Ticket) : (s.writeSlot n x).sweepCfg = s.sweepCfg :=
  rfl
@[simp] theorem State.writeSlot_sweep (s : State) (n : SlotId) (x : Option Ticket) : (s.writeSlot n x).sweep = s.sweep :=
  rfl
@[simp] theorem State.writeSlot_retest (s : State) (n : SlotId) (x : Option Ticket) : (s.writeSlot n x).retest = s.retest :=
  rfl
@[simp] theorem State.writeSlot_rsTests (s : State) (n : SlotId) (x : Option Ticket) : (s.writeSlot n x).rsTests = s.rsTests :=
  rfl
@[simp] theorem State.writeSlot_clock (s : State) (n : SlotId) (x : Option Ticket) : (s.writeSlot n x).clock = s.clock :=
  rfl
@[simp] theorem State.writeSlot_store (s : State) (n : SlotId) (x : Option Ticket) : (s.writeSlot n x).store = { s.store with dirty := s.store.dirty.set n true } :=
  rfl
@[simp] theorem State.writeSlot_draws (s : State) (n : SlotId) (x : Option Ticket) : (s.writeSlot n x).draws = s.draws :=
  rfl
@[simp] theorem State.writeSlot_pending (s : State) (n : SlotId) (x : Option Ticket) : (s.writeSlot n x).pending = s.pending :=
  rfl
@[simp] theorem State.writeSlot_port (s : State) (n : SlotId) (x : Option Ticket) (q : Port) : (s.writeSlot n x).port q = s.port q :=
  rfl
@[simp] theorem State.writeSlot_line (s : State) (n : SlotId) (x : Option Ticket) (k : LineId) : (s.writeSlot n x).line k = s.line k :=
  rfl
@[simp] theorem State.writeSlot_bus (s : State) (n : SlotId) (x : Option Ticket) (c : BusId) : (s.writeSlot n x).bus c = s.bus c :=
  rfl
@[simp] theorem State.writeSlot_mu (s : State) (n : SlotId) (x : Option Ticket) (v : MuId) : (s.writeSlot n x).mu v = s.mu v :=
  rfl

end Sys2Proof.Machine
end

