-- ==== Sys2Proof/Laws/Records.lean ====
section
/-!
SUPPORT. Reading a record after a record of the same table has changed.
-/

set_option Elab.async false

namespace Sys2Proof.Machine

theorem portIndex_inj {p q : Port} : portIndex p = portIndex q ↔ p = q := by
  cases p <;> cases q <;> simp [portIndex, Fin.ext_iff] <;> omega

theorem State.port_updPort (s : State) (p q : Port) (f : PortRec → PortRec) :
    (s.updPort p f).port q = if p = q then f (s.port p) else s.port q := by
  simp only [State.port, State.updPort, Tab.get_set, portIndex_inj]

@[simp] theorem State.port_updPort_self (s : State) (p : Port) (f : PortRec → PortRec) :
    (s.updPort p f).port p = f (s.port p) := by simp [State.port_updPort]

theorem State.port_updPort_ne (s : State) {p q : Port} (f : PortRec → PortRec) (h : p ≠ q) :
    (s.updPort p f).port q = s.port q := by simp [State.port_updPort, h]

theorem State.line_updLine (s : State) (l k : LineId) (f : LineRec → LineRec) :
    (s.updLine l f).line k = if l = k then f (s.line l) else s.line k := by
  simp only [State.line, State.updLine, Tab.get_set]

@[simp] theorem State.line_updLine_self (s : State) (l : LineId) (f : LineRec → LineRec) :
    (s.updLine l f).line l = f (s.line l) := by simp [State.line_updLine]

theorem State.line_updLine_ne (s : State) {l k : LineId} (f : LineRec → LineRec) (h : l ≠ k) :
    (s.updLine l f).line k = s.line k := by simp [State.line_updLine, h]

theorem State.bus_updBus (s : State) (b c : BusId) (f : BusRec → BusRec) :
    (s.updBus b f).bus c = if b = c then f (s.bus b) else s.bus c := by
  simp only [State.bus, State.updBus, Tab.get_set]

@[simp] theorem State.bus_updBus_self (s : State) (b : BusId) (f : BusRec → BusRec) :
    (s.updBus b f).bus b = f (s.bus b) := by simp [State.bus_updBus]

theorem State.bus_updBus_ne (s : State) {b c : BusId} (f : BusRec → BusRec) (h : b ≠ c) :
    (s.updBus b f).bus c = s.bus c := by simp [State.bus_updBus, h]

theorem State.mu_updMu (s : State) (u v : MuId) (f : MuRec → MuRec) :
    (s.updMu u f).mu v = if u = v then f (s.mu u) else s.mu v := by
  simp only [State.mu, State.updMu, Tab.get_set]

@[simp] theorem State.mu_updMu_self (s : State) (u : MuId) (f : MuRec → MuRec) :
    (s.updMu u f).mu u = f (s.mu u) := by simp [State.mu_updMu]

theorem State.slot_writeSlot (s : State) (n m : SlotId) (x : Option Ticket) :
    (s.writeSlot n x).slot m = if n = m then x else s.slot m := by
  simp only [State.slot, State.writeSlot, Tab.get_set]

/-! ### Twice the same record -/

@[simp] theorem State.updPort_updPort (s : State) (p : Port) (f g : PortRec → PortRec) :
    (s.updPort p f).updPort p g = s.updPort p fun r => g (f r) := by
  simp [State.updPort, State.port]

@[simp] theorem State.updBus_updBus (s : State) (b : BusId) (f g : BusRec → BusRec) :
    (s.updBus b f).updBus b g = s.updBus b fun r => g (f r) := by
  simp [State.updBus, State.bus]

@[simp] theorem State.updLine_updLine (s : State) (l : LineId) (f g : LineRec → LineRec) :
    (s.updLine l f).updLine l g = s.updLine l fun r => g (f r) := by
  simp [State.updLine, State.line]

@[simp] theorem State.updMu_updMu (s : State) (u : MuId) (f g : MuRec → MuRec) :
    (s.updMu u f).updMu u g = s.updMu u fun r => g (f r) := by
  simp [State.updMu, State.mu]

theorem State.updPort_eq_self (s : State) (p : Port) (f : PortRec → PortRec) (h : f (s.port p) = s.port p) :
    s.updPort p f = s := by
  unfold State.updPort
  rw [h, State.port, Tab.set_get]

/-! ### Equal tables -/

theorem State.port_congr {s t : State} (h : t.ports = s.ports) : t.port = s.port := by
  funext p; rw [State.port, State.port, h]

theorem State.line_congr {s t : State} (h : t.lines = s.lines) : t.line = s.line := by
  funext l; rw [State.line, State.line, h]

theorem State.bus_congr {s t : State} (h : t.buses = s.buses) : t.bus = s.bus := by
  funext b; rw [State.bus, State.bus, h]

theorem State.mu_congr {s t : State} (h : t.units = s.units) : t.mu = s.mu := by
  funext u; rw [State.mu, State.mu, h]

theorem State.slot_congr {s t : State} (h : t.tickets = s.tickets) : t.slot = s.slot := by
  funext n; rw [State.slot, State.slot, h]

/-! ### Indexes -/

theorem finOf?_eq_some {n k : Nat} {i : Fin n} : finOf? n k = some i ↔ k = i.val := by
  simp only [finOf?]
  split
  · simp [Fin.ext_iff]
  · simp only [reduceCtorEq, false_iff]
    have := i.isLt
    omega

theorem finOf?_eq_none {n k : Nat} : finOf? n k = none ↔ n ≤ k := by simp [finOf?]

@[simp] theorem finOf?_val {n : Nat} (i : Fin n) : finOf? n i.val = some i := finOf?_eq_some.2 rfl

end Sys2Proof.Machine
end

