-- ==== Sys2Proof/Laws/Finish.lean ====
section
/-!
SUPPORT. The end of an event, and the arrival of an order in a state that hears it.
-/

set_option Elab.async false

namespace Sys2Proof.Machine

theorem mem_allBuses (b : BusId) : b ∈ allBuses := by revert b; decide

theorem mem_allUnits (u : MuId) : u ∈ allUnits := by revert u; decide

theorem all_free_false {s : State} {b : BusId} (h : (s.bus b).state ≠ .free) :
    (allBuses.all fun b => (s.bus b).state == BusState.free) = false := by
  rw [List.all_eq_false]
  exact ⟨b, mem_allBuses b, by simpa using h⟩

theorem State.settleLapse_of_none {s : State} (h : s.lapseInHand = none) : s.settleLapse = s := by
  simp [State.settleLapse, h]

/-- Between events the end of an event finds nothing to do. -/
theorem State.Settled.finish_eq {s : State} (h : s.Settled) : s.finish = s := by
  have hq : s.accessQuietIfDue = s := by
    unfold State.accessQuietIfDue
    split
    · obtain ⟨hp, ha⟩ := ‹_›
      obtain ⟨b, hb⟩ := h.notQuiet hp
      simp [all_free_false hb] at ha
    · rfl
  have hn : s.store.settingsWrite = none ∧ s.store.anyDirty = false → nextDirty s.store.dirty s.store.lastSlot = none := by
    rintro ⟨-, hd⟩
    have : ∀ x ∈ s.store.dirty.indexed, x.2 = false := by
      rintro ⟨i, d⟩ hx
      have hm : d ∈ s.store.dirty.items := (List.of_mem_zip hx).2
      simpa using List.any_eq_false.1 hd d hm
    have h₁ : ∀ q : SlotId × Bool → Bool, (s.store.dirty.indexed.find? fun x => q x && x.2) = none := by
      intro q
      rw [List.find?_eq_none]
      intro x hx
      simp [this x hx]
    unfold nextDirty
    rw [h₁ fun x => decide (s.store.lastSlot.val < x.1.val), h₁ fun x => decide (x.1.val ≤ s.store.lastSlot.val)]
    rfl
  have hc : s.chooseWrite = s := by
    unfold State.chooseWrite
    simp only
    split
    · rfl
    · have hcond := not_or.1 ‹¬_›
      obtain hp | hp | hp := h.serviceIdle
      · exact absurd hp hcond.1
      · exact absurd hp hcond.2
      · simp [hp.1, hn hp]
  have hd : s.drainEndIfDue = s := by
    unfold State.drainEndIfDue
    split
    · obtain ⟨hp, h₁, h₂, h₃⟩ := ‹_›
      rcases h.notDrained hp with hx | hx | hx
      · cases hs : s.store.settingsWrite <;> simp_all
      · cases hs : s.store.inFlight <;> simp_all
      · exact absurd hx h₃
    · rfl
  simp [State.finish, State.settleLapse_of_none h.noLapse, hq, hc, hd]

/-- What `Settled` depends on: a change of other fields keeps it. -/
theorem State.Settled.congr {s t : State} (h : s.Settled) (h₁ : t.lapseInHand = s.lapseInHand)
    (h₂ : t.store = s.store) (h₃ : ∀ b, (t.bus b).state = .free → (s.bus b).state = .free) : t.Settled where
  noLapse := h₁ ▸ h.noLapse
  notQuiet := fun hp => by
    obtain ⟨b, hb⟩ := h.notQuiet (h₂ ▸ hp)
    exact ⟨b, fun e => hb (h₃ b e)⟩
  serviceIdle := h₂ ▸ h.serviceIdle
  notDrained := h₂ ▸ h.notDrained

theorem State.Settled.congr' {s t : State} (h : s.Settled) (h₁ : t.lapseInHand = s.lapseInHand)
    (h₂ : t.store = s.store) (h₃ : t.buses = s.buses) : t.Settled :=
  h.congr h₁ h₂ fun b hb => by simpa [State.bus, h₃] using hb

theorem State.pushKept_of_room {s : State} {p : Port} (h : s.freeEntries p ≠ 0) (tag : Option Byte) (body : ReportBody) :
    s.pushKept p tag body = s.enqueue p tag body := by simp [State.pushKept, h]

theorem State.reply_of_room {s : State} {c : OrderCtx} (h : s.freeEntries c.port ≠ 0) (code : ReplyCode)
    (data : ReplyData) : s.reply c code data = s.enqueue c.port (some c.tag) (.reply c.code code data) :=
  State.pushKept_of_room h _ _

theorem State.freeEntries_enqueue (s : State) (p q : Port) (tag : Option Byte) (body : ReportBody) :
    (s.enqueue p tag body).freeEntries q = if p = q then s.freeEntries q - 1 else s.freeEntries q := by
  simp only [State.freeEntries, State.enqueue, State.port_updPort]
  split
  · subst_vars; simp [Nat.sub_sub]
  · rfl

/-- A notice put with room for it stands at the tail of the queue. -/
theorem State.pushNotice_of_room {s : State} {p : Port} (h : 8 ≤ s.freeEntries p) (body : ReportBody) :
    s.pushNotice p body = s.enqueue p none body := by
  simp [State.pushNotice, noticeReserve, Nat.not_lt.2 h]

/-- An order of a port other than X, heard and permitted, is handled. -/
theorem State.arrival_of_hears {s : State} {p : Port} (hs : s.Hears p) (hp : p ≠ .x) {k : OrderKind}
    (hk : orderPermits k p = true) (tag : Byte) (handle : OrderCtx → State → State) :
    s.arrival p tag k handle = handle ⟨p, tag, k.code⟩ s := by
  have hr : s.isRunning = true := by simp [State.isRunning, hs.running]
  simp [State.arrival, State.frameArrival, Nat.not_lt.2 hs.room, hp, State.checkedOrder, hk, hr]

/-- An order of X, heard while SUPERVISED, restarts the timer and is handled. -/
theorem State.arrival_of_hearsX {s : State} (hs : s.HearsX) {k : OrderKind} (hk : orderPermits k .x = true) (tag : Byte)
    (handle : OrderCtx → State → State) :
    s.arrival .x tag k handle = handle ⟨.x, tag, k.code⟩ s.startSupervisionTimer := by
  have hr : s.isRunning = true := by simp [State.isRunning, hs.hears.running]
  simp [State.arrival, State.frameArrival, Nat.not_lt.2 hs.hears.room, State.checkedOrder, hk, hr,
    State.validFrameFromX, hs.supervised]

/-- Every command has a next state. -/
theorem exec_next (i : Instr) (s : State) : ∃ t, exec i s = .next t := by
  cases i <;> exact ⟨_, rfl⟩

end Sys2Proof.Machine
end

