-- ==== Sys2Proof/Laws/Reports.lean ====
section
/-!
SUPPORT. What queuing reports can change: once for the relation `Told`, and that each queuing operation stands in it.
-/

set_option Elab.async false

namespace Sys2Proof.Machine

/-- What queuing reports can change: the ports' records, and by an overflow on X the supervision fields and the call
states BUSY and RINGING of lines (R57, R51). -/
structure Told (s t : State) : Prop where
  now : t.now = s.now
  linkRate : t.linkRate = s.linkRate
  classes : t.classes = s.classes
  buses : t.buses = s.buses
  waitQueue : t.waitQueue = s.waitQueue
  config : t.config = s.config
  units : t.units = s.units
  library : t.library = s.library
  tickets : t.tickets = s.tickets
  counter : t.counter = s.counter
  alm : t.alm = s.alm
  sweepCfg : t.sweepCfg = s.sweepCfg
  sweep : t.sweep = s.sweep
  retest : t.retest = s.retest
  rsTests : t.rsTests = s.rsTests
  clock : t.clock = s.clock
  store : t.store = s.store
  draws : t.draws = s.draws
  pending : t.pending = s.pending
  lines : t.lines = s.lines ∨ t.lines = s.lines.map lapsedLine
  supervised : t.supervised = true → s.supervised = true
  bounded : s.QueuesBounded → t.QueuesBounded

theorem lapsedLine_lapsedLine (r : LineRec) : lapsedLine (lapsedLine r) = lapsedLine r := by
  unfold lapsedLine
  rcases r with ⟨_ | _ | _ | _, _, _, _, _, _, _, _⟩ <;> rfl

theorem Tab.map_lapsed_lapsed (t : Tab LineRec 2048) : (t.map lapsedLine).map lapsedLine = t.map lapsedLine :=
  Tab.ext_get fun i => by simp [lapsedLine_lapsedLine]

theorem Told.refl (s : State) : Told s s := by
  constructor <;> first | rfl | exact .inl rfl | exact id

theorem Told.trans {s t u : State} (a : Told s t) (b : Told t u) : Told s u where
  now := b.now.trans a.now
  linkRate := b.linkRate.trans a.linkRate
  classes := b.classes.trans a.classes
  buses := b.buses.trans a.buses
  waitQueue := b.waitQueue.trans a.waitQueue
  config := b.config.trans a.config
  units := b.units.trans a.units
  library := b.library.trans a.library
  tickets := b.tickets.trans a.tickets
  counter := b.counter.trans a.counter
  alm := b.alm.trans a.alm
  sweepCfg := b.sweepCfg.trans a.sweepCfg
  sweep := b.sweep.trans a.sweep
  retest := b.retest.trans a.retest
  rsTests := b.rsTests.trans a.rsTests
  clock := b.clock.trans a.clock
  store := b.store.trans a.store
  draws := b.draws.trans a.draws
  pending := b.pending.trans a.pending
  lines := by
    rcases a.lines with h | h <;> rcases b.lines with k | k <;> rw [k, h]
    · exact .inl rfl
    · exact .inr rfl
    · exact .inr rfl
    · exact .inr (Tab.map_lapsed_lapsed _)
  supervised := a.supervised ∘ b.supervised
  bounded := b.bounded ∘ a.bounded

theorem State.updPort_told (s : State) (p : Port) (f : PortRec → PortRec)
    (h : (s.port p).queue.length ≤ 32 → (f (s.port p)).queue.length ≤ 32) : Told s (s.updPort p f) where
  now := rfl
  linkRate := rfl
  classes := rfl
  buses := rfl
  waitQueue := rfl
  config := rfl
  units := rfl
  library := rfl
  tickets := rfl
  counter := rfl
  alm := rfl
  sweepCfg := rfl
  sweep := rfl
  retest := rfl
  rsTests := rfl
  clock := rfl
  store := rfl
  draws := rfl
  pending := rfl
  lines := .inl rfl
  supervised := id
  bounded := fun hq q => by
    rw [State.port_updPort]
    split
    · exact h (hq p)
    · exact hq q

theorem State.enqueue_told (s : State) (p : Port) (tag : Option Byte) (body : ReportBody)
    (h : s.freeEntries p ≠ 0) : Told s (s.enqueue p tag body) := by
  apply State.updPort_told
  intro _
  simp only [State.freeEntries, queueCapacity] at h
  simp only [List.length_append, List.length_cons, List.length_nil]
  omega

theorem State.markLost_told (s : State) (p : Port) : Told s (s.markLost p) := s.updPort_told p _ id

theorem State.emptyQueue_told (s : State) (p : Port) : Told s (s.emptyQueue p) :=
  s.updPort_told p _ fun _ => by simp

theorem State.lapseState_told (s : State) (c : Option LapseCause) :
    Told s { s.lapseState with lapseInHand := c } where
  now := rfl
  linkRate := rfl
  classes := rfl
  buses := rfl
  waitQueue := rfl
  config := rfl
  units := rfl
  library := rfl
  tickets := rfl
  counter := rfl
  alm := rfl
  sweepCfg := rfl
  sweep := rfl
  retest := rfl
  rsTests := rfl
  clock := rfl
  store := rfl
  draws := rfl
  pending := rfl
  lines := .inr rfl
  supervised := fun h => by simp at h
  bounded := fun hq => hq

theorem State.overflowX_told (s : State) : Told s s.overflowX := by
  unfold State.overflowX
  split
  · split
    · exact s.lapseState_told _
    · constructor <;> first | rfl | exact .inl rfl | exact id
  · exact Told.refl s

theorem State.freeEntries_emptyQueue (s : State) (p : Port) : (s.emptyQueue p).freeEntries p = 32 := by
  simp [State.freeEntries, State.emptyQueue, queueCapacity]

theorem State.pushKept_told (s : State) (p : Port) (tag : Option Byte) (body : ReportBody) :
    Told s (s.pushKept p tag body) := by
  unfold State.pushKept
  split
  · have h := (s.emptyQueue_told p).trans
      ((s.emptyQueue p).enqueue_told p tag body (by simp [State.freeEntries_emptyQueue]))
    simp only
    split
    · exact h.trans (State.overflowX_told _)
    · exact h
  · exact s.enqueue_told p tag body ‹_›

theorem State.pushNotice_told (s : State) (p : Port) (body : ReportBody) : Told s (s.pushNotice p body) := by
  unfold State.pushNotice
  split
  · exact s.markLost_told p
  · exact s.enqueue_told p none body (by simp only [noticeReserve] at *; omega)

theorem State.pushNotices_told (s : State) (ps : List Port) (body : ReportBody) : Told s (s.pushNotices ps body) := by
  unfold State.pushNotices
  induction ps generalizing s with
  | nil => exact Told.refl s
  | cons p ps ih => exact (s.pushNotice_told p body).trans (ih _)

theorem State.reply_told (s : State) (c : OrderCtx) (code : ReplyCode) (data : ReplyData) :
    Told s (s.reply c code data) := s.pushKept_told _ _ _

theorem State.toHolder_told (s : State) (src : Option Source) (tag : Option HolderTag) (body : Port → ReportBody) :
    Told s (s.toHolder src tag body) := by
  unfold State.toHolder
  split
  · exact s.pushKept_told _ _ _
  · exact Told.refl s

theorem State.ticketNotice_told (s : State) (e : TicketEvent) : Told s (s.ticketNotice e) := s.pushNotice_told _ _

/-- What `Told` keeps of a line: everything but its call state. -/
theorem Told.line {s t : State} (h : Told s t) (l : LineId) : t.line l = s.line l ∨ t.line l = lapsedLine (s.line l) := by
  rcases h.lines with e | e
  · exact .inl (by rw [State.line, State.line, e])
  · exact .inr (by rw [State.line, State.line, e, Tab.get_map])

@[simp] theorem lapsedLine_onBus (r : LineRec) : (lapsedLine r).onBus = r.onBus := by unfold lapsedLine; split <;> rfl
@[simp] theorem lapsedLine_blocked (r : LineRec) : (lapsedLine r).blocked = r.blocked := by
  unfold lapsedLine; split <;> rfl
@[simp] theorem lapsedLine_queued (r : LineRec) : (lapsedLine r).queued = r.queued := by unfold lapsedLine; split <;> rfl
@[simp] theorem lapsedLine_cls (r : LineRec) : (lapsedLine r).cls = r.cls := by unfold lapsedLine; split <;> rfl
@[simp] theorem lapsedLine_quarantined (r : LineRec) : (lapsedLine r).quarantined = r.quarantined := by
  unfold lapsedLine; split <;> rfl
@[simp] theorem lapsedLine_pendingMask (r : LineRec) : (lapsedLine r).pendingMask = r.pendingMask := by
  unfold lapsedLine; split <;> rfl
@[simp] theorem lapsedLine_lastRoutine (r : LineRec) : (lapsedLine r).lastRoutine = r.lastRoutine := by
  unfold lapsedLine; split <;> rfl

theorem Told.onBus {s t : State} (h : Told s t) (l : LineId) : (t.line l).onBus = (s.line l).onBus := by
  rcases h.line l with e | e <;> simp [e]
theorem Told.blocked {s t : State} (h : Told s t) (l : LineId) : (t.line l).blocked = (s.line l).blocked := by
  rcases h.line l with e | e <;> simp [e]
theorem Told.queued {s t : State} (h : Told s t) (l : LineId) : (t.line l).queued = (s.line l).queued := by
  rcases h.line l with e | e <;> simp [e]
theorem Told.bus {s t : State} (h : Told s t) (b : BusId) : t.bus b = s.bus b := by rw [State.bus, State.bus, h.buses]
theorem Told.mu {s t : State} (h : Told s t) (u : MuId) : t.mu u = s.mu u := by rw [State.mu, State.mu, h.units]
theorem Told.slot {s t : State} (h : Told s t) (n : SlotId) : t.slot n = s.slot n := by
  rw [State.slot, State.slot, h.tickets]

theorem Told.busesAgree {s t : State} (h : Told s t) (hs : s.BusesAgree) : t.BusesAgree where
  onBus := fun l b => by rw [h.onBus, h.bus]; exact hs.onBus l b
  blocked := fun l => by rw [h.blocked, h.onBus]; exact hs.blocked l

theorem Told.waitsAgree {s t : State} (h : Told s t) (hs : s.WaitsAgree) : t.WaitsAgree where
  size := h.waitQueue ▸ hs.size
  lines := h.waitQueue ▸ hs.lines
  noRs := h.waitQueue ▸ hs.noRs
  offBus := fun e he => by rw [h.onBus]; exact hs.offBus e (h.waitQueue ▸ he)
  queued := fun l => by rw [h.queued, h.waitQueue]; exact hs.queued l

theorem Told.ticketsInRange {s t : State} (h : Told s t) (hs : s.TicketsInRange) : t.TicketsInRange where
  tickets := fun n x hx => hs.tickets n x (by rw [← hx, h.slot])
  counter := h.counter ▸ hs.counter

theorem Told.retestBounded {s t : State} (h : Told s t) (hs : s.RetestBounded) : t.RetestBounded := by
  unfold State.RetestBounded; rw [h.retest]; exact hs

end Sys2Proof.Machine
end

