-- ==== Sys2Proof/Laws/Spares.lean ====
section
/-!
SUPPORT. What grants leave alone: a bus that is not FREE, a unit that is neither STANDBY nor READY, the store's phase and
the ticket table (R24, R25). A scan, a start attempt and what a programme's outcome does to the tickets grant, and do no
more to buses and units.
-/

set_option Elab.async false

namespace Sys2Proof.Machine

/-- Nothing but FREE buses and free units changes. -/
structure Spares (s t : State) : Prop where
  bus : ∀ b, (s.bus b).state ≠ .free → t.bus b = s.bus b
  mu : ∀ u, (s.mu u).state ≠ .standby → (s.mu u).state ≠ .ready → t.mu u = s.mu u
  phase : t.store.phase = s.store.phase

theorem Spares.refl (s : State) : Spares s s := ⟨fun _ _ => rfl, fun _ _ _ => rfl, rfl⟩

theorem Spares.trans {s t u : State} (a : Spares s t) (b : Spares t u) : Spares s u where
  bus := fun c h => by rw [b.bus c (by rw [a.bus c h]; exact h), a.bus c h]
  mu := fun v h₁ h₂ => by rw [b.mu v (by rw [a.mu v h₁ h₂]; exact h₁) (by rw [a.mu v h₁ h₂]; exact h₂), a.mu v h₁ h₂]
  phase := b.phase.trans a.phase

theorem Spares.of_eq {s t : State} (h₁ : t.buses = s.buses) (h₂ : t.units = s.units)
    (h₃ : t.store.phase = s.store.phase) : Spares s t :=
  ⟨fun b _ => by rw [State.bus_congr h₁], fun u _ _ => by rw [State.mu_congr h₂], h₃⟩

theorem Spares.of_told {s t : State} (h : Told s t) : Spares s t := .of_eq h.buses h.units (by rw [h.store])

theorem Spares.foldl {α : Type} {f : State → α → State} (h : ∀ t x, Spares t (f t x)) (l : List α) (s : State) :
    Spares s (l.foldl f s) := by
  induction l generalizing s with
  | nil => exact .refl s
  | cons x l ih => exact (h s x).trans (ih _)

/-! ### What a request's needs come to -/

theorem State.freeBus?_some {s : State} {b : BusId} (h : s.freeBus? = some b) : (s.bus b).state = .free := by
  have := List.find?_some h
  simpa using this

theorem State.freeUnit?_some {s : State} {u : MuId} (h : s.freeUnit? = some u) :
    (s.mu u).state = .ready ∨ (s.mu u).state = .standby := by
  unfold State.freeUnit? at h
  split at h
  · rename_i v hv
    cases h
    have := List.find?_some hv
    exact .inl (by simpa using this)
  · have := List.find?_some h
    exact .inr (by simpa using this)

/-- A FREE bus; and a free unit exactly for MU termination. -/
theorem State.needs_some {s : State} {src : Source} {term : Termination} {b : BusId} {u : Option MuId}
    (h : s.needs src term = some (b, u)) :
    (s.bus b).state = .free ∧ ((term = .mu ∧ ∃ v, u = some v ∧ ((s.mu v).state = .ready ∨ (s.mu v).state = .standby))
      ∨ (term ≠ .mu ∧ u = none)) := by
  unfold State.needs at h
  split at h
  · cases h
  · rename_i hb
    simp only [Option.some.injEq, Prod.mk.injEq] at h
    obtain ⟨rfl, rfl⟩ := h
    exact ⟨State.freeBus?_some hb, .inr ⟨by simp, rfl⟩⟩
  · rename_i hb
    simp only [Option.map_eq_some_iff, Prod.mk.injEq] at h
    obtain ⟨v, hv, rfl, rfl⟩ := h
    exact ⟨State.freeBus?_some hb, .inl ⟨rfl, v, rfl, State.freeUnit?_some hv⟩⟩
  · rename_i c hb
    have h' : some (c, (none : Option MuId)) = some (b, u) := by
      split at h
      · split at h
        · cases h
        · exact h
      · exact h
      · exact h
    simp only [Option.some.injEq, Prod.mk.injEq] at h'
    obtain ⟨rfl, rfl⟩ := h'
    exact ⟨State.freeBus?_some hb, .inr ⟨by simp, rfl⟩⟩

theorem State.bindMu_mu {s : State} {u : Option MuId} {b : BusId} (v : MuId) :
    (s.bindMu u b).mu v = if u = some v then bindUnit s.now b (s.mu v) else s.mu v := by
  cases u with
  | none => simp [State.bindMu]
  | some w =>
    simp only [State.bindMu, State.mu_updMu, Option.some.injEq]
    split <;> simp_all

theorem State.grant_spares (s : State) (q : Request) (b : BusId) (u : Option MuId) (hb : (s.bus b).state = .free)
    (hu : ∀ v, u = some v → (s.mu v).state = .ready ∨ (s.mu v).state = .standby) : Spares s (s.grant q b u) := by
  refine Spares.trans (t := ((s.updBus b fun _ => grantedBus s q u).bindMu u b).updLine q.line (grantedLine b)) ?_
    (.of_told (State.pushKept_told _ _ _ _))
  refine ⟨fun c hc => ?_, fun v h₁ h₂ => ?_, ?_⟩
  · rw [State.updLine_bus]
    have e : ((s.updBus b fun _ => grantedBus s q u).bindMu u b).bus c = (s.updBus b fun _ => grantedBus s q u).bus c := by
      cases u <;> rfl
    rw [e, State.bus_updBus, if_neg]
    rintro rfl
    exact hc hb
  · rw [State.updLine_mu, State.bindMu_mu, if_neg, State.updBus_mu]
    intro e
    rcases hu v e with h | h
    · exact h₂ h
    · exact h₁ h
  · cases u <;> rfl

theorem State.scanEntry_spares (s : State) (e : WaitEntry) : Spares s (s.scanEntry e) := by
  unfold State.scanEntry
  split
  · rename_i b u h
    unfold State.scanGrants at h
    split at h
    · have hn := State.needs_some h
      have hr : Spares s (s.removeWait e.req.line) := .of_eq rfl rfl rfl
      refine hr.trans (State.grant_spares _ _ _ _ hn.1 fun v hv => ?_)
      obtain ⟨-, w, hw, h⟩ | ⟨-, h⟩ := hn.2
      · rw [hv] at hw; cases hw; exact h
      · rw [h] at hv; cases hv
    · cases h
  · exact .refl s

theorem State.scan_spares (s : State) : Spares s s.scan := Spares.foldl State.scanEntry_spares _ s

theorem State.passEnd_spares (s : State) : Spares s s.passEnd :=
  (Spares.of_told (s.pushNotice_told _ _)).trans (.of_eq rfl rfl rfl)

theorem State.passEndIfDue_spares (s : State) : Spares s s.passEndIfDue := by
  unfold State.passEndIfDue
  split
  · exact s.passEnd_spares
  · exact .refl s

theorem State.sweepGrant_spares (s : State) (l : LineId) (b : BusId) (u : Option MuId) (hb : (s.bus b).state = .free)
    (hu : ∀ v, u = some v → (s.mu v).state = .ready ∨ (s.mu v).state = .standby) : Spares s (s.sweepGrant l b u) :=
  (s.grant_spares ⟨.rs, .test s.sweep.testNumber, l, .mu, some s.sweepCfg.programme⟩ b u hb hu).trans
    (.of_eq rfl rfl rfl)

theorem State.startPacing_spares (s : State) : Spares s s.startPacing := .of_eq rfl rfl rfl

theorem State.attempt_spares (s : State) (b : BusId) (u : Option MuId) (hb : (s.bus b).state = .free)
    (hu : ∀ v, u = some v → (s.mu v).state = .ready ∨ (s.mu v).state = .standby) : Spares s (s.attempt b u) := by
  unfold State.attempt
  simp only
  refine Spares.trans ?_ (State.startPacing_spares _)
  split
  · rename_i l _
    exact Spares.trans (t := { s with retest := s.retest.erase l }) (.of_eq rfl rfl rfl)
      (State.sweepGrant_spares _ l b u hb hu)
  · split
    · exact .refl s
    · unfold State.cursorAttempt
      simp only
      split
      · rename_i l c k _
        exact Spares.trans
          (t := { s with sweep := { s.sweep with cursor := c + 1, skipped := k, closing := l.val == s.sweepCfg.last } })
          (.of_eq rfl rfl rfl) (State.sweepGrant_spares _ l b u hb hu)
      · refine Spares.trans ?_ (State.passEndIfDue_spares _)
        exact .of_eq rfl rfl rfl

theorem State.sweepTrigger_spares (s : State) : Spares s s.sweepTrigger := by
  unfold State.sweepTrigger
  split
  · split
    · rename_i b u h
      have hn := State.needs_some h
      refine s.attempt_spares b u hn.1 fun v hv => ?_
      obtain ⟨-, w, hw, h⟩ | ⟨-, h⟩ := hn.2
      · rw [hv] at hw; cases hw; exact h
      · rw [h] at hv; cases hv
    · exact .refl s
  · exact .refl s

theorem State.rederive_spares (s : State) : Spares s s.rederive := by
  unfold State.rederive
  simp only
  have h : Spares s { s with sweep := { s.sweep with lastState := s.sweepState } } := .of_eq rfl rfl rfl
  split
  · exact h.trans (State.sweepTrigger_spares _)
  · exact h

theorem State.scanThenTrigger_spares (s : State) : Spares s s.scanThenTrigger :=
  s.scan_spares.trans (State.sweepTrigger_spares _)

/-! ### Tickets -/

/-- Buses, units and the store's phase and gathered pages as they were. -/
structure Still (s t : State) : Prop where
  buses : t.buses = s.buses
  units : t.units = s.units
  phase : t.store.phase = s.store.phase
  gathered : t.store.image = s.store.image ∧ t.store.loadIndex = s.store.loadIndex

theorem Still.refl (s : State) : Still s s := ⟨rfl, rfl, rfl, rfl, rfl⟩

theorem Still.trans {s t u : State} (a : Still s t) (b : Still t u) : Still s u :=
  ⟨b.buses.trans a.buses, b.units.trans a.units, b.phase.trans a.phase,
    b.gathered.1.trans a.gathered.1, b.gathered.2.trans a.gathered.2⟩

theorem Still.of_told {s t : State} (h : Told s t) : Still s t := ⟨h.buses, h.units, by rw [h.store], by rw [h.store]; exact ⟨rfl, rfl⟩⟩

theorem Still.spares {s t : State} (h : Still s t) : Spares s t := .of_eq h.buses h.units h.phase

theorem State.ticketNotice_still (s : State) (e : TicketEvent) : Still s (s.ticketNotice e) :=
  .of_told (s.ticketNotice_told e)

theorem State.writeSlot_still (s : State) (n : SlotId) (x : Option Ticket) : Still s (s.writeSlot n x) :=
  ⟨rfl, rfl, rfl, rfl, rfl⟩

theorem State.updLine_still (s : State) (l : LineId) (f : LineRec → LineRec) : Still s (s.updLine l f) :=
  ⟨rfl, rfl, rfl, rfl, rfl⟩

theorem State.vtuOffer_still (s : State) (l : LineId) : Still s (s.vtuOffer l) := by
  unfold State.vtuOffer State.offerRetest
  split
  · exact .refl s
  · split
    · exact .refl s
    · exact ⟨rfl, rfl, rfl, rfl, rfl⟩

theorem State.takeSlot_still {s : State} {f : Failure} {n : SlotId} {u : State} (h : s.takeSlot f = some (n, u)) :
    Still s u := by
  unfold State.takeSlot at h
  split at h
  · simp only [Option.some.injEq, Prod.mk.injEq] at h
    rw [← h.2]; exact .refl s
  · split at h
    · simp only [Option.some.injEq, Prod.mk.injEq] at h
      rw [← h.2]; exact (s.ticketNotice_still _).trans (State.writeSlot_still _ _ _)
    · split at h
      · simp only [Option.map_eq_some_iff, Prod.mk.injEq] at h
        obtain ⟨⟨m, t⟩, -, -, rfl⟩ := h
        exact (((s.ticketNotice_still _).trans (State.updLine_still _ _ _)).trans (State.vtuOffer_still _ _)).trans
          (State.writeSlot_still _ _ _)
      · cases h

theorem State.applyFailure_still (s : State) (l : LineId) (c : FaultClass) (f : Failure) (src : Source) (st : Stamp) :
    Still s (s.applyFailure l c f src st) := by
  unfold State.applyFailure
  split
  · exact (s.writeSlot_still _ _).trans (State.ticketNotice_still _ _)
  · split
    · rename_i n u h
      refine (State.takeSlot_still h).trans ?_
      unfold State.createTicket
      simp only
      have h₁ : ∀ e, Still u ((({ u with counter := nextNumber (u.freeNumber 257 u.counter) }.writeSlot n
          (some (newTicket (u.freeNumber 257 u.counter) l c f src st))).updLine l fun r =>
            r.dropPending c).ticketNotice e) := fun e =>
        Still.trans (t := ({ u with counter := nextNumber (u.freeNumber 257 u.counter) }.writeSlot n
          (some (newTicket (u.freeNumber 257 u.counter) l c f src st))).updLine l fun r => r.dropPending c)
          ⟨rfl, rfl, rfl, rfl, rfl⟩ (State.ticketNotice_still _ e)
      split
      · exact h₁ _
      · exact (h₁ _).trans (State.vtuOffer_still _ _)
    · unfold State.overflowTicket
      simp only
      have h₁ : Still s ((s.updLine l fun r => r.addPending c).pushNotice .m (.ticketOverflow l c f.severity f.value src)) :=
        (s.updLine_still l _).trans (.of_told (State.pushNotice_told _ _ _))
      split
      · exact h₁
      · exact h₁.trans (State.vtuOffer_still _ _)

theorem State.applyPass_still (s : State) (l : LineId) (c : FaultClass) (n : Nat) (st : Stamp) :
    Still s (s.applyPass l c n st) := by
  unfold State.applyPass
  simp only
  refine Still.trans ?_ (State.updLine_still _ l _)
  split
  · exact .refl s
  · split
    · exact (s.writeSlot_still _ _).trans (State.ticketNotice_still _ _)
    · exact s.writeSlot_still _ _

theorem State.evaluateQuarantine_spares (s : State) (l : LineId) : Spares s (s.evaluateQuarantine l) := by
  unfold State.evaluateQuarantine
  simp only
  split
  · exact .refl s
  · split
    · exact .of_eq rfl rfl rfl
    · exact (s.updLine_still l _).spares.trans (State.scanThenTrigger_spares _)

theorem State.evaluateAlm_spares (s : State) : Spares s s.evaluateAlm := by
  unfold State.evaluateAlm
  split
  · exact .of_eq rfl rfl rfl
  · exact .refl s

theorem State.applyClass_spares (s : State) (o : OutcomeIn) (c : FaultClass) : Spares s (s.applyClass o c) := by
  unfold State.applyClass
  split
  · simp only
    split
    · exact (s.applyFailure_still _ _ _ _ _).spares.trans (State.evaluateQuarantine_spares _ _)
    · exact (s.applyFailure_still _ _ _ _ _).spares
  · split
    · simp only
      split
      · exact (s.applyPass_still _ _ _ _).spares.trans (State.evaluateQuarantine_spares _ _)
      · exact (s.applyPass_still _ _ _ _).spares
    · exact .refl s

theorem State.applyOutcome_spares (s : State) (o : OutcomeIn) : Spares s (s.applyOutcome o) :=
  (Spares.foldl (fun t c => t.applyClass_spares o c) _ s).trans (State.evaluateAlm_spares _)

theorem State.reportEnd_spares (s : State) (c : Context) (cause : EndCause) (rs : List StepResult) :
    Spares s (s.reportEnd c cause rs) := by
  unfold State.reportEnd
  split
  · unfold State.sweepTestEnded
    simp only
    split
    · exact .of_eq rfl rfl rfl
    · exact .refl s
  · exact .of_told (s.toHolder_told _ _ _)

/-- A programme's end leaves every bus that is not FREE as it was, and its own unit ATTACHED or DISCHARGING. -/
theorem State.endProgramme_spares {s : State} {u : MuId} {cause : EndCause} {c : Context}
    (h : (s.mu u).context = some c) :
    Spares (s.updMu u (endedUnit s.now s.config.discharge c)) (s.endProgramme u cause) := by
  unfold State.endProgramme
  rw [h]
  simp only
  have h₁ := State.reportEnd_spares (s.updMu u (endedUnit s.now s.config.discharge c)) c cause c.endResults
  split
  · exact h₁.trans (State.applyOutcome_spares _ _)
  · exact h₁

theorem endedUnit_state (now d : Nat) (c : Context) (m : MuRec) :
    (endedUnit now d c m).state = if c.sourceApplied then .discharging else .attached := by
  unfold endedUnit
  split <;> rfl

theorem State.endProgramme_mu {s : State} {u : MuId} {cause : EndCause} {c : Context}
    (h : (s.mu u).context = some c) :
    (s.endProgramme u cause).mu u = endedUnit s.now s.config.discharge c (s.mu u) := by
  have hs := State.endProgramme_spares (cause := cause) h
  have e : (s.updMu u (endedUnit s.now s.config.discharge c)).mu u = endedUnit s.now s.config.discharge c (s.mu u) := by
    simp
  rw [← e]
  refine hs.mu u ?_ ?_ <;> (rw [e, endedUnit_state]; split <;> simp)

theorem State.endProgramme_bus {s : State} {u : MuId} {cause : EndCause} {b : BusId} (h : (s.bus b).state ≠ .free) :
    (s.endProgramme u cause).bus b = s.bus b := by
  cases hc : (s.mu u).context with
  | none => unfold State.endProgramme; rw [hc]
  | some c => exact (State.endProgramme_spares (cause := cause) hc).bus b h

end Sys2Proof.Machine
end

