-- ==== Sys2Proof/Laws/Table.lean ====
section
/-!
SUPPORT. Searches of the ticket table: what each finds (R129, R131, R141), that a free number is found (R128), and when a
line carries a hazard (R120).
-/

set_option Elab.async false

namespace Sys2Proof.Machine

/-! ## Searches -/

theorem indexed_getElem? {α : Type} {n : Nat} (t : Tab α n) (i : Nat) (h : i < n) :
    t.indexed[i]? = some (⟨i, h⟩, t.get ⟨i, h⟩) := by
  simp [Tab.indexed, Tab.get_eq, t.size_eq, h]

/-- A search of the indexed records finds the first that answers. -/
theorem findSome_indexed {α β : Type} {n : Nat} (t : Tab α n) (f : Fin n × α → Option β) (k : Fin n) (b : β)
    (hk : f (k, t.get k) = some b) (hj : ∀ j < k, f (j, t.get j) = none) : t.indexed.findSome? f = some b := by
  rw [List.findSome?_eq_some_iff]
  have hlen : t.indexed.length = n := by simp [Tab.indexed, t.size_eq]
  refine ⟨t.indexed.take k.val, (k, t.get k), t.indexed.drop (k.val + 1), ?_, hk, ?_⟩
  · have h₂ : t.indexed[k.val]'(by rw [hlen]; exact k.isLt) = (k, t.get k) :=
      (List.getElem?_eq_some_iff.1 (indexed_getElem? t k.val k.isLt)).2
    conv_lhs => rw [← List.take_append_drop k.val t.indexed, List.drop_eq_getElem_cons (by rw [hlen]; exact k.isLt), h₂]
  · intro x hx
    obtain ⟨i, hi, rfl⟩ := List.mem_iff_getElem.1 hx
    simp only [List.length_take, hlen, lt_min_iff] at hi
    rw [List.getElem_take, (List.getElem?_eq_some_iff.1 (indexed_getElem? t i hi.2)).2]
    exact hj ⟨i, hi.2⟩ hi.1

theorem findSome_indexed_none {α β : Type} {n : Nat} (t : Tab α n) (f : Fin n × α → Option β)
    (hj : ∀ j, f (j, t.get j) = none) : t.indexed.findSome? f = none := by
  rw [List.findSome?_eq_none_iff]
  rintro ⟨i, a⟩ hx
  rw [← (Tab.mem_indexed t i a).1 hx]
  exact hj i

theorem findSlot_at {s : State} {p : Ticket → Bool} {k : SlotId} {t : Ticket} (h : s.slot k = some t) (hp : p t = true)
    (hj : ∀ j < k, ∀ u, s.slot j = some u → p u = false) : s.findSlot p = some (k, t) := by
  apply findSome_indexed (k := k)
  · have : s.tickets.get k = some t := h
    simp [this, hp]
  · intro j hjk
    cases e : s.tickets.get j with
    | none => rfl
    | some u => simp [hj j hjk u e]

theorem findSlot_none {s : State} {p : Ticket → Bool} (hj : ∀ j u, s.slot j = some u → p u = false) :
    s.findSlot p = none := by
  apply findSome_indexed_none
  intro j
  cases e : s.tickets.get j with
  | none => rfl
  | some u => simp [hj j u e]

theorem findSlot_some {s : State} {p : Ticket → Bool} {n : SlotId} {t : Ticket} (h : s.findSlot p = some (n, t)) :
    s.slot n = some t ∧ p t = true := by
  obtain ⟨⟨m, o⟩, hm, hx⟩ := List.exists_of_findSome?_eq_some h
  simp only at hx
  split at hx
  · split at hx
    · simp only [Option.some.injEq, Prod.mk.injEq] at hx
      obtain ⟨rfl, rfl⟩ := hx
      exact ⟨(Tab.mem_indexed _ _ _).1 hm, ‹_›⟩
    · cases hx
  · cases hx

theorem findSlot_slot {s : State} {p : Ticket → Bool} {n : SlotId} {t : Ticket} (h : s.findSlot p = some (n, t)) :
    s.slot n = some t := (findSlot_some h).1

theorem findSlot_eq_none {s : State} {p : Ticket → Bool} (h : s.findSlot p = none) :
    ∀ n t, s.slot n = some t → p t = false := by
  intro n t ht
  have := List.findSome?_eq_none_iff.1 h (n, some t) ((Tab.mem_indexed _ _ _).2 ht)
  simpa using this

/-- The non-cleared ticket of a class on a line has that line and class, and is not CLEARED (R129). -/
theorem ticketOn_some {s : State} {l : LineId} {c : FaultClass} {n : SlotId} {t : Ticket}
    (h : s.ticketOn l c = some (n, t)) : s.slot n = some t ∧ t.line = l ∧ t.cls = c ∧ t.state ≠ .cleared := by
  obtain ⟨h₁, h₂⟩ := findSlot_some h
  simp only [Bool.and_eq_true, beq_iff_eq, Ticket.nonCleared, bne_iff_ne, ne_eq] at h₂
  exact ⟨h₁, h₂.1.1, h₂.1.2, h₂.2⟩

theorem ticketOn_eq_none {s : State} {l : LineId} {c : FaultClass} (h : s.ticketOn l c = none) :
    ∀ n t, s.slot n = some t → ¬ (t.line = l ∧ t.cls = c ∧ t.state ≠ .cleared) := by
  rintro n t ht ⟨h₁, h₂, h₃⟩
  have := findSlot_eq_none h n t ht
  simp [h₁, h₂, Ticket.nonCleared, h₃] at this

/-- The ticket that holds a number, found by QUERY_TICKET and the ticket orders (R141). -/
theorem State.NumberAt.found {s : State} {n : Nat} {k : SlotId} {t : Ticket} (h : s.NumberAt n k t) :
    s.ticketNumbered n = some (k, t) :=
  findSlot_at h.1 (by simp [h.2.1]) fun j hj u hu => by simpa using h.2.2 j hj u hu

theorem ticketNumbered_none {s : State} {n : Nat} (h : ∀ j u, s.slot j = some u → u.number ≠ n) :
    s.ticketNumbered n = none :=
  findSlot_none fun j u hu => by simpa using h j u hu

theorem State.TicketAt.found {s : State} {l : LineId} {c : FaultClass} {k : SlotId} {t : Ticket} (h : s.TicketAt l c k t) :
    s.ticketOn l c = some (k, t) := by
  obtain ⟨h₁, h₂, h₃, h₄, h₅⟩ := h
  refine findSlot_at h₁ (by simp [h₂, h₃, Ticket.nonCleared, h₄]) fun j hj u hu => ?_
  have := h₅ j hj u hu
  simp only [Ticket.nonCleared, Bool.and_eq_false_iff, beq_eq_false_iff_ne, ne_eq, bne_eq_false_iff_eq]
  tauto

theorem ticketOn_none {s : State} {l : LineId} {c : FaultClass}
    (h : ∀ j u, s.slot j = some u → ¬ (u.line = l ∧ u.cls = c ∧ u.state ≠ .cleared)) : s.ticketOn l c = none :=
  findSlot_none fun j u hu => by
    have := h j u hu
    simp only [Ticket.nonCleared, Bool.and_eq_false_iff, beq_eq_false_iff_ne, ne_eq, bne_eq_false_iff_eq]
    tauto

theorem State.emptySlot_some {s : State} {n : SlotId} (h : s.emptySlot = some n) : s.slot n = none := by
  unfold State.emptySlot at h
  simp only [Option.map_eq_some_iff] at h
  obtain ⟨⟨m, o⟩, hx, rfl⟩ := h
  have h₁ := List.find?_some hx
  have h₂ := (Tab.mem_indexed _ _ _).1 (List.mem_of_find?_eq_some hx)
  simp only [Option.isNone_iff_eq_none] at h₁
  rw [← h₁]; exact h₂

theorem oldest_aux {s : State} {p : Ticket → Bool} (l : List (SlotId × Option Ticket)) (a : Option (SlotId × Ticket))
    (hl : ∀ x ∈ l, s.slot x.1 = x.2) (ha : ∀ n t, a = some (n, t) → s.slot n = some t ∧ p t = true) :
    ∀ n t, l.foldl (olderOf p) a = some (n, t) → s.slot n = some t ∧ p t = true := by
  induction l generalizing a with
  | nil => exact ha
  | cons x l ih =>
    refine ih _ (fun y hy => hl y (List.mem_cons_of_mem _ hy)) fun n t h => ?_
    have hx := hl x List.mem_cons_self
    unfold olderOf at h
    split at h
    · exact ha n t h
    · rename_i u hu
      rw [hu] at hx
      split at h
      · rename_i hp
        split at h
        · simp only [Option.some.injEq, Prod.mk.injEq] at h
          obtain ⟨rfl, rfl⟩ := h
          exact ⟨hx, hp⟩
        · split at h
          · simp only [Option.some.injEq, Prod.mk.injEq] at h
            obtain ⟨rfl, rfl⟩ := h
            exact ⟨hx, hp⟩
          · exact ha n t h
      · exact ha n t h

/-- The oldest ticket with a property stands in its slot and has the property (R131). -/
theorem State.oldest_some {s : State} {p : Ticket → Bool} {n : SlotId} {t : Ticket} (h : s.oldest p = some (n, t)) :
    s.slot n = some t ∧ p t = true :=
  oldest_aux s.tickets.indexed none (fun x hx => (Tab.mem_indexed _ _ _).1 (by simpa using hx))
    (fun _ _ h => by cases h) n t h

/-! ## The number of a new ticket (R128) -/

/-- The number counter's range (R128). -/
def CounterOk (c : Nat) : Prop := 1 ≤ c ∧ c ≤ 65535

theorem nextNumber_ok (n : Nat) : CounterOk (nextNumber n) := by
  unfold nextNumber CounterOk; split <;> omega

theorem State.freeNumber_ok (s : State) (fuel n : Nat) (h : CounterOk n) : CounterOk (s.freeNumber fuel n) := by
  induction fuel generalizing n with
  | zero => exact h
  | succ k ih =>
    unfold State.freeNumber
    split
    · exact ih _ (nextNumber_ok n)
    · exact h

/-- The search answers a number no ticket holds, or it has passed over `fuel` numbers that tickets hold. -/
theorem State.freeNumber_spec (s : State) (fuel n : Nat) (h : CounterOk n) :
    (s.ticketNumbered (s.freeNumber fuel n)).isSome = false
      ∨ ∀ i < fuel, (s.ticketNumbered ((n - 1 + i) % 65535 + 1)).isSome = true := by
  induction fuel generalizing n with
  | zero => exact .inr fun i hi => by omega
  | succ k ih =>
    unfold State.freeNumber
    have hn : (n - 1 + 0) % 65535 + 1 = n := by unfold CounterOk at h; omega
    by_cases hs : (s.ticketNumbered n).isSome = true
    · rw [if_pos hs]
      rcases ih _ (nextNumber_ok n) with h' | h'
      · exact .inl h'
      · refine .inr fun i hi => ?_
        cases i with
        | zero => rw [hn]; exact hs
        | succ j =>
          have := h' j (by omega)
          rwa [show (nextNumber n - 1 + j) % 65535 + 1 = (n - 1 + (j + 1)) % 65535 + 1 by
            unfold nextNumber; unfold CounterOk at h; split <;> omega] at this
    · rw [if_neg hs]; exact .inl (by simpa using hs)

/-- Within 257 numbers of the counter there is one that none of the 256 slots holds (R128). -/
theorem State.freeNumber_free (s : State) (h : CounterOk s.counter) :
    ∀ n t, s.slot n = some t → t.number ≠ s.freeNumber 257 s.counter := by
  have key : (s.ticketNumbered (s.freeNumber 257 s.counter)).isSome = false := by
    rcases s.freeNumber_spec 257 s.counter h with h' | h'
    · exact h'
    · exfalso
      have hex : ∀ i : Fin 257, ∃ n t, s.slot n = some t ∧ t.number = (s.counter - 1 + i.val) % 65535 + 1 := by
        intro i
        obtain ⟨⟨n, t⟩, hx⟩ := Option.isSome_iff_exists.1 (h' i.val i.isLt)
        obtain ⟨h₁, h₂⟩ := findSlot_some hx
        exact ⟨n, t, h₁, by simpa using h₂⟩
      choose f g hf hg using hex
      obtain ⟨i, j, hij, he⟩ := Fintype.exists_ne_map_eq_of_card_lt f (by simp)
      have e : g i = g j := by
        have := hf i
        rw [he, hf j] at this
        exact (Option.some.inj this).symm
      have hi := hg i
      rw [e, hg j] at hi
      have : i.val ≠ j.val := fun e => hij (Fin.ext e)
      have := i.isLt
      have := j.isLt
      omega
  intro n t ht hn
  have hnone : s.ticketNumbered (s.freeNumber 257 s.counter) = none := by simpa using key
  have := findSlot_eq_none hnone n t ht
  simp [hn] at this

/-! ## Hazards (R114, R116, R120) -/

theorem quarantineDue_iff (s : State) (l : LineId) : s.quarantineDue l = true ↔ s.CarriesHazard l := by
  unfold State.quarantineDue State.CarriesHazard
  rw [Bool.or_eq_true, Option.isSome_iff_exists]
  refine or_congr ⟨?_, ?_⟩ Iff.rfl
  · rintro ⟨⟨n, t⟩, h⟩
    exact ⟨n, t, ticketOn_some h⟩
  · rintro ⟨n, t, h⟩
    cases hh : s.ticketOn l .hazard with
    | some x => exact ⟨x, rfl⟩
    | none => exact absurd h.2 (ticketOn_eq_none hh n t h.1)

/-- Every DONE step of class HAZARD among some results was judged PASS or HAZARD. -/
def HazardJudged (rs : List StepResult) : Prop :=
  ∀ r ∈ rs, r.status = .done → stepClass r = .hazard → r.verdict = some .pass ∨ r.verdict = some .hazard

theorem worstSeverity_critical (rs : List StepResult) (h : ∀ r ∈ rs, r.verdict = some .hazard) (hne : rs ≠ []) :
    worstSeverity rs = .critical := by
  have key : ∀ (rs : List StepResult), (∀ r ∈ rs, r.verdict = some .hazard) → ∀ a,
      rs.foldl (fun a r => match r.verdict.bind Verdict.severity? with
        | some x => Severity.worse a x
        | none => a) a = if rs = [] then a else .critical := by
    intro rs
    induction rs with
    | nil => intro _ a; rfl
    | cons r rs ih =>
      intro h a
      have hr := h r List.mem_cons_self
      simp only [List.foldl_cons, hr, Option.bind_some, Verdict.severity?]
      rw [ih (fun x hx => h x (List.mem_cons_of_mem _ hx))]
      have : a.worse .critical = .critical := by cases a <;> rfl
      rw [this]
      simp
  have := key rs h .minor
  rw [if_neg hne] at this
  exact this

/-- A HAZARD failure is CRITICAL (R114, R116). -/
theorem failureOf_hazard {rs : List StepResult} (h : HazardJudged rs) {f : Failure} (hf : failureOf .hazard rs = some f) :
    f.severity = .critical := by
  unfold failureOf at hf
  split at hf
  · cases hf
  · rename_i r hr
    cases hf
    refine worstSeverity_critical _ (fun x hx => ?_) (fun e => by rw [e] at hr; cases hr)
    unfold failingOf doneOf at hx
    simp only [List.mem_filter, Bool.and_eq_true, beq_iff_eq] at hx
    obtain ⟨⟨h₁, h₂, h₃⟩, h₄⟩ := hx
    rcases h x h₁ h₂ h₃ with e | e
    · rw [e] at h₄; simp [Verdict.severity?] at h₄
    · exact e

end Sys2Proof.Machine
end

