-- ==== Sys2Proof/Laws/Apart.lean ====
section
/-!
SUPPORT. What the classes of an outcome do to the ticket table's laws: numbers and classes stay apart (R125, R129), and of
the hazards that lines carry (R120) only that of the programme's own line changes, by class HAZARD alone.
-/

set_option Elab.async false

namespace Sys2Proof.Machine

/-! ## Numbers and classes -/

/-- A table with no more tickets. -/
theorem State.TicketsApart.sub {s t : State} (h : s.TicketsApart) (hs : ∀ n x, t.slot n = some x → s.slot n = some x) :
    t.TicketsApart where
  numbers := fun n m x y hx hy => h.numbers n m x y (hs n x hx) (hs m y hy)
  classes := fun n m x y hx hy => h.classes n m x y (hs n x hx) (hs m y hy)
  hazard := fun n x hx => h.hazard n x (hs n x hx)

/-- A ticket's record changed, but not what keeps it apart. -/
theorem State.TicketsApart.changed {s t : State} (h : s.TicketsApart) {n : SlotId} {x y : Ticket} (hx : s.slot n = some x)
    (ht : ∀ m, t.slot m = if n = m then some y else s.slot m) (hn : y.number = x.number) (hl : y.line = x.line)
    (hc : y.cls = x.cls) (hs : y.state ≠ .cleared → x.state ≠ .cleared)
    (hv : x.severity = .critical → y.severity = .critical) : t.TicketsApart := by
  have key : ∀ m z, t.slot m = some z → ∃ w, s.slot m = some w ∧ z.number = w.number ∧ z.line = w.line ∧ z.cls = w.cls
      ∧ (z.state ≠ .cleared → w.state ≠ .cleared) ∧ (w.severity = .critical → z.severity = .critical) := by
    intro m z hz
    rw [ht] at hz
    split at hz
    · subst_vars; cases hz; exact ⟨x, hx, hn, hl, hc, hs, hv⟩
    · exact ⟨z, hz, rfl, rfl, rfl, id, id⟩
  refine ⟨fun a b p q hp hq hab => ?_, fun a b p q hp hq hab h₁ h₂ => ?_, fun a p hp hcl => ?_⟩
  · obtain ⟨p', hp', e₁, -⟩ := key a p hp
    obtain ⟨q', hq', e₂, -⟩ := key b q hq
    rw [e₁, e₂]; exact h.numbers a b p' q' hp' hq' hab
  · obtain ⟨p', hp', -, l₁, c₁, s₁, -⟩ := key a p hp
    obtain ⟨q', hq', -, l₂, c₂, s₂, -⟩ := key b q hq
    rw [l₁, l₂, c₁, c₂]; exact h.classes a b p' q' hp' hq' hab (s₁ h₁) (s₂ h₂)
  · obtain ⟨p', hp', -, -, c₁, -, v₁⟩ := key a p hp
    exact v₁ (h.hazard a p' hp' (c₁ ▸ hcl))

/-- A ticket put in a slot under a number no ticket holds, of a class its line has no ticket of. -/
theorem State.TicketsApart.added {s t : State} (h : s.TicketsApart) {n : SlotId} {y : Ticket}
    (ht : ∀ m, t.slot m = if n = m then some y else s.slot m) (hnum : ∀ m x, s.slot m = some x → x.number ≠ y.number)
    (hcl : ∀ m x, s.slot m = some x → ¬ (x.line = y.line ∧ x.cls = y.cls ∧ x.state ≠ .cleared))
    (hz : y.cls = .hazard → y.severity = .critical) : t.TicketsApart := by
  have key : ∀ m z, t.slot m = some z → (n = m ∧ z = y) ∨ (n ≠ m ∧ s.slot m = some z) := by
    intro m z hz
    rw [ht] at hz
    split at hz
    · cases hz; exact .inl ⟨‹_›, rfl⟩
    · exact .inr ⟨‹_›, hz⟩
  refine ⟨fun a b p q hp hq hab => ?_, fun a b p q hp hq hab h₁ h₂ => ?_, fun a p hp hc => ?_⟩
  · rcases key a p hp with ⟨rfl, rfl⟩ | ⟨-, hp'⟩ <;> rcases key b q hq with ⟨rfl, rfl⟩ | ⟨-, hq'⟩
    · exact absurd rfl hab
    · exact fun e => hnum b q hq' e.symm
    · exact hnum a p hp'
    · exact h.numbers a b p q hp' hq' hab
  · rcases key a p hp with ⟨rfl, rfl⟩ | ⟨-, hp'⟩ <;> rcases key b q hq with ⟨rfl, rfl⟩ | ⟨-, hq'⟩
    · exact absurd rfl hab
    · exact fun e => hcl b q hq' ⟨e.1.symm, e.2.symm, h₂⟩
    · exact fun e => hcl a p hp' ⟨e.1, e.2, h₁⟩
    · exact h.classes a b p q hp' hq' hab h₁ h₂
  · rcases key a p hp with ⟨rfl, rfl⟩ | ⟨-, hp'⟩
    · exact hz hc
    · exact h.hazard a p hp' hc

/-- What a creation finds for its ticket: an empty slot in a table that lost at most a ticket, the counter as it was. -/
theorem State.takeSlot_table {s : State} {f : Failure} {n : SlotId} {u : State} (h : s.takeSlot f = some (n, u)) :
    u.slot n = none ∧ (∀ m x, u.slot m = some x → s.slot m = some x) ∧ u.counter = s.counter := by
  have key : ∀ {a : State} (k : SlotId), a.slot = s.slot → a.counter = s.counter →
      (a.writeSlot k none).slot k = none ∧ (∀ m x, (a.writeSlot k none).slot m = some x → s.slot m = some x)
        ∧ (a.writeSlot k none).counter = s.counter := fun {a} k hs hc => by
    refine ⟨by simp [State.slot_writeSlot], fun m x hx => ?_, by simpa using hc⟩
    rw [State.slot_writeSlot] at hx
    split at hx
    · cases hx
    · rw [← hs]; exact hx
  unfold State.takeSlot at h
  split at h
  · rename_i he
    simp only [Option.some.injEq, Prod.mk.injEq] at h
    obtain ⟨rfl, rfl⟩ := h
    exact ⟨State.emptySlot_some he, fun _ _ h => h, rfl⟩
  · split at h
    · rename_i k t _
      simp only [Option.some.injEq, Prod.mk.injEq] at h
      obtain ⟨rfl, rfl⟩ := h
      have ht := s.ticketNotice_told (.purged t.number t.line t.cls)
      exact key k (funext ht.slot) ht.counter
    · split at h
      · simp only [Option.map_eq_some_iff, Prod.mk.injEq] at h
        obtain ⟨⟨k, t⟩, -, rfl, rfl⟩ := h
        have ht := s.ticketNotice_told (.evicted t.number t.line t.cls t.severity)
        refine key k ?_ ?_
        · funext m
          unfold State.vtuOffer State.offerRetest
          split
          · exact ht.slot m
          · split
            · exact ht.slot m
            · exact ht.slot m
        · unfold State.vtuOffer State.offerRetest
          split
          · exact ht.counter
          · split
            · exact ht.counter
            · exact ht.counter
      · cases h

/-! ## What leaves the table alone -/

theorem State.vtuOffer_slot (s : State) (l : LineId) : (s.vtuOffer l).slot = s.slot := by
  unfold State.vtuOffer State.offerRetest
  split
  · rfl
  · split <;> rfl

theorem State.vtuOffer_line (s : State) (l : LineId) : (s.vtuOffer l).line = s.line := by
  unfold State.vtuOffer State.offerRetest
  split
  · rfl
  · split <;> rfl

theorem State.createTicket_slot (s : State) (n : SlotId) (l : LineId) (c : FaultClass) (f : Failure) (src : Source)
    (st : Stamp) (m : SlotId) : (s.createTicket n l c f src st).slot m =
      if n = m then some (newTicket (s.freeNumber 257 s.counter) l c f src st) else s.slot m := by
  unfold State.createTicket
  simp only
  have h : ∀ e, ((({ s with counter := nextNumber (s.freeNumber 257 s.counter) }.writeSlot n
      (some (newTicket (s.freeNumber 257 s.counter) l c f src st))).updLine l fun r =>
        r.dropPending c).ticketNotice e).slot m =
      if n = m then some (newTicket (s.freeNumber 257 s.counter) l c f src st) else s.slot m := fun e => by
    rw [(State.ticketNotice_told _ _).slot, State.updLine_slot, State.slot_writeSlot]; rfl
  split
  · exact h _
  · rw [State.vtuOffer_slot]; exact h _

theorem State.overflowTicket_slot (s : State) (l : LineId) (c : FaultClass) (f : Failure) (src : Source) :
    (s.overflowTicket l c f src).slot = s.slot := by
  unfold State.overflowTicket
  simp only
  have h : ((s.updLine l fun r => r.addPending c).pushNotice .m (.ticketOverflow l c f.severity f.value src)).slot
      = s.slot := funext (State.pushNotice_told _ _ _).slot
  split
  · exact h
  · rw [State.vtuOffer_slot]; exact h

theorem State.mergeTicket_slot (s : State) (n : SlotId) (t : Ticket) (f : Failure) (st : Stamp) (m : SlotId) :
    (s.mergeTicket n t f st).slot m = if n = m then some (mergedTicket t f st) else s.slot m := by
  unfold State.mergeTicket
  simp only
  rw [(State.ticketNotice_told _ _).slot, State.slot_writeSlot]

theorem Severity.worse_critical (a : Severity) : Severity.worse .critical a = .critical := by cases a <;> rfl

/-- A failed class keeps tickets apart (R128 to R135). -/
theorem State.applyFailure_apart {s : State} (l : LineId) (c : FaultClass) (f : Failure) (src : Source) (st : Stamp)
    (hc : CounterOk s.counter) (hf : c = .hazard → f.severity = .critical) (h : s.TicketsApart) :
    (s.applyFailure l c f src st).TicketsApart := by
  unfold State.applyFailure
  split
  · rename_i n t ho
    obtain ⟨h₁, -⟩ := ticketOn_some ho
    exact h.changed h₁ (s.mergeTicket_slot n t f st) rfl rfl rfl id fun e => by
      show t.severity.worse f.severity = .critical
      rw [e, Severity.worse_critical]
  · rename_i ho
    split
    · rename_i n u ht
      obtain ⟨-, h₂, h₃⟩ := State.takeSlot_table ht
      exact (h.sub h₂).added (u.createTicket_slot n l c f src st) (u.freeNumber_free (h₃ ▸ hc))
        (fun m x hx => ticketOn_eq_none ho m x (h₂ m x hx)) hf
    · exact h.sub fun n x hx => by rw [← s.overflowTicket_slot l c f src]; exact hx

theorem State.applyPass_slot (s : State) (l : LineId) (c : FaultClass) (n : Nat) (st : Stamp) :
    (s.applyPass l c n st).slot = s.slot
      ∨ ∃ k t, s.ticketOn l c = some (k, t)
        ∧ ∀ m, (s.applyPass l c n st).slot m = if k = m then some (passedTicket t n st) else s.slot m := by
  unfold State.applyPass
  simp only
  split
  · exact .inl rfl
  · rename_i k t ho
    refine .inr ⟨k, t, ho, fun m => ?_⟩
    rw [State.updLine_slot]
    split
    · rw [(State.ticketNotice_told _ _).slot, State.slot_writeSlot]
    · rw [State.slot_writeSlot]

theorem passedTicket_same (t : Ticket) (n : Nat) (st : Stamp) :
    (passedTicket t n st).number = t.number ∧ (passedTicket t n st).line = t.line ∧ (passedTicket t n st).cls = t.cls
      ∧ (passedTicket t n st).severity = t.severity
      ∧ ((passedTicket t n st).state ≠ .cleared → t.state ≠ .cleared) := by
  unfold passedTicket
  simp only
  split <;> simp

/-- A passed class keeps tickets apart (R136). -/
theorem State.applyPass_apart {s : State} (l : LineId) (c : FaultClass) (n : Nat) (st : Stamp) (h : s.TicketsApart) :
    (s.applyPass l c n st).TicketsApart := by
  rcases s.applyPass_slot l c n st with e | ⟨k, t, ho, e⟩
  · exact h.sub fun m x hx => by rw [← e]; exact hx
  · obtain ⟨h₁, h₂, h₃, h₄, h₅⟩ := passedTicket_same t n st
    exact h.changed (ticketOn_some ho).1 e h₁ h₂ h₃ h₅ fun hv => by rw [h₄]; exact hv

/-! ## The hazards lines carry -/

/-- The quarantine flags and the hazards carried are the same on the lines that have a property. -/
def CarriesSame (P : LineId → Prop) (s t : State) : Prop :=
  ∀ k, P k → (t.line k).quarantined = (s.line k).quarantined ∧ (t.CarriesHazard k ↔ s.CarriesHazard k)

theorem CarriesSame.refl (P : LineId → Prop) (s : State) : CarriesSame P s s := fun _ _ => ⟨rfl, .rfl⟩

theorem CarriesSame.trans {P : LineId → Prop} {s t u : State} (a : CarriesSame P s t) (b : CarriesSame P t u) :
    CarriesSame P s u := fun k hk => ⟨(b k hk).1.trans (a k hk).1, (b k hk).2.trans (a k hk).2⟩

theorem CarriesSame.of_eq {P : LineId → Prop} {s t : State} (ht : t.slot = s.slot)
    (hl : ∀ k, (t.line k).quarantined = (s.line k).quarantined ∧ (t.line k).pendingMask = (s.line k).pendingMask) :
    CarriesSame P s t := fun k _ => ⟨(hl k).1, by unfold State.CarriesHazard; rw [ht, (hl k).2]⟩

theorem CarriesSame.of_told {P : LineId → Prop} {s t : State} (h : Told s t) : CarriesSame P s t :=
  .of_eq (funext h.slot) fun k => by rcases h.line k with e | e <;> simp [e]

/-- A slot's contents change without a change of the hazards they stand for. -/
theorem CarriesSame.slot {P : LineId → Prop} {s t : State} {n : SlotId} {o : Option Ticket}
    (ht : ∀ m, t.slot m = if n = m then o else s.slot m)
    (hl : ∀ k, (t.line k).quarantined = (s.line k).quarantined ∧ (t.line k).pendingMask = (s.line k).pendingMask)
    (ho : ∀ k, P k → ((∃ x, o = some x ∧ x.line = k ∧ x.cls = .hazard ∧ x.state ≠ .cleared)
      ↔ ∃ x, s.slot n = some x ∧ x.line = k ∧ x.cls = .hazard ∧ x.state ≠ .cleared)) : CarriesSame P s t := by
  intro k hk
  refine ⟨(hl k).1, ?_⟩
  unfold State.CarriesHazard
  rw [(hl k).2]
  refine or_congr ⟨?_, ?_⟩ Iff.rfl
  · rintro ⟨m, x, hx, hh⟩
    rw [ht] at hx
    split at hx
    · obtain ⟨y, hy, hh'⟩ := (ho k hk).1 ⟨x, hx, hh⟩
      exact ⟨n, y, hy, hh'⟩
    · exact ⟨m, x, hx, hh⟩
  · rintro ⟨m, x, hx, hh⟩
    by_cases hm : n = m
    · subst hm
      obtain ⟨y, hy, hh'⟩ := (ho k hk).2 ⟨x, hx, hh⟩
      exact ⟨n, y, by rw [ht, if_pos rfl]; exact hy, hh'⟩
    · exact ⟨m, x, by rw [ht, if_neg hm]; exact hx, hh⟩

theorem FaultClass.index_zero {c : FaultClass} : c.index = 0 ↔ c = .hazard := by cases c <;> simp [FaultClass.index]

theorem addPending_get (r : LineRec) (c : FaultClass) (i : Fin 7) :
    (r.addPending c).pendingMask.get i = (decide (c.index = i) || r.pendingMask.get i) := by
  unfold LineRec.addPending
  simp only [Tab.get_set]
  split <;> simp_all

theorem dropPending_get (r : LineRec) (c : FaultClass) (i : Fin 7) :
    (r.dropPending c).pendingMask.get i = (!decide (c.index = i) && r.pendingMask.get i) := by
  unfold LineRec.dropPending
  simp only [Tab.get_set]
  split <;> simp_all

/-- A pending mark written on a line changes the hazard of that line alone, and only in class HAZARD. -/
theorem State.updPending_carries {P : LineId → Prop} (s : State) (l : LineId) (f : LineRec → LineRec)
    (hq : (f (s.line l)).quarantined = (s.line l).quarantined)
    (hp : P l → (f (s.line l)).pendingMask.get 0 = (s.line l).pendingMask.get 0) : CarriesSame P s (s.updLine l f) := by
  intro k hk
  unfold State.CarriesHazard
  rw [State.line_updLine]
  split
  · subst_vars; exact ⟨hq, or_congr Iff.rfl (by rw [hp hk])⟩
  · exact ⟨rfl, Iff.rfl⟩

theorem State.vtuOffer_carries {P : LineId → Prop} (s : State) (l : LineId) : CarriesSame P s (s.vtuOffer l) :=
  .of_eq (s.vtuOffer_slot l) fun k => by rw [s.vtuOffer_line l]; exact ⟨rfl, rfl⟩

/-- Taking a slot for a new ticket changes no hazard (R132, R133). -/
theorem State.takeSlot_carries {P : LineId → Prop} {s : State} {f : Failure} {n : SlotId} {u : State}
    (h : s.takeSlot f = some (n, u)) : CarriesSame P s u := by
  unfold State.takeSlot at h
  split at h
  · simp only [Option.some.injEq, Prod.mk.injEq] at h
    rw [← h.2]; exact .refl P s
  · split at h
    · rename_i k t ho
      simp only [Option.some.injEq, Prod.mk.injEq] at h
      obtain ⟨rfl, rfl⟩ := h
      obtain ⟨h₁, h₂⟩ := State.oldest_some ho
      have ht := s.ticketNotice_told (.purged t.number t.line t.cls)
      refine (CarriesSame.of_told ht).trans (.slot (State.slot_writeSlot _ k · none) (fun _ => ⟨rfl, rfl⟩) fun k _ => ?_)
      refine iff_of_false (by simp) ?_
      rintro ⟨x, hx, -, -, hx'⟩
      rw [ht.slot, h₁] at hx
      cases hx
      exact hx' (by simpa using h₂)
    · split at h
      · simp only [Option.map_eq_some_iff, Prod.mk.injEq] at h
        obtain ⟨⟨k, t⟩, ho, rfl, rfl⟩ := h
        obtain ⟨h₁, h₂⟩ := State.oldest_some ho
        have hopen : t.state = .opened := by simp at h₂; exact h₂.1
        have ht := s.ticketNotice_told (.evicted t.number t.line t.cls t.severity)
        refine (CarriesSame.of_told (P := P) ht).trans ?_
        have hk : (s.ticketNotice (.evicted t.number t.line t.cls t.severity)).slot k = some t := by rw [ht.slot]; exact h₁
        unfold State.evict
        simp only
        generalize s.ticketNotice (.evicted t.number t.line t.cls t.severity) = a at hk
        intro j _
        have e₁ : ∀ m, (((a.updLine t.line fun r => r.addPending t.cls).vtuOffer t.line).writeSlot k none).slot m
            = if k = m then none else a.slot m := fun m => by
          rw [State.slot_writeSlot, State.vtuOffer_slot]; rfl
        have e₂ : (((a.updLine t.line fun r => r.addPending t.cls).vtuOffer t.line).writeSlot k none).line j
            = if t.line = j then (a.line t.line).addPending t.cls else a.line j := by
          rw [State.writeSlot_line, State.vtuOffer_line, State.line_updLine]
        refine ⟨by rw [e₂]; split <;> simp_all [LineRec.addPending], ?_⟩
        unfold State.CarriesHazard
        rw [e₂]
        constructor
        · rintro (⟨m, x, hx, hh⟩ | hm)
          · rw [e₁] at hx
            split at hx
            · cases hx
            · exact .inl ⟨m, x, hx, hh⟩
          · split at hm
            · rename_i hl
              rw [addPending_get] at hm
              simp only [Bool.or_eq_true, decide_eq_true_eq, FaultClass.index_zero] at hm
              rcases hm with hm | hm
              · exact .inl ⟨k, t, hk, hl, hm, by simp [hopen]⟩
              · exact .inr (hl ▸ hm)
            · exact .inr hm
        · rintro (⟨m, x, hx, hh⟩ | hm)
          · by_cases hkm : k = m
            · subst hkm
              rw [hk] at hx
              cases hx
              right
              rw [if_pos hh.1, addPending_get, hh.2.1]
              simp [FaultClass.index]
            · exact .inl ⟨m, x, by rw [e₁, if_neg hkm]; exact hx, hh⟩
          · right
            split
            · rw [addPending_get]; subst_vars; simp [hm]
            · exact hm
      · cases h

theorem State.createTicket_line (s : State) (n : SlotId) (l : LineId) (c : FaultClass) (f : Failure) (src : Source)
    (st : Stamp) (k : LineId) :
    ((s.createTicket n l c f src st).line k).quarantined = (s.line k).quarantined
      ∧ ((s.createTicket n l c f src st).line k).pendingMask
        = if l = k then ((s.line l).dropPending c).pendingMask else (s.line k).pendingMask := by
  have h : ∀ e, (((({ s with counter := nextNumber (s.freeNumber 257 s.counter) }.writeSlot n
      (some (newTicket (s.freeNumber 257 s.counter) l c f src st))).updLine l fun r =>
        r.dropPending c).ticketNotice e).line k).quarantined = (s.line k).quarantined
      ∧ (((({ s with counter := nextNumber (s.freeNumber 257 s.counter) }.writeSlot n
      (some (newTicket (s.freeNumber 257 s.counter) l c f src st))).updLine l fun r =>
        r.dropPending c).ticketNotice e).line k).pendingMask
        = if l = k then ((s.line l).dropPending c).pendingMask else (s.line k).pendingMask := fun e => by
    have ht := State.ticketNotice_told (({ s with counter := nextNumber (s.freeNumber 257 s.counter) }.writeSlot n
      (some (newTicket (s.freeNumber 257 s.counter) l c f src st))).updLine l fun r => r.dropPending c) e
    have hq := ht.line k
    rw [State.line_updLine] at hq
    rcases hq with hq | hq <;> rw [hq] <;> (split <;> (subst_vars; constructor <;> simp [LineRec.dropPending] <;> rfl))
  unfold State.createTicket
  simp only
  split
  · exact h _
  · rw [State.vtuOffer_line]; exact h _

/-- A failed class changes the hazard of its own line alone, and only in class HAZARD. -/
theorem State.applyFailure_carries (s : State) (l : LineId) (c : FaultClass) (f : Failure) (src : Source) (st : Stamp) :
    CarriesSame (fun k => c = .hazard → k ≠ l) s (s.applyFailure l c f src st) := by
  unfold State.applyFailure
  split
  · rename_i n t ho
    obtain ⟨h₁, -⟩ := ticketOn_some ho
    refine .slot (s.mergeTicket_slot n t f st) (fun k => ?_) fun k _ => ?_
    · have ht := fun e => State.ticketNotice_told (s.writeSlot n (some (mergedTicket t f st))) e
      unfold State.mergeTicket
      simp only
      rcases (ht _).line k with e | e <;> rw [e] <;> simp
    · constructor
      · rintro ⟨x, hx, hh⟩; cases hx; exact ⟨t, h₁, hh⟩
      · rintro ⟨x, hx, hh⟩; rw [h₁] at hx; cases hx; exact ⟨_, rfl, hh⟩
  · split
    · rename_i n u ht
      refine (State.takeSlot_carries ht).trans fun k hk => ?_
      obtain ⟨hq, hp⟩ := u.createTicket_line n l c f src st k
      refine ⟨hq, ?_⟩
      have hn := (State.takeSlot_table ht).1
      unfold State.CarriesHazard
      rw [hp]
      refine or_congr ⟨?_, ?_⟩ ?_
      · rintro ⟨m, x, hx, hh⟩
        rw [State.createTicket_slot] at hx
        split at hx
        · cases hx
          exact absurd hh.1.symm (hk hh.2.1)
        · exact ⟨m, x, hx, hh⟩
      · rintro ⟨m, x, hx, hh⟩
        refine ⟨m, x, ?_, hh⟩
        rw [State.createTicket_slot, if_neg]
        · exact hx
        · rintro rfl; rw [hn] at hx; cases hx
      · split
        · rename_i hl
          rw [dropPending_get, hl]
          have : c ≠ .hazard := fun e => hk e hl.symm
          simp [FaultClass.index_zero, this]
        · rfl
    · unfold State.overflowTicket
      simp only
      have h : CarriesSame (fun k => c = .hazard → k ≠ l) s
          ((s.updLine l fun r => r.addPending c).pushNotice .m (.ticketOverflow l c f.severity f.value src)) := by
        refine CarriesSame.trans (s.updPending_carries l (fun r => r.addPending c) rfl fun hk => ?_)
          (.of_told (State.pushNotice_told _ _ _))
        rw [addPending_get]
        have : c ≠ .hazard := fun e => hk e rfl
        simp [FaultClass.index_zero, this]
      split
      · exact h
      · exact h.trans (State.vtuOffer_carries _ _)

/-- A passed class changes the hazard of its own line alone, and only in class HAZARD. -/
theorem State.applyPass_carries (s : State) (l : LineId) (c : FaultClass) (n : Nat) (st : Stamp) :
    CarriesSame (fun k => c = .hazard → k ≠ l) s (s.applyPass l c n st) := by
  unfold State.applyPass
  simp only
  refine CarriesSame.trans ?_ (State.updPending_carries _ l (fun r => r.dropPending c) rfl fun hk => ?_)
  · split
    · exact .refl _ s
    · rename_i k t ho
      obtain ⟨h₁, h₂, h₃, -⟩ := ticketOn_some ho
      obtain ⟨-, p₂, p₃, -, -⟩ := passedTicket_same t n st
      have hw : CarriesSame (fun k => c = .hazard → k ≠ l) s (s.writeSlot k (some (passedTicket t n st))) := by
        refine .slot (State.slot_writeSlot _ k · _) (fun _ => ⟨rfl, rfl⟩) fun j hj => ?_
        constructor
        · rintro ⟨x, hx, e₁, e₂, -⟩
          cases hx
          rw [p₂, h₂] at e₁
          rw [p₃, h₃] at e₂
          exact absurd e₁.symm (hj e₂)
        · rintro ⟨x, hx, e₁, e₂, -⟩
          rw [h₁] at hx
          cases hx
          rw [h₂] at e₁
          rw [h₃] at e₂
          exact absurd e₁.symm (hj e₂)
      split
      · exact hw.trans (.of_told (State.ticketNotice_told _ _))
      · exact hw
  · rw [dropPending_get]
    have : c ≠ .hazard := fun e => hk e rfl
    simp [FaultClass.index_zero, this]

/-! ## The tickets an autoload keeps (R147) -/

theorem Tab.get_mem {α : Type} {n : Nat} (t : Tab α n) (i : Fin n) : t.get i ∈ t.items := by
  rw [Tab.get_eq]; exact List.getElem_mem _

/-- What no conflict says of the tickets kept so far. -/
theorem conflicts_false {kept : Tab (Option Ticket) 256} {t : Ticket} (h : conflicts kept t = false) (n : SlotId) (x : Ticket)
    (hx : kept.get n = some x) :
    x.number ≠ t.number ∧ (t.state ≠ .cleared → x.state ≠ .cleared → ¬ (x.line = t.line ∧ x.cls = t.cls)) := by
  unfold conflicts at h
  have := List.any_eq_false.1 h _ (hx ▸ Tab.get_mem kept n)
  simp only [Ticket.nonCleared, Bool.or_eq_true, Bool.and_eq_true, beq_iff_eq, bne_iff_ne, ne_eq, not_or, not_and] at this
  exact ⟨this.1, fun h₁ h₂ h₃ => this.2 ⟨⟨h₁, h₂⟩, h₃.1⟩ h₃.2⟩

theorem loadTicket_hazard {d : PageData} {t : Ticket} (h : loadTicket d = some t) : t.cls = .hazard → t.severity = .critical := by
  unfold loadTicket at h
  simp only [Option.bind_eq_bind, Option.bind_eq_some_iff] at h
  obtain ⟨_, -, _, -, _, -, _, -, _, -, h⟩ := h
  split at h
  · cases h
  · cases h
    intro hc
    simp only [ticketFields] at hc ⊢
    rw [if_pos hc]

/-- A table as the whole table of a state. -/
def tableOf (f : Tab (Option Ticket) 256) : State := { State.reset with tickets := f }

theorem examineSlot_apart {e : Examined} {x : SlotId × PageData} (h : (tableOf e.tickets).TicketsApart) :
    (tableOf (examineSlot e x).tickets).TicketsApart := by
  unfold examineSlot
  split
  · exact h
  · rename_i u hu
    split
    · exact h
    · rename_i hc
      have hc' := conflicts_false (by simpa using hc)
      refine ⟨fun n m a b ha hb hab => ?_, fun n m a b ha hb hab h₁ h₂ => ?_, fun n a ha hcl => ?_⟩
      all_goals
        simp only [tableOf, State.slot, Tab.get_set] at *
      · split at ha <;> split at hb
        · subst_vars; exact absurd rfl hab
        · cases ha; exact fun e => (hc' m b hb).1 e.symm
        · cases hb; exact (hc' n a ha).1
        · exact h.numbers n m a b ha hb hab
      · split at ha <;> split at hb
        · subst_vars; exact absurd rfl hab
        · cases ha; exact fun e => (hc' m b hb).2 h₁ h₂ ⟨e.1.symm, e.2.symm⟩
        · cases hb; exact (hc' n a ha).2 h₂ h₁
        · exact h.classes n m a b ha hb hab h₁ h₂
      · split at ha
        · cases ha; exact loadTicket_hazard hu hcl
        · exact h.hazard n a ha hcl

/-- The tickets that load are apart (R147). -/
theorem examine_apart (image : List (SlotId × PageData)) (dirty : Tab Bool 256) :
    (tableOf (examine image dirty).tickets).TicketsApart := by
  unfold examine
  suffices ∀ e : Examined, (tableOf e.tickets).TicketsApart → (tableOf (image.foldl examineSlot e).tickets).TicketsApart by
    refine this _ ⟨?_, ?_, ?_⟩ <;> (intros; simp_all [tableOf, State.slot])
  induction image with
  | nil => exact fun e h => h
  | cons x xs ih => exact fun e h => ih _ (examineSlot_apart h)

/-- The pair is all that a loaded ticket's last value adds to its record (R113). -/
theorem State.withLoadedPair_eq (s : State) (n : SlotId) (t : Ticket) :
    s.withLoadedPair n t = { t with pair := (s.withLoadedPair n t).pair } := by
  unfold State.withLoadedPair
  simp only
  split
  · split
    · rename_i h; rw [← h]
    · rfl
  · rfl

/-- Tickets that are apart stay apart when their last values get their pairs. -/
theorem State.TicketsApart.of_pairs {s t : State} {f : SlotId → Ticket → Ticket} (h : s.TicketsApart)
    (hf : ∀ n x, f n x = { x with pair := (f n x).pair }) (ht : ∀ n, t.slot n = (s.slot n).map (f n)) : t.TicketsApart := by
  have back : ∀ {n x}, t.slot n = some x → ∃ y, s.slot n = some y ∧ x = { y with pair := x.pair } := fun {n x} hx => by
    rw [ht, Option.map_eq_some_iff] at hx
    obtain ⟨y, hy, rfl⟩ := hx
    exact ⟨y, hy, hf n y⟩
  refine ⟨fun n m a b ha hb hab => ?_, fun n m a b ha hb hab => ?_, fun n a ha => ?_⟩
  · obtain ⟨x, hx, ea⟩ := back ha
    obtain ⟨y, hy, eb⟩ := back hb
    rw [ea, eb]; exact h.numbers n m x y hx hy hab
  · obtain ⟨x, hx, ea⟩ := back ha
    obtain ⟨y, hy, eb⟩ := back hb
    rw [ea, eb]; exact h.classes n m x y hx hy hab
  · obtain ⟨x, hx, ea⟩ := back ha
    rw [ea]; exact h.hazard n x hx

theorem mem_hazardLines {f : Tab (Option Ticket) 256} {l : LineId} :
    l ∈ hazardLines f ↔ ∃ n t, f.get n = some t ∧ t.line = l ∧ t.cls = .hazard ∧ t.state ≠ .cleared := by
  unfold hazardLines
  rw [List.mem_filterMap]
  constructor
  · rintro ⟨o, ho, hl⟩
    obtain ⟨i, hi, rfl⟩ := List.getElem_of_mem ho
    split at hl
    · rename_i t ht
      split at hl
      · rename_i hc
        simp only [Option.some.injEq] at hl
        simp only [Bool.and_eq_true, beq_iff_eq, Ticket.nonCleared, bne_iff_ne, ne_eq] at hc
        exact ⟨⟨i, by rw [f.size_eq] at hi; exact hi⟩, t, by rw [Tab.get_eq]; exact ht, hl, hc⟩
      · cases hl
    · cases hl
  · rintro ⟨n, t, ht, h₁, h₂, h₃⟩
    exact ⟨some t, ht ▸ Tab.get_mem f n, by simp [h₁, h₂, h₃, Ticket.nonCleared]⟩

end Sys2Proof.Machine
end

