-- ==== Sys2Proof/Laws/Claims.lean ====
section
/-!
SUPPORT. An operation is what the claims' words say of it: what meets a request's needs and the grant (R24, R25), a scan
(R31), the sweep state and a start attempt (R153 to R155), the write service's choice and the end of an event (R172, R174).
-/

set_option Elab.async false

namespace Sys2Proof.Machine

/-! ## Changing one record in two ways that agree on it -/

theorem State.updBus_congr (s : State) (b : BusId) (f g : BusRec → BusRec) (h : f (s.bus b) = g (s.bus b)) :
    s.updBus b f = s.updBus b g := by unfold State.updBus; rw [h]

theorem State.updMu_congr (s : State) (u : MuId) (f g : MuRec → MuRec) (h : f (s.mu u) = g (s.mu u)) :
    s.updMu u f = s.updMu u g := by unfold State.updMu; rw [h]

theorem State.updLine_congr (s : State) (l : LineId) (f g : LineRec → LineRec) (h : f (s.line l) = g (s.line l)) :
    s.updLine l f = s.updLine l g := by unfold State.updLine; rw [h]

/-! ## Needs and grants (R24, R25, R69) -/

/-- A search of a list in ascending order finds the lowest element with the property. -/
theorem find?_lowest {n : Nat} {xs : List (Fin n)} (hs : xs.Pairwise (· < ·)) (hm : ∀ i, i ∈ xs) (p : Fin n → Bool)
    (i : Fin n) : xs.find? p = some i ↔ p i = true ∧ ∀ j < i, p j = false := by
  constructor
  · intro h
    obtain ⟨hi, as, bs, rfl, ha⟩ := List.find?_eq_some_iff_append.1 h
    refine ⟨hi, fun j hj => ?_⟩
    rcases List.mem_append.1 (hm j) with h₁ | h₁
    · simpa using ha j h₁
    · rcases List.mem_cons.1 h₁ with rfl | h₂
      · exact absurd hj (lt_irrefl _)
      · exact absurd hj (not_lt.2 (List.rel_of_pairwise_cons (List.pairwise_append.1 hs).2.1 h₂).le)
  · rintro ⟨hi, hj⟩
    obtain ⟨as, bs, rfl⟩ := List.append_of_mem (hm i)
    rw [List.find?_append, List.find?_eq_none.2 fun j hj' => by
      have := (List.pairwise_append.1 hs).2.2 j hj' i List.mem_cons_self
      simp [hj j this]]
    simp [hi]

theorem State.freeBus?_iff {s : State} {b : BusId} : s.freeBus? = some b ↔ s.LowestFree b := by
  unfold State.freeBus?
  rw [find?_lowest (by decide) mem_allBuses]
  simp [State.LowestFree]

theorem State.freeUnit?_iff {s : State} {u : MuId} : s.freeUnit? = some u ↔ s.ChosenUnit u := by
  unfold State.freeUnit? State.ChosenUnit
  have key := fun (p : MuId → Bool) (v : MuId) => find?_lowest (xs := allUnits) (by decide) mem_allUnits p v
  split
  · rename_i v hv
    rw [key] at hv
    simp only [beq_iff_eq, beq_eq_false_iff_ne, ne_eq] at hv
    constructor
    · rintro h; cases h; exact .inl hv
    · rintro (⟨h₁, h₂⟩ | ⟨h₁, -⟩)
      · rcases lt_trichotomy u v with h | rfl | h
        · exact absurd h₁ (hv.2 u h)
        · rfl
        · exact absurd hv.1 (h₂ v h)
      · exact absurd hv.1 (h₁ v)
  · rename_i hn
    have hn' : ∀ v, (s.mu v).state ≠ .ready := fun v => by simpa using List.find?_eq_none.1 hn v (mem_allUnits v)
    rw [key]
    simp only [beq_iff_eq, beq_eq_false_iff_ne, ne_eq]
    constructor
    · rintro ⟨h₁, h₂⟩; exact .inr ⟨hn', h₁, h₂⟩
    · rintro (⟨h₁, -⟩ | ⟨-, h₁, h₂⟩)
      · exact absurd h₁ (hn' u)
      · exact ⟨h₁, h₂⟩

theorem State.talkInUse_iff {s : State} {d : DeskId} :
    s.talkInUse d = true ↔ ∃ c, (s.bus c).holder = some (.desk d) ∧ (s.bus c).talkPair = true := by
  simp only [State.talkInUse, List.any_eq_true, Bool.and_eq_true, beq_iff_eq]
  exact ⟨fun ⟨c, _, h⟩ => ⟨c, h⟩, fun ⟨c, h⟩ => ⟨c, mem_allBuses c, h⟩⟩

/-- The search for a request's needs finds exactly what meets them (R24). -/
theorem State.needs_iff {s : State} {q : Request} {b : BusId} {u : Option MuId} :
    s.needs q.source q.termination = some (b, u) ↔ s.NeedsMet q b u := by
  constructor
  · intro h
    unfold State.needs at h
    split at h
    · cases h
    · rename_i c hc ht
      cases h
      exact ⟨State.freeBus?_iff.1 hc, .inr ⟨by simp [ht], rfl⟩, fun h => by rw [ht] at h; cases h⟩
    · rename_i c hc ht
      simp only [Option.map_eq_some_iff, Prod.mk.injEq] at h
      obtain ⟨v, hv, rfl, rfl⟩ := h
      exact ⟨State.freeBus?_iff.1 hc, .inl ⟨ht, v, rfl, State.freeUnit?_iff.1 hv⟩, fun h => by rw [ht] at h; cases h⟩
    · rename_i c hc ht
      have hb := State.freeBus?_iff.1 hc
      split at h
      · rename_i d hd
        split at h
        · cases h
        · rename_i hn
          cases h
          refine ⟨hb, .inr ⟨by simp [ht], rfl⟩, fun _ d' x hs hx => ?_⟩
          rw [hd] at hs; cases hs
          cases htp : (s.bus x).talkPair with
          | false => rfl
          | true => exact absurd (State.talkInUse_iff.2 ⟨x, hx, htp⟩) hn
      · rename_i hd
        cases h
        exact ⟨hb, .inr ⟨by simp [ht], rfl⟩, fun _ d' x hs => by rw [hd] at hs; cases hs⟩
      · rename_i hd
        cases h
        exact ⟨hb, .inr ⟨by simp [ht], rfl⟩, fun _ d' x hs => by rw [hd] at hs; cases hs⟩
  · rintro ⟨h₁, h₂, h₃⟩
    unfold State.needs
    rw [State.freeBus?_iff.2 h₁]
    cases ht : q.termination with
    | none => rcases h₂ with ⟨h, -⟩ | ⟨-, rfl⟩ <;> simp_all
    | mu =>
      rcases h₂ with ⟨-, v, rfl, hv⟩ | ⟨h, -⟩
      · simp [State.freeUnit?_iff.2 hv]
      · exact absurd ht h
    | talk =>
      rcases h₂ with ⟨h, -⟩ | ⟨-, rfl⟩
      · simp_all
      · cases hs : q.source with
        | desk d =>
          have : ¬ s.talkInUse d = true := by
            rw [State.talkInUse_iff]
            rintro ⟨c, hc, htp⟩
            rw [h₃ ht d c hs hc] at htp; cases htp
          simp [this]
        | mc => rfl
        | rs => rfl

/-- Needs that nothing meets are not found (R24). -/
theorem State.needs_none {s : State} {q : Request} (h : ∀ b u, ¬ s.NeedsMet q b u) :
    s.needs q.source q.termination = none := by
  cases e : s.needs q.source q.termination with
  | none => rfl
  | some x => exact absurd (State.needs_iff.1 e) (h x.1 x.2)

theorem State.ChosenUnit.state {s : State} {u : MuId} (h : s.ChosenUnit u) :
    (s.mu u).state = .ready ∨ (s.mu u).state = .standby := by
  rcases h with ⟨h, -⟩ | ⟨-, h, -⟩
  · exact .inl h
  · exact .inr h

theorem bindUnit_eq {m : MuRec} (now : Nat) (b : BusId) (h : m.state = .ready ∨ m.state = .standby) :
    bindUnit now b m = boundUnit now b m := by
  unfold bindUnit boundUnit
  rcases h with h | h <;> rw [h] <;> simp [warmUpTime, ms]

/-- A grant with room for BLOCK is what the claims say (R25). -/
theorem State.grant_eq {s : State} {q : Request} {b : BusId} {u : Option MuId} (hx : 1 ≤ s.freeEntries .x)
    (hu : ∀ v, u = some v → (s.mu v).state = .ready ∨ (s.mu v).state = .standby) : s.grant q b u = s.granted q b u := by
  have hx : s.freeEntries .x ≠ 0 := by omega
  unfold State.grant State.granted
  cases u with
  | none =>
    simp only [State.bindMu, State.updUnit]
    rw [State.pushKept_of_room (by exact hx)]
    simp only [grantedBus, grantRecord, State.stamp, ms, Nat.mul_comm 10]
    rfl
  | some v =>
    simp only [State.bindMu, State.updUnit]
    rw [State.pushKept_of_room (by exact hx)]
    have : ∀ t : State, (∀ x, t.mu x = s.mu x) → t.updMu v (bindUnit t.now b) = t.updMu v (boundUnit t.now b) :=
      fun t ht => t.updMu_congr v _ _ (bindUnit_eq _ _ (by rw [ht]; exact hu v rfl))
    rw [this (s.updBus b fun x => grantedBus s q (some v)) (fun x => rfl)]
    simp only [grantedBus, grantRecord, State.stamp, ms, Nat.mul_comm 10]
    rfl

theorem State.NeedsMet.grant_eq {s : State} {q : Request} {b : BusId} {u : Option MuId} (h : s.NeedsMet q b u)
    (t : State) (hm : t.units = s.units) (hx : 1 ≤ t.freeEntries .x) : t.grant q b u = t.granted q b u := by
  refine State.grant_eq hx fun v hv => ?_
  rw [State.mu_congr hm]
  rcases h.unit with ⟨-, w, rfl, hw⟩ | ⟨-, rfl⟩
  · cases hv; exact hw.state
  · cases hv

/-- A grant leaves these alone. -/
theorem State.granted_rest (s : State) (q : Request) (b : BusId) (u : Option MuId) :
    (s.granted q b u).sweep = s.sweep ∧ (s.granted q b u).rsTests = s.rsTests ∧ (s.granted q b u).now = s.now
      ∧ (s.granted q b u).sweepCfg = s.sweepCfg ∧ (s.granted q b u).store = s.store
      ∧ (s.granted q b u).lapseInHand = s.lapseInHand := by
  unfold State.granted; cases u <;> exact ⟨rfl, rfl, rfl, rfl, rfl, rfl⟩

/-! ## A scan (R31) -/

theorem callStateAdmits_iff {src : Source} {c : CallState} :
    callStateAdmits src c = true ↔ c = .idle ∨ (c = .unknown ∧ src.automated = false) := by
  cases c <;> simp [callStateAdmits]

/-- The admission test of a scan passes exactly on these conditions (R14, R31). -/
theorem State.admission_scan_iff {s : State} {l : LineId} {src : Source} {t : Termination} :
    s.admission l src t .scan = none ↔ (s.line l).onBus = none
      ∧ ((s.line l).quarantined = true → src.automated = false ∧ t ≠ .talk) ∧ (src.automated = true → s.supervised = true)
      ∧ ((s.line l).callState = .idle ∨ ((s.line l).callState = .unknown ∧ src.automated = false)) := by
  rw [← callStateAdmits_iff]
  unfold State.admission
  generalize s.line l = r
  generalize hk : callStateAdmits src r.callState = ok
  cases h₁ : r.onBus <;> cases h₂ : r.quarantined <;> cases h₃ : src.automated <;> cases h₄ : s.supervised <;>
    cases ok <;> cases t <;> simp [h₁, h₂, hk]

theorem State.scanAdmits_iff {s : State} {q : Request} : s.ScanAdmits q ↔ s.isRunning = true
    ∧ s.admission q.line q.source q.termination .scan = none ∧ s.countOf q.source ≤ s.allowance q.source := by
  rw [State.admission_scan_iff]
  simp only [State.isRunning, beq_iff_eq]
  exact ⟨fun ⟨h₁, h₂, h₃, h₄, h₅, h₆⟩ => ⟨h₁, ⟨h₂, h₃, h₄, h₅⟩, h₆⟩, fun ⟨h₁, ⟨h₂, h₃, h₄, h₅⟩, h₆⟩ => ⟨h₁, h₂, h₃, h₄, h₅, h₆⟩⟩

theorem ScanWalk.foldl_eq {es : List WaitEntry} {s t : State} (h : ScanWalk es s t) : es.foldl State.scanEntry s = t := by
  induction h with
  | ends => rfl
  | grants e es s t b u ha hn hx _ ih =>
    rw [List.foldl_cons]
    have : s.scanEntry e = (s.unqueued e.req.line).granted e.req b u := by
      unfold State.scanEntry State.scanGrants
      rw [if_pos (State.scanAdmits_iff.1 ha), State.needs_iff.2 hn]
      exact hn.grant_eq (s.removeWait e.req.line) rfl hx
    rw [this, ih]
  | leaves e es s t h _ ih =>
    rw [List.foldl_cons]
    have : s.scanEntry e = s := by
      unfold State.scanEntry State.scanGrants
      rcases h with h | h
      · rw [if_neg (fun h' => h (State.scanAdmits_iff.2 h'))]
      · rw [State.needs_none h]; simp
    rw [this, ih]

theorem State.Scans.scan_eq {s t : State} (h : s.Scans t) : s.scan = t := ScanWalk.foldl_eq h

theorem State.Scans.of_empty {s : State} (h : s.waitQueue = []) : s.Scans s := by
  unfold State.Scans; rw [h]; exact .ends s

/-! ## The sweep (R153 to R156) -/

theorem inSweepWindow_iff (s : State) :
    inSweepWindow s.sweepCfg.windowStart s.sweepCfg.windowEnd s.clock.minute = true ↔ s.InsideWindow := by
  unfold inSweepWindow State.InsideWindow Clock.minute
  simp only
  split
  · simp only [Bool.and_eq_true, decide_eq_true_eq]; omega
  · split
    · simp only [Bool.or_eq_true, decide_eq_true_eq]; omega
    · simp only [true_iff]; omega

/-- The sweep state is what the table of R153 says. -/
theorem State.sweepIs_iff {s : State} {st : SweepState} : s.SweepIs st ↔ s.sweepState = st := by
  have key := inSweepWindow_iff s
  unfold State.SweepIs State.sweepState
  cases h₁ : s.sweep.enabled <;> cases h₂ : s.sweep.mcHold <;> cases h₃ : s.supervised <;> cases h₄ : s.clock.valid <;>
    simp [eq_comm (a := st)]
  by_cases h : s.InsideWindow
  · rw [key.2 h]; simp [h]
  · rw [Bool.eq_false_iff.2 (mt key.1 h)]; simp [h]

theorem State.sweepTakes_iff {s : State} {l : LineId} : s.sweepTest .retest l = true ↔ s.SweepTakes l := by
  unfold State.sweepTest
  simp only [beq_self_eq_true, Bool.true_or, Bool.and_true, Bool.and_eq_true, Option.isNone_iff_eq_none]
  have key : s.admission l .rs .mu .order = none ↔ (s.line l).onBus = none ∧ (s.line l).queued = false
      ∧ (s.line l).quarantined = false ∧ s.supervised = true ∧ (s.line l).callState = .idle := by
    unfold State.admission
    generalize s.line l = r
    cases h₁ : r.onBus <;> cases h₂ : r.queued <;> cases h₃ : r.quarantined <;> cases h₄ : s.supervised <;>
      cases h₅ : r.callState <;> simp [Source.automated, callStateAdmits, h₁, h₂, h₃, h₅]
  rw [key]
  exact ⟨fun ⟨h₁, h₂, h₃, h₄, h₅, h₆⟩ => ⟨h₁, h₂, h₃, h₄, h₅, h₆⟩, fun ⟨h₁, h₂, h₃, h₄, h₅, h₆⟩ => ⟨h₁, h₂, h₃, h₄, h₅, h₆⟩⟩

theorem testedOn_iff {s : State} {l : LineId} : testedOn (s.line l).lastRoutine s.clock.day = false ↔ s.UntestedToday l := by
  unfold testedOn State.UntestedToday
  cases (s.line l).lastRoutine <;> simp

theorem State.sweepTakes_cursor_iff {s : State} {l : LineId} :
    s.sweepTest .cursor l = true ↔ s.SweepTakes l ∧ s.UntestedToday l := by
  rw [← State.sweepTakes_iff, ← testedOn_iff]
  unfold State.sweepTest
  cases (s.classOf l).inSweep <;> cases (s.admission l .rs .mu .order).isNone <;>
    cases testedOn (s.line l).lastRoutine s.clock.day <;> simp

/-- The conditions of a start attempt are those of R154. -/
theorem State.mayStart_iff {s : State} : s.startConditions = true ↔ s.MayStart := by
  have e₁ : s.rsBuses = (List.finRange 4).countP fun b => (s.bus b).state != .free && (s.bus b).holder == some .rs := by
    unfold State.rsBuses; rw [List.countP_eq_length_filter]; rfl
  have e₂ : s.freeBuses = (List.finRange 4).countP fun b => (s.bus b).state == .free := by
    unfold State.freeBuses; rw [List.countP_eq_length_filter]; rfl
  have e₃ : s.freeUnits = (List.finRange 2).countP fun u => (s.mu u).state == .ready || (s.mu u).state == .standby := by
    unfold State.freeUnits; rw [List.countP_eq_length_filter]; rfl
  unfold State.startConditions
  simp only [Bool.and_eq_true, decide_eq_true_eq, beq_iff_eq, Bool.not_eq_true', Option.isNone_iff_eq_none, State.isRunning]
  rw [e₁, e₂, e₃]
  constructor
  · rintro ⟨⟨⟨⟨⟨⟨⟨h₁, h₂⟩, h₃⟩, h₄⟩, h₅⟩, h₆⟩, h₇⟩, h₈⟩
    exact ⟨h₁, State.sweepIs_iff.2 h₂, h₃, h₄, h₅, h₆, h₇, by omega⟩
  · rintro ⟨h₁, h₂, h₃, h₄, h₅, h₆, h₇, h₈⟩
    exact ⟨⟨⟨⟨⟨⟨⟨h₁, State.sweepIs_iff.1 h₂⟩, h₃⟩, h₄⟩, h₅⟩, h₆⟩, h₇⟩, by omega⟩

theorem satSucc_65535 (n : Nat) : satSucc 65535 n = min 65535 (n + 1) := by unfold satSucc; split <;> omega

theorem State.sweepGrant_eq {s : State} {l : LineId} {b : BusId} {u : MuId} (hu : s.ChosenUnit u)
    (hx : 1 ≤ s.freeEntries .x) : (s.sweepGrant l b (some u)).startPacing = s.sweepStarted l b u := by
  unfold State.sweepGrant
  simp only
  rw [State.grant_eq hx (by intro v hv; cases hv; exact hu.state)]
  unfold State.startPacing State.sweepStarted
  obtain ⟨h₁, h₂, h₃, h₄, -, -⟩ := s.granted_rest ⟨.rs, .test s.sweep.testNumber, l, .mu, some s.sweepCfg.programme⟩ b (some u)
  simp only [satSucc_65535, routineDay, seconds, State.updLine, Nat.mul_comm 10000]
  simp only [h₁, h₂, h₃, h₄]

theorem State.startPacing_eq (s : State) : s.startPacing = s.pacingRestarted := by
  unfold State.startPacing State.pacingRestarted seconds; rw [Nat.mul_comm]

theorem State.passEnd_eq (s : State) : s.passEnd = s.passEnded := rfl

theorem State.needs_rs {s : State} {b : BusId} {u : MuId} (hb : s.LowestFree b) (hu : s.ChosenUnit u) :
    s.needs .rs .mu = some (b, some u) := by
  unfold State.needs; rw [State.freeBus?_iff.2 hb]; simp [State.freeUnit?_iff.2 hu]

/-- Where a start attempt may be made, a bus and a unit are there for it (R154). -/
theorem State.MayStart.needs {s : State} (h : s.MayStart) : ∃ b u, s.needs .rs .mu = some (b, u) := by
  have h₁ := h.busReserve
  have h₂ := h.muReserve
  obtain ⟨b, -, hb⟩ := List.countP_pos_iff.1 (show 0 < (List.finRange 4).countP (fun b => (s.bus b).state == .free) by omega)
  obtain ⟨u, -, hu⟩ := List.countP_pos_iff.1
    (show 0 < (List.finRange 2).countP (fun u => (s.mu u).state == .ready || (s.mu u).state == .standby) by omega)
  have hfb : ∃ b, s.freeBus? = some b := by
    cases e : s.freeBus? with
    | some b => exact ⟨b, rfl⟩
    | none => exact absurd hb (by simpa using List.find?_eq_none.1 e b (mem_allBuses b))
  have hfu : ∃ u, s.freeUnit? = some u := by
    unfold State.freeUnit?
    split
    · exact ⟨_, rfl⟩
    · rename_i e
      cases e₂ : allUnits.find? fun u => (s.mu u).state == .standby with
      | some u => exact ⟨u, rfl⟩
      | none =>
        have h₃ := List.find?_eq_none.1 e u (mem_allUnits u)
        have h₄ := List.find?_eq_none.1 e₂ u (mem_allUnits u)
        simp only [beq_iff_eq, Bool.or_eq_true] at h₃ h₄ hu
        exact absurd hu (not_or.2 ⟨h₃, h₄⟩)
  obtain ⟨b', hb'⟩ := hfb
  obtain ⟨u', hu'⟩ := hfu
  exact ⟨b', some u', by unfold State.needs; rw [hb']; simp [hu']⟩

/-- The cursor's walk to the line it takes (R155, R151). -/
theorem State.walk_takes {s : State} {last : Nat} {l : LineId} (hl : l.val ≤ last) (ht : s.sweepTest .cursor l = true) :
    ∀ (fuel c k : Nat), c ≤ l.val → l.val - c < fuel →
      (∀ j : LineId, c ≤ j.val → j < l → s.sweepTest .cursor j = false) →
      s.walk last fuel c k = (some l, l.val, (satSucc 65535)^[l.val - c] k)
  | 0, c, k, _, h, _ => by omega
  | fuel + 1, c, k, hc, hf, hj => by
    unfold State.walk
    rw [if_neg (by omega)]
    have hlt : c < 2048 := by have := l.isLt; omega
    have hof : lineOf? c = some ⟨c, hlt⟩ := by simp [lineOf?, finOf?, hlt]
    rw [hof]; simp only
    by_cases e : c = l.val
    · have : (⟨c, hlt⟩ : LineId) = l := Fin.ext e
      rw [this, if_pos ht, e]; simp
    · rw [if_neg (by rw [hj ⟨c, hlt⟩ (le_refl _) (by show c < l.val; omega)]; simp)]
      rw [State.walk_takes hl ht fuel (c + 1) _ (by omega) (by omega) (fun j h₁ h₂ => hj j (by omega) h₂)]
      rw [show l.val - c = l.val - (c + 1) + 1 by omega, Function.iterate_succ_apply]

/-- The cursor's walk past the end of the range (R155, R151). -/
theorem State.walk_closes {s : State} {last : Nat} (hl : last ≤ 2047) :
    ∀ (fuel c k : Nat), last + 1 - c ≤ fuel →
      (∀ j : LineId, c ≤ j.val → j.val ≤ last → s.sweepTest .cursor j = false) →
      ∃ c', s.walk last fuel c k = (none, c', (satSucc 65535)^[last + 1 - c] k)
  | 0, c, k, h, _ => ⟨c, by unfold State.walk; rw [show last + 1 - c = 0 by omega]; rfl⟩
  | fuel + 1, c, k, hf, hj => by
    unfold State.walk
    by_cases hlc : last < c
    · rw [if_pos hlc]; exact ⟨c, by rw [show last + 1 - c = 0 by omega]; rfl⟩
    · rw [if_neg hlc]
      have hlt : c < 2048 := by omega
      have hof : lineOf? c = some ⟨c, hlt⟩ := by simp [lineOf?, finOf?, hlt]
      rw [hof]; simp only
      rw [if_neg (by rw [hj ⟨c, hlt⟩ (le_refl _) (by show c ≤ last; omega)]; simp)]
      obtain ⟨c', h⟩ := State.walk_closes hl fuel (c + 1) (satSucc 65535 k) (by omega)
        (fun j h₁ h₂ => hj j (by omega) h₂)
      refine ⟨c', ?_⟩
      rw [h, show last + 1 - c = last + 1 - (c + 1) + 1 by omega, Function.iterate_succ_apply]

theorem State.retest_none {s : State} (h : ∀ k ∈ s.retest, ¬ s.SweepTakes k) :
    s.retest.find? (s.sweepTest .retest) = none :=
  List.find?_eq_none.2 fun k hk => by rw [State.sweepTakes_iff]; exact h k hk

/-- A trigger does what the claims say (R154, R155). -/
theorem State.Triggered.trigger_eq {s t : State} (h : s.Triggered t) : s.sweepTrigger = t := by
  unfold State.sweepTrigger
  cases h with
  | passed h => rw [if_neg (by rw [State.mayStart_iff]; exact h)]
  | attempted t hm ha =>
    rw [if_pos (State.mayStart_iff.2 hm)]
    cases ha with
    | retest xs ys l b u h₁ h₂ h₃ hb hu hx =>
      rw [State.needs_rs hb hu]; simp only
      unfold State.attempt
      have hf : s.retest.find? (s.sweepTest .retest) = some l := by
        rw [h₁, List.find?_append, List.find?_eq_none.2 fun x hx => by rw [State.sweepTakes_iff]; exact h₂ x hx]
        simp [State.sweepTakes_iff.2 h₃]
      rw [hf]; simp only
      have he : s.retest.erase l = xs ++ ys := by
        rw [h₁, List.erase_append_right]
        · simp
        · exact fun hm => h₂ l hm h₃
      rw [he]
      exact State.sweepGrant_eq (s := { s with retest := xs ++ ys }) hu hx
    | rests h₁ h₂ =>
      obtain ⟨b, u, hn⟩ := hm.needs
      rw [hn]; simp only
      unfold State.attempt
      rw [State.retest_none h₁]; simp only
      rw [if_pos h₂, State.startPacing_eq]
    | cursor l b u h₁ h₂ h₃ h₄ h₅ h₆ h₇ hb hu hx =>
      rw [State.needs_rs hb hu]; simp only
      unfold State.attempt
      rw [State.retest_none h₁]; simp only
      rw [if_neg (by simp [h₂])]
      unfold State.cursorAttempt
      simp only
      rw [State.walk_takes h₄ (State.sweepTakes_cursor_iff.2 ⟨h₅, h₆⟩) _ _ _ h₃ (by omega) (fun j g₁ g₂ => by
        have := h₇ j g₁ g₂; rw [← State.sweepTakes_cursor_iff] at this; simpa using this)]
      simp only
      exact State.sweepGrant_eq (s :=
        { s with sweep := walked s.sweep (l.val + 1) (l.val - max s.sweep.cursor s.sweepCfg.first) (l.val == s.sweepCfg.last) }) hu hx
    | closes t' h₁ h₂ h₃ h₄ h₅ =>
      obtain ⟨b, u, hn⟩ := hm.needs
      rw [hn]; simp only
      unfold State.attempt
      rw [State.retest_none h₁]; simp only
      rw [if_neg (by simp [h₂])]
      unfold State.cursorAttempt
      simp only
      obtain ⟨c', hw⟩ := State.walk_closes (s := s) h₃ (s.sweepCfg.last + 1 - max s.sweep.cursor s.sweepCfg.first)
        (max s.sweep.cursor s.sweepCfg.first) s.sweep.skipped (le_refl _) (fun j g₁ g₂ => by
          have := h₄ j g₁ g₂; rw [← State.sweepTakes_cursor_iff] at this; simpa using this)
      rw [hw]; simp only
      rw [State.startPacing_eq]
      congr 1
      unfold State.passEndIfDue
      subst h₅
      by_cases hr : s.rsTests = []
      · rw [if_pos ⟨rfl, hr⟩, if_pos hr, State.passEnd_eq]; rfl
      · rw [if_neg (by rintro ⟨-, h⟩; exact hr h), if_neg hr]; rfl

/-- A derivation of the sweep state does what the claims say (R153). -/
theorem State.Derived.rederive_eq {s t : State} (h : s.Derived t) : s.rederive = t := by
  obtain ⟨st, h₁, h₂, h₃⟩ := h
  have e := State.sweepIs_iff.1 h₁
  unfold State.rederive
  simp only [e]
  by_cases hc : st = .active ∧ s.sweep.lastState ≠ .active
  · rw [if_pos hc]; exact (h₂ hc).trigger_eq
  · rw [if_neg hc, h₃ hc]; rfl

/-- A scan followed by the notice to RSS does what the claims say (R40, R41). -/
theorem State.ScansAndTells.eq {s t : State} (h : s.ScansAndTells t) : s.scanThenTrigger = t := by
  obtain ⟨u, h₁, h₂⟩ := h
  rw [State.scanThenTrigger, h₁.scan_eq, h₂.trigger_eq]

theorem State.Unclaimed.tells {s : State} (h : s.Unclaimed) : s.ScansAndTells s := by
  refine ⟨s, .of_empty h.noWaits, .passed fun hm => ?_⟩
  have := State.sweepIs_iff.1 hm.active
  simp [State.sweepState, h.sweepOff] at this

/-! ## The write service (R172) and the end of an event -/

theorem nextDirty_none {d : Tab Bool 256} {last : SlotId} (h : ∀ i, d.get i = false) : nextDirty d last = none := by
  have : ∀ x ∈ d.indexed, x.2 = false := by
    rintro ⟨i, b⟩ hx; rw [Tab.mem_indexed] at hx; subst hx; exact h i
  unfold nextDirty
  rw [List.find?_eq_none.2 (by intro x hx; simp [this x hx])]
  simp only [Option.map_eq_none_iff]
  exact List.find?_eq_none.2 (by intro x hx; simp [this x hx])

/-- The search finds the next slot (R172). -/
theorem State.NextSlot.found {s : State} {k : SlotId} (h : s.NextSlot k) :
    nextDirty s.store.dirty s.store.lastSlot = some k := by
  obtain ⟨h₁, h⟩ := h
  have hlen : s.store.dirty.indexed.length = 256 := by simp [Tab.indexed, s.store.dirty.size_eq]
  have first : ∀ (p : SlotId × Bool → Bool), p (k, true) = true → (∀ j < k, p (j, s.store.dirty.get j) = false) →
      s.store.dirty.indexed.find? p = some (k, true) := by
    intro p hp hj
    have hk' := indexed_getElem? s.store.dirty k.val k.isLt
    rw [show (⟨k.val, k.isLt⟩ : SlotId) = k from rfl, h₁] at hk'
    have h₂ := (List.getElem?_eq_some_iff.1 hk').2
    rw [List.find?_eq_some_iff_append]
    refine ⟨hp, s.store.dirty.indexed.take k.val, s.store.dirty.indexed.drop (k.val + 1), ?_, fun x hx => ?_⟩
    · conv_lhs => rw [← List.take_append_drop k.val s.store.dirty.indexed,
        List.drop_eq_getElem_cons (by rw [hlen]; exact k.isLt), h₂]
    · obtain ⟨i, hi, rfl⟩ := List.mem_iff_getElem.1 hx
      simp only [List.length_take, hlen, lt_min_iff] at hi
      have h₃ := (List.getElem?_eq_some_iff.1 (indexed_getElem? s.store.dirty i hi.2)).2
      rw [List.getElem_take, h₃]
      simpa using hj ⟨i, hi.2⟩ hi.1
  unfold nextDirty
  rcases h with ⟨ha, hb⟩ | ⟨ha, hb, hc⟩
  · rw [first (fun x => decide (s.store.lastSlot.val < x.1.val) && x.2) (by simp; exact ha) (fun j hj => by
      by_cases e : s.store.lastSlot < j
      · simp [hb j e hj]
      · have : ¬ s.store.lastSlot.val < j.val := e
        simp [this])]
  · have : s.store.dirty.indexed.find? (fun x => decide (s.store.lastSlot.val < x.1.val) && x.2) = none := by
      refine List.find?_eq_none.2 ?_
      rintro ⟨i, b⟩ hx
      rw [Tab.mem_indexed] at hx; subst hx
      by_cases e : s.store.lastSlot < i
      · simp [hb i e]
      · have : ¬ s.store.lastSlot.val < i.val := e
        simp [this]
    rw [this]; simp only
    rw [first (fun x => decide (x.1.val ≤ s.store.lastSlot.val) && x.2) (by simp; exact ha) (fun j hj => by simp [hc j hj])]
    rfl

theorem State.Chooses.choose_eq {s t : State} (h : s.Chooses t) (hp : s.store.phase ≠ .loading)
    (hf : s.store.inFlight = none) : s.chooseWrite = t := by
  unfold State.chooseWrite
  simp only
  rw [if_neg (by simp [hp, hf])]
  cases h with
  | settings q h => simp [h, pageWriteTime, ms]
  | slot k h₁ h₂ => simp [h₁, h₂.found, pageWriteTime, ms]
  | idle h₁ h₂ => simp [h₁, nextDirty_none h₂]

theorem anyDirty_iff {st : Store} : st.anyDirty = false ↔ ∀ k, st.dirty.get k = false := by
  unfold Store.anyDirty
  rw [List.any_eq_false]
  constructor
  · intro h k
    have := h (st.dirty.get k) (by rw [Tab.get_eq]; exact List.getElem_mem _)
    simpa using this
  · intro h x hx
    obtain ⟨i, hi, rfl⟩ := List.mem_iff_getElem.1 hx
    have := h ⟨i, by rw [st.dirty.size_eq] at hi; exact hi⟩
    rw [Tab.get_eq] at this; simpa using this

theorem all_free_iff {s : State} : (allBuses.all fun b => (s.bus b).state == .free) = true ↔ ∀ b, (s.bus b).state = .free := by
  rw [List.all_eq_true]
  exact ⟨fun h b => by simpa using h b (mem_allBuses b), fun h b _ => by simpa using h b⟩

/-- The end of an event does what the claims say (R45, R172, R174). -/
theorem State.EventEnds.finish_eq {s t : State} (h : s.EventEnds t) : s.finish = t := by
  obtain ⟨hl, q, w, hq, hw, ht⟩ := h
  have e₁ : s.accessQuietIfDue = q := by
    unfold State.accessQuietIfDue
    rcases hq with ⟨h₁, h₂, rfl⟩ | ⟨h₁, rfl⟩
    · rw [if_pos ⟨h₁, all_free_iff.2 h₂⟩]
    · rw [if_neg fun ⟨h₂, h₃⟩ => h₁ ⟨h₂, all_free_iff.1 h₃⟩]
  have e₂ : q.chooseWrite = w := by
    rcases hw with ⟨h₁, h₂, h₃⟩ | ⟨h₁, rfl⟩
    · exact h₃.choose_eq h₁ h₂
    · unfold State.chooseWrite
      simp only
      rw [if_pos (h₁.imp_right fun h => by simpa [Option.isSome_iff_ne_none] using h)]
  have e₃ : w.drainEndIfDue = t := by
    have key : (w.store.phase = .draining ∧ w.store.settingsWrite.isNone ∧ w.store.inFlight.isNone ∧ ¬ w.store.anyDirty)
        ↔ (w.store.phase = .draining ∧ w.store.settingsWrite = none ∧ w.store.inFlight = none
          ∧ ∀ k, w.store.dirty.get k = false) := by
      rw [← anyDirty_iff]; simp
    unfold State.drainEndIfDue
    rcases ht with ⟨h₁, h₂, h₃, h₄, rfl⟩ | ⟨h₁, rfl⟩
    · rw [if_pos (key.2 ⟨h₁, h₂, h₃, h₄⟩)]; rfl
    · rw [if_neg fun h => h₁ (key.1 h)]
  rw [State.finish, State.settleLapse_of_none hl, e₁, e₂, e₃]

/-- Between events there is nothing to do at the end of one. -/
theorem State.Settled.ends {s : State} (h : s.Settled) : s.EventEnds s := by
  refine ⟨h.noLapse, s, s, .inr ⟨fun ⟨h₁, h₂⟩ => ?_, rfl⟩, ?_, .inr ⟨?_, rfl⟩⟩
  · obtain ⟨b, hb⟩ := h.notQuiet h₁; exact hb (h₂ b)
  · by_cases hc : s.store.phase = .loading ∨ s.store.inFlight ≠ none
    · exact .inr ⟨hc, rfl⟩
    · rw [not_or, not_ne_iff] at hc
      refine .inl ⟨hc.1, hc.2, ?_⟩
      rcases h.serviceIdle with h' | h' | ⟨h₁, h₂⟩
      · exact absurd h' hc.1
      · rw [hc.2] at h'; cases h'
      · exact .idle h₁ (anyDirty_iff.1 h₂)
  · rintro ⟨h₁, h₂, h₃, h₄⟩
    rcases h.notDrained h₁ with h' | h' | h'
    · rw [h₂] at h'; cases h'
    · rw [h₃] at h'; cases h'
    · rw [anyDirty_iff.2 h₄] at h'; cases h'

end Sys2Proof.Machine
end

