-- ==== Sys2Proof/Laws/Moves.lean ====
section
/-!
SUPPORT. What an event can do to the records that the laws of Safety.lean speak of: a small set of moves (a grant, a
release, a wait entry placed or removed, a change of the retest list, of the ticket table, of the queues), of which every
command's effect is made up. A law that every move keeps, every command keeps. The laws of the units, the contexts, the
tickets' numbers, the quarantine and the gathered pages (R7, R25, R125, R129, R147) hold between the parts of an event
rather than at every record it changes: `Goes` carries them from one such point to the next.
-/

set_option Elab.async false

namespace Sys2Proof.Machine

/-- What the laws speak of. -/
structure Skel where
  onBus : LineId → Option BusId
  blocked : LineId → Bool
  queued : LineId → Bool
  isFree : BusId → Bool
  busLine : BusId → Option LineId
  waits : List WaitEntry
  retest : List LineId
  tickets : SlotId → Option Ticket
  counter : Nat
  qlen : Port → Nat

/-- The part of a state that the laws speak of. -/
def State.skel (s : State) : Skel where
  onBus := fun l => (s.line l).onBus
  blocked := fun l => (s.line l).blocked
  queued := fun l => (s.line l).queued
  isFree := fun b => (s.bus b).state == .free
  busLine := fun b => (s.bus b).line
  waits := s.waitQueue
  retest := s.retest
  tickets := s.slot
  counter := s.counter
  qlen := fun p => (s.port p).queue.length

/-- The moves. -/
inductive Move : Skel → Skel → Prop where
  | queues {k : Skel} (q : Port → Nat) (h : ∀ p, q p ≤ max (k.qlen p) 32) : Move k { k with qlen := q }
  | grant {k : Skel} (l : LineId) (b : BusId) (hb : k.isFree b = true) (hl : k.onBus l = none)
      (hw : k.queued l = false ∨ ∀ e ∈ k.waits, e.req.line ≠ l) :
      Move k { k with
        onBus := Function.update k.onBus l (some b), blocked := Function.update k.blocked l true
        queued := Function.update k.queued l false, isFree := Function.update k.isFree b false
        busLine := Function.update k.busLine b (some l) }
  | release {k : Skel} (l : LineId) (b : BusId) (hb : k.isFree b = false) (hl : k.busLine b = some l) :
      Move k { k with
        onBus := Function.update k.onBus l none, blocked := Function.update k.blocked l false
        isFree := Function.update k.isFree b true, busLine := Function.update k.busLine b none }
  | placed {k : Skel} (e : WaitEntry) (hs : e.req.source ≠ .rs) (hl : k.onBus e.req.line = none)
      (hq : k.queued e.req.line = false) (hn : k.waits.length < 8) :
      Move k { k with waits := placeEntry k.waits e, queued := Function.update k.queued e.req.line true }
  | unwait {k : Skel} (l : LineId) :
      Move k { k with waits := k.waits.filter fun e => e.req.line != l, queued := Function.update k.queued l false }
  | retestDrop {k : Skel} (r : List LineId) (h : r.Sublist k.retest) : Move k { k with retest := r }
  | retestAdd {k : Skel} (l : LineId) (h : l ∉ k.retest) (hn : k.retest.length < 32) :
      Move k { k with retest := k.retest ++ [l] }
  | slot {k : Skel} (n : SlotId) (x : Option Ticket)
      (h : (∀ m t, k.tickets m = some t → t.InRange) → CounterOk k.counter → ∀ t, x = some t → t.InRange) :
      Move k { k with tickets := Function.update k.tickets n x }
  | counter {k : Skel} (c : Nat) (h : CounterOk k.counter → CounterOk c) : Move k { k with counter := c }
  | table {k : Skel} (f : SlotId → Option Ticket) (c : Nat) (h : ∀ n t, f n = some t → t.InRange) (hc : CounterOk c) :
      Move k { k with tickets := f, counter := c }
  | por {k : Skel} : Move k State.reset.skel

/-- Any number of moves, in which no bus becomes FREE. -/
structure Moves (s t : State) : Prop where
  moves : Relation.ReflTransGen Move s.skel t.skel
  stays : ∀ b, (s.bus b).state ≠ .free → (t.bus b).state ≠ .free

theorem Moves.refl (s : State) : Moves s s := ⟨.refl, fun _ => id⟩

theorem Moves.trans {s t u : State} (a : Moves s t) (b : Moves t u) : Moves s u :=
  ⟨a.moves.trans b.moves, fun c h => b.stays c (a.stays c h)⟩

/-- A change of what the laws do not speak of. -/
theorem Moves.of_skel {s t : State} (h : t.skel = s.skel) : Moves s t := by
  refine ⟨h ▸ .refl, fun b hb => ?_⟩
  have := congrFun (congrArg Skel.isFree h) b
  simp only [State.skel] at this
  intro e
  rw [e] at this
  exact hb (by simpa using this.symm)

theorem Moves.of_move {s t : State} (h : Move s.skel t.skel)
    (hb : ∀ b, (s.bus b).state ≠ .free → (t.bus b).state ≠ .free) : Moves s t := ⟨.single h, hb⟩

/-- The number counter keeps its range. -/
theorem moves_counter {j k : Skel} (h : Relation.ReflTransGen Move j k) (hc : CounterOk j.counter) :
    CounterOk k.counter := by
  induction h with
  | refl => exact hc
  | tail _ m ih =>
    cases m with
    | counter c h => exact h ih
    | table f c _ hc => exact hc
    | por => exact ⟨le_rfl, by decide⟩
    | _ => exact ih

theorem Moves.counter {s t : State} (h : Moves s t) (hc : CounterOk s.counter) : CounterOk t.counter :=
  moves_counter (j := s.skel) (k := t.skel) h.moves hc

/-! ### The laws of the units, the contexts, the tickets and the quarantine -/

/-- Any number of moves, after which those laws, and that of the gathered pages, hold if they held before; the tickets'
under a condition on what is brought to the table. -/
structure GoesIf (P : Prop) (s t : State) : Prop extends Moves s t where
  units : s.UnitsAgree → t.UnitsAgree
  contexts : s.ContextsFit → t.ContextsFit
  tickets : P → CounterOk s.counter → s.TicketsApart → t.TicketsApart
  quarantine : s.QuarantineAgrees → t.QuarantineAgrees
  image : s.ImageOrdered → t.ImageOrdered

/-- As `GoesIf`, for a programme's contexts that fit their steps. -/
def Goes (s t : State) : Prop := GoesIf s.ContextsFit s t

theorem GoesIf.refl {P : Prop} (s : State) : GoesIf P s s := ⟨.refl s, id, id, fun _ _ => id, id, id⟩

/-- What follows under a condition that the first part leaves. -/
theorem GoesIf.then {P Q : Prop} {s t u : State} (a : GoesIf P s t) (b : GoesIf Q t u) (h : P → Q) : GoesIf P s u :=
  ⟨a.toMoves.trans b.toMoves, b.units ∘ a.units, b.contexts ∘ a.contexts,
    fun p c h' => b.tickets (h p) (a.toMoves.counter c) (a.tickets p c h'), b.quarantine ∘ a.quarantine, b.image ∘ a.image⟩

theorem Goes.refl (s : State) : Goes s s := GoesIf.refl s

theorem Goes.trans {s t u : State} (a : Goes s t) (b : Goes t u) : Goes s u :=
  GoesIf.then a b a.contexts

/-- What the laws say of a unit's record alone (R68). -/
structure MuRec.Fair (m : MuRec) : Prop where
  free : m.bus = none ↔ m.state = .standby ∨ m.state = .ready
  measuring : m.context ≠ none ↔ m.state = .measuring

theorem State.UnitsAgree.fair {s : State} (h : s.UnitsAgree) (u : MuId) : (s.mu u).Fair := ⟨h.free u, h.measuring u⟩

/-- What the laws of the units read of a bus, kept from one record to another. -/
structure BusRec.Same (r q : BusRec) : Prop where
  boundMu : q.boundMu = r.boundMu
  termination : q.termination = .mu ↔ r.termination = .mu
  free : q.state = .free ↔ r.state = .free
  releasing : q.state = .releasing → r.state = .releasing ∨ r.boundMu = none

theorem BusRec.Same.of_eq {r q : BusRec} (h₁ : q.boundMu = r.boundMu) (h₂ : q.termination = r.termination)
    (h₃ : q.state = r.state) : r.Same q := ⟨h₁, by rw [h₂], by rw [h₃], fun h => .inl (h₃ ▸ h)⟩

theorem BusRec.Same.refl (r : BusRec) : r.Same r := .of_eq rfl rfl rfl

theorem State.UnitsAgree.congr {s t : State} (h : s.UnitsAgree) (hb : ∀ b, (s.bus b).Same (t.bus b))
    (hu : ∀ u, (t.mu u).bus = (s.mu u).bus ∧ ((s.mu u).Fair → (t.mu u).Fair))
    (hp : t.store.phase = .draining ∨ t.store.phase = .loading → s.store.phase = .draining ∨ s.store.phase = .loading) :
    t.UnitsAgree where
  bound := fun b u => by rw [(hb b).boundMu, (hu u).1]; exact h.bound b u
  termination := fun b => by rw [(hb b).boundMu, (hb b).termination]; exact h.termination b
  free := fun u => ((hu u).2 (h.fair u)).free
  measuring := fun u => ((hu u).2 (h.fair u)).measuring
  leaving := fun b hs => by
    rw [(hb b).boundMu]
    rcases hs with hs | hs
    · exact h.leaving b (.inl ((hb b).free.1 hs))
    · exact ((hb b).releasing hs).elim (fun h' => h.leaving b (.inr h')) id
  quiet := fun hs b => (hb b).free.2 (h.quiet (hp hs) b)

/-- A unit bound to a bus that has none (R25, R35, R69), or a bus taken with none. -/
theorem State.UnitsAgree.bind {s t : State} (h : s.UnitsAgree) {b : BusId} {u : Option MuId} {r : BusRec} {n : Nat}
    (hb : (s.bus b).boundMu = none) (hu : ∀ v, u = some v → (s.mu v).state = .ready ∨ (s.mu v).state = .standby)
    (tb : ∀ c, t.bus c = if b = c then r else s.bus c)
    (tm : ∀ v, t.mu v = if u = some v then bindUnit n b (s.mu v) else s.mu v) (hr : r.boundMu = u)
    (ht : r.termination = .mu ↔ ∃ v, u = some v) (hs : r.state ≠ .free ∧ r.state ≠ .releasing)
    (hp : ¬ (t.store.phase = .draining ∨ t.store.phase = .loading)) : t.UnitsAgree := by
  have key : ∀ v, u = some v → (t.mu v).bus = some b ∧ (t.mu v).context = (s.mu v).context
      ∧ ((t.mu v).state = .attached ∨ (t.mu v).state = .warming) := fun v hv => by
    rw [tm, if_pos hv]
    unfold bindUnit
    rcases hu v hv with e | e <;> rw [e] <;> simp
  have hfree : ∀ v, u = some v → (s.mu v).bus = none := fun v hv => (h.free v).2 (hu v hv).symm
  refine ⟨fun c v => ?_, fun c => ?_, fun v => ?_, fun v => ?_, fun c hc => ?_, fun hp' => absurd hp' hp⟩
  · by_cases hv : u = some v
    · rw [(key v hv).1, tb]
      split
      · rename_i hbc; subst hbc; simp [hr, hv]
      · rename_i hbc
        refine iff_of_false ?_ (by simpa using hbc)
        intro e
        have := (h.bound c v).1 e
        rw [hfree v hv] at this; cases this
    · rw [tm, if_neg hv, tb]
      split
      · rename_i hbc; subst hbc
        rw [hr]
        refine iff_of_false hv ?_
        intro e
        have := (h.bound b v).2 e
        rw [hb] at this; cases this
      · exact h.bound c v
  · rw [tb]
    split
    · rw [hr]; exact ht
    · exact h.termination c
  · by_cases hv : u = some v
    · obtain ⟨h₁, -, h₂⟩ := key v hv
      rw [h₁]
      rcases h₂ with e | e <;> simp [e]
    · rw [tm, if_neg hv]; exact h.free v
  · by_cases hv : u = some v
    · obtain ⟨-, h₁, h₂⟩ := key v hv
      have : (s.mu v).context = none := by
        by_contra hc
        have := (h.measuring v).1 hc
        rcases hu v hv with e | e <;> rw [e] at this <;> cases this
      rw [h₁, this]
      rcases h₂ with e | e <;> simp [e]
    · rw [tm, if_neg hv]; exact h.measuring v
  · rw [tb] at hc ⊢
    split
    · rename_i hbc
      rw [if_pos hbc] at hc
      exact absurd hc (not_or.2 hs)
    · rename_i hbc
      rw [if_neg hbc] at hc
      exact h.leaving c hc

/-- A bus's unit, ATTACHED or WARMING, unbound (R40, R69). -/
theorem State.UnitsAgree.unbind {s t : State} (h : s.UnitsAgree) {b : BusId} {u : MuId} {r : BusRec} {n d : Nat}
    (hb : (s.bus b).boundMu = some u) (hm : (s.mu u).state = .attached ∨ (s.mu u).state = .warming)
    (tb : ∀ c, t.bus c = if b = c then r else s.bus c)
    (tm : ∀ v, t.mu v = if u = v then unbindUnit n d (s.mu u) else s.mu v) (hr : r.boundMu = none)
    (ht : r.termination ≠ .mu)
    (hp : t.store.phase = .draining ∨ t.store.phase = .loading → s.store.phase = .draining ∨ s.store.phase = .loading) :
    t.UnitsAgree := by
  have key : (t.mu u).bus = none ∧ (t.mu u).context = (s.mu u).context
      ∧ ((t.mu u).state = .standby ∨ (t.mu u).state = .ready) := by
    rw [tm, if_pos rfl]
    unfold unbindUnit
    rcases hm with e | e <;> rw [e] <;> simp
  have hnf : (s.bus b).state ≠ .free := fun e => by
    have := h.leaving b (.inl e)
    rw [hb] at this; cases this
  refine ⟨fun c v => ?_, fun c => ?_, fun v => ?_, fun v => ?_, fun c hc => ?_, fun hp' => ?_⟩
  · by_cases hv : u = v
    · subst hv
      rw [key.1, tb]
      split
      · rename_i hbc; subst hbc; simp [hr]
      · rename_i hbc
        refine iff_of_false ?_ (by simp)
        intro e
        have h₁ := (h.bound c u).1 e
        have h₂ := (h.bound b u).1 hb
        rw [h₁] at h₂
        cases h₂; exact hbc rfl
    · rw [tm, if_neg hv, tb]
      split
      · rename_i hbc; subst hbc
        rw [hr]
        refine iff_of_false (by simp) ?_
        intro e
        have := (h.bound b v).2 e
        rw [hb] at this; cases this; exact hv rfl
      · exact h.bound c v
  · rw [tb]
    split
    · simp [hr, ht]
    · exact h.termination c
  · by_cases hv : u = v
    · subst hv
      exact iff_of_true key.1 key.2.2
    · rw [tm, if_neg hv]; exact h.free v
  · by_cases hv : u = v
    · subst hv
      have : (s.mu u).context = none := by
        by_contra hc
        have := (h.measuring u).1 hc
        rcases hm with e | e <;> rw [e] at this <;> cases this
      rw [key.2.1, this]
      rcases key.2.2 with e | e <;> simp [e]
    · rw [tm, if_neg hv]; exact h.measuring v
  · rw [tb] at hc ⊢
    split
    · exact hr
    · rename_i hbc
      rw [if_neg hbc] at hc
      exact h.leaving c hc
  · exact absurd (h.quiet (hp hp') b) hnf

theorem State.ContextsFit.of_context {s t : State} (h : s.ContextsFit) (hu : ∀ u, (t.mu u).context = (s.mu u).context) :
    t.ContextsFit := fun u c hc => h u c (by rw [← hc, hu])

theorem State.ContextsFit.congr {s t : State} (h : s.ContextsFit) (hu : t.units = s.units) : t.ContextsFit :=
  h.of_context fun u => by rw [State.mu_congr hu]

theorem State.TicketsApart.congr {s t : State} (h : s.TicketsApart) (ht : t.slot = s.slot) : t.TicketsApart where
  numbers := ht ▸ h.numbers
  classes := ht ▸ h.classes
  hazard := ht ▸ h.hazard

theorem State.CarriesHazard.congr {s t : State} {l : LineId} (ht : t.slot = s.slot)
    (hm : (t.line l).pendingMask = (s.line l).pendingMask) : t.CarriesHazard l ↔ s.CarriesHazard l := by
  unfold State.CarriesHazard
  rw [ht, hm]

theorem State.ImageOrdered.congr {s t : State} (h₁ : t.store.image = s.store.image)
    (h₂ : t.store.loadIndex = s.store.loadIndex) : s.ImageOrdered → t.ImageOrdered := by
  unfold State.ImageOrdered; rw [h₁, h₂]; exact id

/-- Moves that leave the contexts, the tickets, the quarantine flags and the pending marks alone. -/
theorem Goes.of_moves {s t : State} (m : Moves s t) (hu : s.UnitsAgree → t.UnitsAgree)
    (hc : s.ContextsFit → t.ContextsFit) (ht : t.tickets = s.tickets)
    (hl : ∀ l, (t.line l).quarantined = (s.line l).quarantined ∧ (t.line l).pendingMask = (s.line l).pendingMask)
    (hi : s.ImageOrdered → t.ImageOrdered := by exact State.ImageOrdered.congr rfl rfl) : Goes s t :=
  ⟨m, hu, hc, fun _ _ h => h.congr (State.slot_congr ht), fun h l => by
    rw [(hl l).1, State.CarriesHazard.congr (State.slot_congr ht) (hl l).2]; exact h l, hi⟩

/-- What fixes the part of a state the laws speak of. -/
theorem skel_ext {s t : State} (l₁ : ∀ l, (t.line l).onBus = (s.line l).onBus)
    (l₂ : ∀ l, (t.line l).blocked = (s.line l).blocked) (l₃ : ∀ l, (t.line l).queued = (s.line l).queued)
    (b₁ : ∀ b, (t.bus b).state = .free ↔ (s.bus b).state = .free) (b₂ : ∀ b, (t.bus b).line = (s.bus b).line)
    (h₃ : t.waitQueue = s.waitQueue) (h₄ : t.retest = s.retest) (h₅ : t.tickets = s.tickets)
    (h₆ : t.counter = s.counter) (h₇ : t.ports = s.ports) : t.skel = s.skel := by
  have e₃ : t.slot = s.slot := by funext l; rw [State.slot, State.slot, h₅]
  have e₄ : t.port = s.port := by funext l; rw [State.port, State.port, h₇]
  have e₅ : ∀ b, ((t.bus b).state == .free) = ((s.bus b).state == .free) := fun b => by
    rw [Bool.eq_iff_iff]; simpa using b₁ b
  simp only [State.skel, l₁, l₂, l₃, e₅, b₂, e₃, e₄, h₃, h₄, h₆]

/-- Fields and records the laws do not speak of. -/
theorem skel_congr {s t : State} (h₁ : t.lines = s.lines) (h₂ : t.buses = s.buses) (h₃ : t.waitQueue = s.waitQueue)
    (h₄ : t.retest = s.retest) (h₅ : t.tickets = s.tickets) (h₆ : t.counter = s.counter) (h₇ : t.ports = s.ports) :
    t.skel = s.skel := by
  have e₁ : t.line = s.line := by funext l; rw [State.line, State.line, h₁]
  have e₂ : t.bus = s.bus := by funext l; rw [State.bus, State.bus, h₂]
  refine skel_ext ?_ ?_ ?_ ?_ ?_ h₃ h₄ h₅ h₆ h₇ <;> simp [e₁, e₂]

/-- Moves that leave the buses and the units alone too, and do not set a drain or an autoload going. -/
theorem Goes.of_still {s t : State} (m : Moves s t) (hb : t.buses = s.buses) (hu : t.units = s.units)
    (hp : t.store.phase = .draining ∨ t.store.phase = .loading → s.store.phase = .draining ∨ s.store.phase = .loading)
    (ht : t.tickets = s.tickets)
    (hl : ∀ l, (t.line l).quarantined = (s.line l).quarantined ∧ (t.line l).pendingMask = (s.line l).pendingMask)
    (hi : s.ImageOrdered → t.ImageOrdered := by exact State.ImageOrdered.congr rfl rfl) : Goes s t :=
  .of_moves m
    (fun h => h.congr (fun b => by rw [State.bus_congr hb]; exact .refl _)
      (fun u => by rw [State.mu_congr hu]; exact ⟨rfl, id⟩) hp)
    (fun h => h.congr hu) ht hl hi

/-- Fields and records the laws do not speak of. -/
theorem Goes.quiet {s t : State} (h₁ : t.lines = s.lines) (h₂ : t.buses = s.buses) (h₃ : t.waitQueue = s.waitQueue)
    (h₄ : t.retest = s.retest) (h₅ : t.tickets = s.tickets) (h₆ : t.counter = s.counter) (h₇ : t.ports = s.ports)
    (h₈ : t.units = s.units)
    (h₉ : t.store.phase = .draining ∨ t.store.phase = .loading → s.store.phase = .draining ∨ s.store.phase = .loading)
    (hi : s.ImageOrdered → t.ImageOrdered := by exact State.ImageOrdered.congr rfl rfl) : Goes s t :=
  .of_still (.of_skel (skel_congr h₁ h₂ h₃ h₄ h₅ h₆ h₇)) h₂ h₈ h₉ h₅ (fun l => by simp [State.line_congr h₁]) hi

theorem Moves.of_told {s t : State} (h : Told s t) (hq : ∀ p, (t.port p).queue.length ≤ max (s.port p).queue.length 32) :
    Moves s t := by
  refine .of_move (t := t) ?_ fun b => by rw [h.bus]; exact id
  have e : t.skel = { s.skel with qlen := t.skel.qlen } := by
    simp only [State.skel, Skel.mk.injEq, h.waitQueue, h.retest, h.counter, and_true, true_and]
    refine ⟨funext h.onBus, funext h.blocked, funext h.queued, ?_, ?_, funext h.slot⟩
    · funext b; rw [h.bus]
    · funext b; rw [h.bus]
  rw [e]
  exact .queues _ hq

theorem Told.still {s t : State} (h : Told s t) (m : Moves s t) : Goes s t :=
  .of_still m h.buses h.units (by rw [h.store]; exact id) h.tickets
    (fun l => by rcases h.line l with e | e <;> simp [e]) (.congr (by rw [h.store]) (by rw [h.store]))

theorem Goes.of_told {s t : State} (h : Told s t) (hq : ∀ p, (t.port p).queue.length ≤ max (s.port p).queue.length 32) :
    Goes s t := h.still (.of_told h hq)

theorem foldl_goes {α : Type} {f : State → α → State} (h : ∀ t x, Goes t (f t x)) (l : List α) (s : State) :
    Goes s (l.foldl f s) := by
  induction l generalizing s with
  | nil => exact .refl s
  | cons x l ih => exact (h s x).trans (ih _)

/-! ### Queues -/

theorem State.updPort_goes (s : State) (p : Port) (f : PortRec → PortRec)
    (h : (f (s.port p)).queue.length ≤ max (s.port p).queue.length 32) : Goes s (s.updPort p f) := by
  refine .of_still (.of_move (t := s.updPort p f) ?_ fun _ => id) rfl rfl id rfl fun _ => ⟨rfl, rfl⟩
  refine Move.queues (k := s.skel) (fun q => ((s.updPort p f).port q).queue.length) fun q => ?_
  simp only [State.skel, State.port_updPort]
  split
  · subst_vars; exact h
  · exact le_max_left _ _

theorem State.enqueue_goes (s : State) (p : Port) (tag : Option Byte) (body : ReportBody) (h : s.freeEntries p ≠ 0) :
    Goes s (s.enqueue p tag body) := by
  apply State.updPort_goes
  simp only [State.freeEntries, queueCapacity] at h
  simp only [List.length_append, List.length_cons, List.length_nil]
  omega

theorem State.markLost_goes (s : State) (p : Port) : Goes s (s.markLost p) := s.updPort_goes p _ (le_max_left _ _)

theorem State.overflowX_goes (s : State) : Goes s s.overflowX :=
  .of_told s.overflowX_told fun p => by
    unfold State.overflowX
    split
    · split <;> exact le_max_left _ _
    · exact le_max_left _ _

theorem State.pushKept_goes (s : State) (p : Port) (tag : Option Byte) (body : ReportBody) :
    Goes s (s.pushKept p tag body) := by
  unfold State.pushKept
  split
  · have h : Goes s ((s.emptyQueue p).enqueue p tag body) :=
      (s.updPort_goes p _ (by simp)).trans
        ((s.emptyQueue p).enqueue_goes p tag body (by simp [State.freeEntries_emptyQueue]))
    simp only
    split
    · exact h.trans (State.overflowX_goes _)
    · exact h
  · exact s.enqueue_goes p tag body ‹_›

theorem State.pushNotice_goes (s : State) (p : Port) (body : ReportBody) : Goes s (s.pushNotice p body) := by
  unfold State.pushNotice
  split
  · exact s.markLost_goes p
  · exact s.enqueue_goes p none body (by simp only [noticeReserve] at *; omega)

theorem State.pushNotices_goes (s : State) (ps : List Port) (body : ReportBody) : Goes s (s.pushNotices ps body) :=
  foldl_goes (fun t p => t.pushNotice_goes p body) ps s

theorem State.reply_goes (s : State) (c : OrderCtx) (code : ReplyCode) (data : ReplyData) :
    Goes s (s.reply c code data) := s.pushKept_goes _ _ _

theorem State.toHolder_goes (s : State) (src : Option Source) (tag : Option HolderTag) (body : Port → ReportBody) :
    Goes s (s.toHolder src tag body) := by
  unfold State.toHolder
  split
  · exact s.pushKept_goes _ _ _
  · exact .refl s

theorem State.ticketNotice_goes (s : State) (e : TicketEvent) : Goes s (s.ticketNotice e) := s.pushNotice_goes _ _

/-! ### Single records -/

theorem State.updLine_moves (s : State) (l : LineId) (f : LineRec → LineRec)
    (h₁ : (f (s.line l)).onBus = (s.line l).onBus) (h₂ : (f (s.line l)).blocked = (s.line l).blocked)
    (h₃ : (f (s.line l)).queued = (s.line l).queued) : Moves s (s.updLine l f) := by
  refine .of_skel (skel_ext ?_ ?_ ?_ (fun _ => .rfl) (fun _ => rfl) rfl rfl rfl rfl rfl) <;>
    (intro k; rw [State.line_updLine]; split <;> simp_all)

theorem State.updLine_goes (s : State) (l : LineId) (f : LineRec → LineRec) (h₁ : (f (s.line l)).onBus = (s.line l).onBus)
    (h₂ : (f (s.line l)).blocked = (s.line l).blocked) (h₃ : (f (s.line l)).queued = (s.line l).queued)
    (h₄ : (f (s.line l)).quarantined = (s.line l).quarantined) (h₅ : (f (s.line l)).pendingMask = (s.line l).pendingMask) :
    Goes s (s.updLine l f) :=
  .of_still (s.updLine_moves l f h₁ h₂ h₃) rfl rfl id rfl fun k => by
    rw [State.line_updLine]; split <;> simp_all

theorem State.updBus_moves (s : State) (b : BusId) (f : BusRec → BusRec) (h₁ : (f (s.bus b)).line = (s.bus b).line)
    (h₂ : (f (s.bus b)).state = .free ↔ (s.bus b).state = .free) : Moves s (s.updBus b f) := by
  refine .of_skel (skel_ext (fun _ => rfl) (fun _ => rfl) (fun _ => rfl) ?_ ?_ rfl rfl rfl rfl rfl) <;>
    (intro k; rw [State.bus_updBus]; split <;> simp_all)

theorem State.updBus_goes (s : State) (b : BusId) (f : BusRec → BusRec) (h₁ : (f (s.bus b)).line = (s.bus b).line)
    (h₂ : (s.bus b).Same (f (s.bus b))) : Goes s (s.updBus b f) :=
  .of_moves (s.updBus_moves b f h₁ h₂.free)
    (fun h => h.congr (fun c => by
      rw [State.bus_updBus]; split
      · subst_vars; exact h₂
      · exact .refl _) (fun _ => ⟨rfl, id⟩) id)
    (fun h => h.congr rfl) rfl fun _ => ⟨rfl, rfl⟩

theorem State.updMu_moves (s : State) (u : MuId) (f : MuRec → MuRec) : Moves s (s.updMu u f) :=
  .of_skel (skel_congr rfl rfl rfl rfl rfl rfl rfl)

theorem State.updMu_goes (s : State) (u : MuId) (f : MuRec → MuRec) (h₁ : (f (s.mu u)).bus = (s.mu u).bus)
    (h₂ : (s.mu u).Fair → (f (s.mu u)).Fair)
    (h₃ : s.ContextsFit → ∀ c, (f (s.mu u)).context = some c → c.Fits) : Goes s (s.updMu u f) :=
  .of_moves (s.updMu_moves u f)
    (fun h => h.congr (fun _ => .refl _) (fun v => by
      rw [State.mu_updMu]; split
      · subst_vars; exact ⟨h₁, h₂⟩
      · exact ⟨rfl, id⟩) id)
    (fun h v c hc => by
      rw [State.mu_updMu] at hc; split at hc
      · exact h₃ h c hc
      · exact h v c hc) rfl fun _ => ⟨rfl, rfl⟩

theorem State.reach_goes (s : State) (t : Nat) : Goes s (s.reach t) :=
  .quiet rfl rfl rfl rfl rfl rfl rfl rfl id

/-- A line table changed, but not in the lines' buses and queued flags. -/
theorem lines_moves (s : State) (f : LineId → LineRec → LineRec) (h₁ : ∀ l r, (f l r).onBus = r.onBus)
    (h₂ : ∀ l r, (f l r).blocked = r.blocked) (h₃ : ∀ l r, (f l r).queued = r.queued) :
    Moves s { s with lines := s.lines.mapIdx f } := by
  have e : ∀ l, State.line { s with lines := s.lines.mapIdx f } l = f l (s.line l) := fun l => by
    simp [State.line]
  have eb : State.bus { s with lines := s.lines.mapIdx f } = s.bus := State.bus_congr rfl
  exact .of_skel (skel_ext (fun l => by rw [e, h₁]) (fun l => by rw [e, h₂]) (fun l => by rw [e, h₃])
    (fun _ => by rw [eb]) (fun _ => by rw [eb]) rfl rfl rfl rfl rfl)

/-- A line table changed in fields the laws do not speak of. -/
theorem lines_goes (s : State) (f : LineId → LineRec → LineRec) (h₁ : ∀ l r, (f l r).onBus = r.onBus)
    (h₂ : ∀ l r, (f l r).blocked = r.blocked) (h₃ : ∀ l r, (f l r).queued = r.queued)
    (h₄ : ∀ l r, (f l r).quarantined = r.quarantined) (h₅ : ∀ l r, (f l r).pendingMask = r.pendingMask) :
    Goes s { s with lines := s.lines.mapIdx f } :=
  .of_still (lines_moves s f h₁ h₂ h₃) rfl rfl id rfl fun l => by
    have e : State.line { s with lines := s.lines.mapIdx f } l = f l (s.line l) := by simp [State.line]
    rw [e, h₄, h₅]; exact ⟨rfl, rfl⟩

theorem State.removeWait_goes (s : State) (l : LineId) : Goes s (s.removeWait l) := by
  refine .of_still (.of_move (t := s.removeWait l) ?_ fun _ => id) rfl rfl id rfl fun k => ?_
  rotate_left
  · rw [State.removeWait, State.line_updLine]
    split
    · subst_vars; exact ⟨rfl, rfl⟩
    · exact ⟨rfl, rfl⟩
  have e : (s.removeWait l).skel =
      { s.skel with waits := s.skel.waits.filter fun e => e.req.line != l
                    queued := Function.update s.skel.queued l false } := by
    have e₁ : ∀ k, (s.removeWait l).line k = if l = k then { s.line l with queued := false } else s.line k :=
      fun k => by rw [State.removeWait, State.line_updLine]; rfl
    have f₁ : (fun k => ((s.removeWait l).line k).onBus) = fun k => (s.line k).onBus := by
      funext k; rw [e₁]; split
      · subst_vars; rfl
      · rfl
    have f₂ : (fun k => ((s.removeWait l).line k).blocked) = fun k => (s.line k).blocked := by
      funext k; rw [e₁]; split
      · subst_vars; rfl
      · rfl
    have f₃ : (fun k => ((s.removeWait l).line k).queued) = Function.update (fun k => (s.line k).queued) l false := by
      funext k; rw [e₁]
      by_cases hk : l = k
      · subst hk; simp
      · simp [hk, Function.update_of_ne (Ne.symm hk)]
    rw [State.skel, f₁, f₂, f₃]
    rfl
  rw [e]
  exact .unwait l

theorem State.writeSlot_moves (s : State) (n : SlotId) (x : Option Ticket)
    (h : s.TicketsInRange → ∀ t, x = some t → t.InRange) : Moves s (s.writeSlot n x) := by
  refine .of_move (t := s.writeSlot n x) ?_ fun _ => id
  have e : (s.writeSlot n x).skel = { s.skel with tickets := Function.update s.skel.tickets n x } := by
    simp only [State.skel, Skel.mk.injEq, State.writeSlot_line, State.writeSlot_bus, State.writeSlot_waitQueue,
      State.writeSlot_retest, State.writeSlot_counter, State.writeSlot_port, and_true, true_and]
    funext m
    rw [State.slot_writeSlot]
    by_cases hm : n = m
    · subst hm; simp
    · simp [hm, Function.update_of_ne (Ne.symm hm)]
  rw [e]
  exact .slot n x fun ht hc => h ⟨ht, hc⟩

theorem State.retestDrop_goes (s : State) (r : List LineId) (h : r.Sublist s.retest) : Goes s { s with retest := r } :=
  .of_still (.of_move (t := { s with retest := r }) (.retestDrop (k := s.skel) r h) fun _ => id) rfl rfl id rfl
    fun _ => ⟨rfl, rfl⟩

end Sys2Proof.Machine
end

