-- ==== Sys2Proof/Laws/Effects.lean ====
section
/-!
SUPPORT. Every shared operation as moves, in the order of the files that define them.
-/

set_option Elab.async false

namespace Sys2Proof.Machine

/-! ## Access -/

theorem bindUnit_context (n : Nat) (b : BusId) (m : MuRec) : (bindUnit n b m).context = m.context := by
  unfold bindUnit; split <;> rfl

theorem unbindUnit_context (n d : Nat) (m : MuRec) : (unbindUnit n d m).context = m.context := by
  unfold unbindUnit; split <;> rfl

/-- What a grant does to buses and units (R25). -/
theorem State.grant_core (s : State) (q : Request) (b : BusId) (u : Option MuId) :
    (∀ c, (((s.updBus b fun _ => grantedBus s q u).bindMu u b).updLine q.line (grantedLine b)).bus c
      = if b = c then grantedBus s q u else s.bus c)
    ∧ (∀ v, (((s.updBus b fun _ => grantedBus s q u).bindMu u b).updLine q.line (grantedLine b)).mu v
      = if u = some v then bindUnit s.now b (s.mu v) else s.mu v)
    ∧ (((s.updBus b fun _ => grantedBus s q u).bindMu u b).updLine q.line (grantedLine b)).store = s.store := by
  refine ⟨fun c => ?_, fun v => ?_, ?_⟩
  · have e : ((s.updBus b fun _ => grantedBus s q u).bindMu u b).bus c = (s.updBus b fun _ => grantedBus s q u).bus c := by
      cases u <;> rfl
    rw [State.updLine_bus, e, State.bus_updBus]
  · rw [State.updLine_mu, State.bindMu_mu, State.updBus_mu]; rfl
  · cases u <;> rfl

theorem State.grant_goes (s : State) (q : Request) (b : BusId) (u : Option MuId) (hb : (s.bus b).state = .free)
    (hl : (s.line q.line).onBus = none)
    (hw : (s.line q.line).queued = false ∨ ∀ e ∈ s.waitQueue, e.req.line ≠ q.line) (hp : s.store.phase = .running)
    (hu : (q.termination = .mu ∧ ∃ v, u = some v ∧ ((s.mu v).state = .ready ∨ (s.mu v).state = .standby))
      ∨ (q.termination ≠ .mu ∧ u = none)) : Goes s (s.grant q b u) := by
  have hmove : Moves s ((s.updBus b fun _ => grantedBus s q u).updLine q.line (grantedLine b)) := by
    refine .of_move ?_ fun c hc => ?_
    · have e : ((s.updBus b fun _ => grantedBus s q u).updLine q.line (grantedLine b)).skel =
          { s.skel with
            onBus := Function.update s.skel.onBus q.line (some b)
            blocked := Function.update s.skel.blocked q.line true
            queued := Function.update s.skel.queued q.line false
            isFree := Function.update s.skel.isFree b false
            busLine := Function.update s.skel.busLine b (some q.line) } := by
        have e₁ : ∀ k, ((s.updBus b fun _ => grantedBus s q u).updLine q.line (grantedLine b)).line k =
            if q.line = k then grantedLine b (s.line q.line) else s.line k := fun k => State.line_updLine _ _ _ _
        have e₂ : ∀ k, ((s.updBus b fun _ => grantedBus s q u).updLine q.line (grantedLine b)).bus k =
            if b = k then grantedBus s q u else s.bus k := fun k => by
          rw [State.updLine_bus, State.bus_updBus]
        rw [State.skel, Skel.mk.injEq]
        refine ⟨?_, ?_, ?_, ?_, ?_, rfl, rfl, rfl, rfl, rfl⟩
        · funext k; rw [e₁]
          by_cases h : q.line = k
          · subst h; simp [grantedLine]
          · simp [h, Function.update_of_ne (Ne.symm h), State.skel]
        · funext k; rw [e₁]
          by_cases h : q.line = k
          · subst h; simp [grantedLine]
          · simp [h, Function.update_of_ne (Ne.symm h), State.skel]
        · funext k; rw [e₁]
          by_cases h : q.line = k
          · subst h; simp [grantedLine]
          · simp [h, Function.update_of_ne (Ne.symm h), State.skel]
        · funext k; rw [e₂]
          by_cases h : b = k
          · subst h; simp only [if_true, grantedBus, Function.update_self]; rfl
          · simp [h, Function.update_of_ne (Ne.symm h), State.skel]
        · funext k; rw [e₂]
          by_cases h : b = k
          · subst h; simp [grantedBus]
          · simp [h, Function.update_of_ne (Ne.symm h), State.skel]
      rw [e]
      exact .grant q.line b (by simp [State.skel, hb]) hl hw
    · rw [State.updLine_bus, State.bus_updBus]
      split
      · simp [grantedBus]
      · exact hc
  have hm : Moves s (((s.updBus b fun _ => grantedBus s q u).bindMu u b).updLine q.line (grantedLine b)) := by
    refine hmove.trans ?_
    cases u with
    | none => exact .refl _
    | some u => exact .of_skel (skel_congr rfl rfl rfl rfl rfl rfl rfl)
  obtain ⟨tb, tm, ts⟩ := s.grant_core q b u
  refine Goes.trans (.of_moves hm (fun h => ?_) (fun h => ?_) (by cases u <;> rfl) (fun k => ?_)
    (.congr (by rw [ts]) (by rw [ts]))) (State.pushKept_goes _ _ _ _)
  · refine h.bind (h.leaving b (.inl hb)) (fun v hv => ?_) tb tm rfl ?_ ⟨by simp [grantedBus], by simp [grantedBus]⟩ ?_
    · obtain ⟨-, w, hw, h⟩ | ⟨-, h⟩ := hu
      · rw [hv] at hw; cases hw; exact h
      · rw [h] at hv; cases hv
    · obtain ⟨h₁, w, h₂, -⟩ | ⟨h₁, h₂⟩ := hu
      · exact iff_of_true h₁ ⟨w, h₂⟩
      · exact iff_of_false h₁ (by simp [h₂])
    · rw [ts, hp]; simp
  · refine h.of_context fun v => ?_
    rw [tm]
    split
    · exact bindUnit_context _ _ _
    · rfl
  · rw [State.line_updLine]
    split
    · subst_vars; cases u <;> exact ⟨rfl, rfl⟩
    · cases u <;> exact ⟨rfl, rfl⟩

theorem State.placeWait_goes (s : State) (q : Request) (hs : q.source ≠ .rs) (hl : (s.line q.line).onBus = none)
    (hq : (s.line q.line).queued = false) (hn : s.waitQueue.length < 8) : Goes s (s.placeWait q) := by
  refine .of_still (.of_move (t := s.placeWait q) ?_ fun _ => id) rfl rfl id rfl fun k => ?_
  rotate_left
  · rw [State.placeWait, State.line_updLine]
    split
    · subst_vars; exact ⟨rfl, rfl⟩
    · exact ⟨rfl, rfl⟩
  have e₁ : ∀ k, (s.placeWait q).line k = if q.line = k then { s.line q.line with queued := true } else s.line k :=
    fun k => by rw [State.placeWait, State.line_updLine]; rfl
  have f₁ : (fun k => ((s.placeWait q).line k).onBus) = fun k => (s.line k).onBus := by
    funext k; rw [e₁]; split
    · subst_vars; rfl
    · rfl
  have f₂ : (fun k => ((s.placeWait q).line k).blocked) = fun k => (s.line k).blocked := by
    funext k; rw [e₁]; split
    · subst_vars; rfl
    · rfl
  have f₃ : (fun k => ((s.placeWait q).line k).queued) = Function.update (fun k => (s.line k).queued) q.line true := by
    funext k; rw [e₁]
    by_cases hk : q.line = k
    · subst hk; simp
    · simp [hk, Function.update_of_ne (Ne.symm hk)]
  have e : (s.placeWait q).skel =
      { s.skel with waits := placeEntry s.skel.waits ⟨q, s.now + seconds (s.waitLimit q.source)⟩
                    queued := Function.update s.skel.queued q.line true } := by
    rw [State.skel, f₁, f₂, f₃]
    rfl
  rw [e]
  exact .placed ⟨q, s.now + seconds (s.waitLimit q.source)⟩ hs hl hq hn

theorem State.admission_none {s : State} {l : LineId} {src : Source} {term : Termination} {form : AskForm}
    (h : s.admission l src term form = none) :
    (s.line l).onBus = none ∧ (form = .order → (s.line l).queued = false) := by
  unfold State.admission at h
  simp only at h
  split at h
  · cases h
  · rename_i h₁
    split at h
    · cases h
    · rename_i h₂
      exact ⟨by simpa using h₁, fun e => by simpa [e] using h₂⟩

theorem State.scanEntry_goes (s : State) (e : WaitEntry) : Goes s (s.scanEntry e) := by
  unfold State.scanEntry
  split
  · rename_i b u h
    unfold State.scanGrants at h
    split at h
    · rename_i hc
      obtain ⟨hr, ha, -⟩ := hc
      have hn := State.needs_some h
      have hl := (State.admission_none ha).1
      refine (s.removeWait_goes e.req.line).trans (State.grant_goes _ _ _ _ hn.1 ?_ ?_ ?_ hn.2)
      · rw [State.removeWait, State.line_updLine_self]; exact hl
      · refine .inr fun x hx => ?_
        rw [State.removeWait, State.updLine_waitQueue] at hx
        simpa using (List.mem_filter.1 hx).2
      · show s.store.phase = .running
        simpa [State.isRunning] using hr
    · cases h
  · exact .refl s

theorem State.scan_goes (s : State) : Goes s s.scan := foldl_goes State.scanEntry_goes _ s

/-! ## Sweep -/

theorem State.passEnd_goes (s : State) : Goes s s.passEnd :=
  (s.pushNotice_goes _ _).trans (.quiet rfl rfl rfl rfl rfl rfl rfl rfl id)

theorem State.passEndIfDue_goes (s : State) : Goes s s.passEndIfDue := by
  unfold State.passEndIfDue
  split
  · exact s.passEnd_goes
  · exact .refl s

theorem State.startPacing_goes (s : State) : Goes s s.startPacing := .quiet rfl rfl rfl rfl rfl rfl rfl rfl id

theorem State.sweepGrant_goes (s : State) (l : LineId) (b : BusId) (u : Option MuId) (hb : (s.bus b).state = .free)
    (hr : s.store.phase = .running) (hu : ∃ v, u = some v ∧ ((s.mu v).state = .ready ∨ (s.mu v).state = .standby))
    (ha : s.admission l .rs .mu .order = none) : Goes s (s.sweepGrant l b u) := by
  have h := State.admission_none ha
  unfold State.sweepGrant
  refine (State.grant_goes s ⟨.rs, .test s.sweep.testNumber, l, .mu, some s.sweepCfg.programme⟩ b u hb h.1
    (.inl (h.2 rfl)) hr (.inl ⟨rfl, hu⟩)).trans ?_
  refine (State.updLine_goes _ l (fun r => { r with lastRoutine := some (routineDay s.clock.day) }) rfl rfl rfl rfl
    rfl).trans ?_
  exact .quiet rfl rfl rfl rfl rfl rfl rfl rfl id

theorem State.sweepTest_admission {s : State} {form : SweepForm} {l : LineId} (h : s.sweepTest form l = true) :
    s.admission l .rs .mu .order = none := by
  unfold State.sweepTest at h
  simp only [Bool.and_eq_true] at h
  simpa using h.1.2

theorem State.walk_some {s : State} {last fuel c k : Nat} {l : LineId} {c' k' : Nat}
    (h : s.walk last fuel c k = (some l, c', k')) : s.sweepTest .cursor l = true := by
  induction fuel generalizing c k with
  | zero => simp [State.walk] at h
  | succ n ih =>
    unfold State.walk at h
    split at h
    · simp at h
    · split at h
      · simp at h
      · split at h
        · simp_all
        · exact ih h

theorem State.admission_of {s t : State} (h₁ : t.lines = s.lines) (h₂ : t.supervised = s.supervised) {l : LineId}
    {src : Source} {term : Termination} {form : AskForm} (h : s.admission l src term form = none) :
    t.admission l src term form = none := by
  rw [← h]
  simp only [State.admission, State.line_congr h₁, h₂]

theorem State.cursorAttempt_goes (s : State) (b : BusId) (u : Option MuId) (hb : (s.bus b).state = .free)
    (hr : s.store.phase = .running) (hu : ∃ v, u = some v ∧ ((s.mu v).state = .ready ∨ (s.mu v).state = .standby)) :
    Goes s (s.cursorAttempt b u) := by
  unfold State.cursorAttempt
  simp only
  split
  · rename_i l c k h
    refine Goes.trans (t := { s with sweep := { s.sweep with cursor := c + 1, skipped := k, closing := l.val == s.sweepCfg.last } })
      (.quiet rfl rfl rfl rfl rfl rfl rfl rfl id) (State.sweepGrant_goes _ l b u hb hr hu ?_)
    exact State.admission_of (s := s) rfl rfl (State.sweepTest_admission (State.walk_some h))
  · refine Goes.trans ?_ (State.passEndIfDue_goes _)
    exact .quiet rfl rfl rfl rfl rfl rfl rfl rfl id

theorem State.attempt_goes (s : State) (b : BusId) (u : Option MuId) (hb : (s.bus b).state = .free)
    (hr : s.store.phase = .running) (hu : ∃ v, u = some v ∧ ((s.mu v).state = .ready ∨ (s.mu v).state = .standby)) :
    Goes s (s.attempt b u) := by
  unfold State.attempt
  simp only
  refine Goes.trans ?_ (State.startPacing_goes _)
  split
  · rename_i l h
    refine Goes.trans (s.retestDrop_goes _ List.erase_sublist) (State.sweepGrant_goes _ l b u hb hr hu ?_)
    exact State.admission_of rfl rfl (State.sweepTest_admission (List.find?_some h))
  · split
    · exact .refl s
    · exact s.cursorAttempt_goes b u hb hr hu

theorem State.sweepTrigger_goes (s : State) : Goes s s.sweepTrigger := by
  unfold State.sweepTrigger
  split
  · rename_i hc
    split
    · have hn := State.needs_some ‹_›
      refine s.attempt_goes _ _ hn.1 ?_ (hn.2.elim And.right fun h => absurd rfl h.1)
      unfold State.startConditions at hc
      simp only [Bool.and_eq_true] at hc
      simpa [State.isRunning] using hc.1.1.1.1.1.1.1
    · exact .refl s
  · exact .refl s

theorem State.rederive_goes (s : State) : Goes s s.rederive := by
  unfold State.rederive
  simp only
  have h : Goes s { s with sweep := { s.sweep with lastState := s.sweepState } } := .quiet rfl rfl rfl rfl rfl rfl rfl rfl id
  split
  · exact h.trans (State.sweepTrigger_goes _)
  · exact h

theorem State.scanThenTrigger_goes (s : State) : Goes s s.scanThenTrigger :=
  s.scan_goes.trans (State.sweepTrigger_goes _)

theorem State.offerRetest_goes (s : State) (l : LineId) : Goes s (s.offerRetest l) := by
  unfold State.offerRetest
  split
  · exact .refl s
  · rename_i h
    simp only [not_or, retestCapacity] at h
    exact .of_still (.of_move (t := { s with retest := s.retest ++ [l] }) (.retestAdd (k := s.skel) l h.1
      (by have := h.2.2.2; simp only [State.skel]; omega)) fun _ => id) rfl rfl id rfl fun _ => ⟨rfl, rfl⟩

theorem State.pruneRetest_goes (s : State) : Goes s s.pruneRetest := s.retestDrop_goes _ List.filter_sublist

theorem State.sweepTestEnded_goes (s : State) (b : BusId) (v : Option Verdict) : Goes s (s.sweepTestEnded b v) := by
  unfold State.sweepTestEnded
  simp only
  split
  · exact .quiet rfl rfl rfl rfl rfl rfl rfl rfl id
  · exact .refl s

theorem State.sweepTestReleased_goes (s : State) (b : BusId) : Goes s (s.sweepTestReleased b) := by
  refine Goes.trans ?_ (State.passEndIfDue_goes _)
  exact .quiet rfl rfl rfl rfl rfl rfl rfl rfl id

/-! ## Tickets -/

theorem State.evaluateQuarantine_goes (s : State) (l : LineId) : Goes s (s.evaluateQuarantine l) := by
  unfold State.evaluateQuarantine
  simp only
  split
  · exact .refl s
  · rename_i hne
    have hm := s.updLine_moves l (fun r => { r with quarantined := s.quarantineDue l }) rfl rfl rfl
    have h : Goes s (s.updLine l fun r => { r with quarantined := s.quarantineDue l }) :=
      ⟨hm, fun h => h.congr (fun _ => .refl _) (fun _ => ⟨rfl, id⟩) id, fun h => h.congr rfl, fun _ _ h => h.congr rfl,
        fun h => absurd (Bool.eq_iff_iff.2 ((quarantineDue_iff s l).trans (h l).symm)) hne,
        .congr rfl rfl⟩
    split
    · exact h.trans (State.retestDrop_goes _ _ List.erase_sublist)
    · exact h.trans (State.scanThenTrigger_goes _)

/-- With the flag of every other line standing as it should, so does every flag after a line is evaluated (R120). -/
theorem State.evaluateQuarantine_settles {s : State} {l : LineId}
    (h : ∀ k, k ≠ l → ((s.line k).quarantined = true ↔ s.CarriesHazard k)) : (s.evaluateQuarantine l).QuarantineAgrees := by
  have hq : (s.updLine l fun r => { r with quarantined := s.quarantineDue l }).QuarantineAgrees := fun k => by
    have e : (s.updLine l fun r => { r with quarantined := s.quarantineDue l }).CarriesHazard k ↔ s.CarriesHazard k :=
      State.CarriesHazard.congr rfl (by rw [State.line_updLine]; split <;> simp_all)
    rw [e, State.line_updLine]
    split
    · rename_i hk; subst hk; exact quarantineDue_iff s _
    · rename_i hk; exact h k (Ne.symm hk)
  unfold State.evaluateQuarantine
  simp only
  split
  · rename_i he
    intro k
    by_cases hk : k = l
    · subst hk; rw [← he]; exact quarantineDue_iff s k
    · exact h k hk
  · split
    · exact (State.retestDrop_goes _ _ List.erase_sublist).quarantine hq
    · exact (State.scanThenTrigger_goes _).quarantine hq

theorem State.evaluateAlm_goes (s : State) : Goes s s.evaluateAlm := by
  unfold State.evaluateAlm
  split
  · exact .quiet rfl rfl rfl rfl rfl rfl rfl rfl id
  · exact .refl s

theorem State.vtuOffer_goes (s : State) (l : LineId) : Goes s (s.vtuOffer l) := by
  unfold State.vtuOffer
  split
  · exact .refl s
  · exact s.offerRetest_goes l

theorem satSucc_le (top n : Nat) : satSucc top n ≤ max n top := by
  unfold satSucc; split <;> omega

theorem satSucc_pos {top n : Nat} (h : 1 ≤ top) : 1 ≤ satSucc top n := by
  unfold satSucc; split <;> omega

theorem Ticket.InRange.merged {t : Ticket} (h : t.InRange) (f : Failure) (st : Stamp) : (mergedTicket t f st).InRange := by
  unfold Ticket.InRange mergedTicket at *
  simp only
  have := satSucc_le 255 t.repeats
  have := satSucc_pos (top := 255) (n := t.repeats) (by omega)
  omega

theorem Ticket.InRange.passed {t : Ticket} (h : t.InRange) (n : Nat) (st : Stamp) : (passedTicket t n st).InRange := by
  have := satSucc_le 7 t.passes
  unfold passedTicket
  simp only
  split <;> (unfold Ticket.InRange at *; simp only; omega)

theorem State.mergeTicket_moves (s : State) (n : SlotId) (t : Ticket) (f : Failure) (st : Stamp)
    (h : s.slot n = some t) : Moves s (s.mergeTicket n t f st) := by
  unfold State.mergeTicket
  refine Moves.trans (s.writeSlot_moves n _ fun hr x hx => ?_) (State.ticketNotice_goes _ _).toMoves
  cases hx
  exact (hr.tickets n t h).merged f st

theorem State.writeNone_moves (s : State) (n : SlotId) : Moves s (s.writeSlot n none) :=
  s.writeSlot_moves n none fun _ _ h => by cases h

theorem State.takeCleared_moves (s : State) (n : SlotId) (t : Ticket) : Moves s (s.takeCleared n t) :=
  (s.ticketNotice_goes _).toMoves.trans (State.writeNone_moves _ n)

theorem State.evict_moves (s : State) (n : SlotId) (t : Ticket) : Moves s (s.evict n t) :=
  (((s.ticketNotice_goes _).toMoves.trans (State.updLine_moves _ _ _ rfl rfl rfl)).trans (State.vtuOffer_goes _ _).toMoves).trans
    (State.writeNone_moves _ n)

theorem State.takeSlot_moves {s : State} {f : Failure} {n : SlotId} {u : State} (h : s.takeSlot f = some (n, u)) :
    Moves s u := by
  unfold State.takeSlot at h
  split at h
  · simp only [Option.some.injEq, Prod.mk.injEq] at h
    rw [← h.2]; exact .refl s
  · split at h
    · simp only [Option.some.injEq, Prod.mk.injEq] at h
      rw [← h.2]; exact s.takeCleared_moves _ _
    · split at h
      · simp only [Option.map_eq_some_iff, Prod.mk.injEq] at h
        obtain ⟨⟨m, t⟩, -, -, rfl⟩ := h
        exact s.evict_moves m t
      · cases h

theorem State.counter_moves (s : State) (c : Nat) (h : CounterOk s.counter → CounterOk c) :
    Moves s { s with counter := c } :=
  .of_move (t := { s with counter := c }) (.counter (k := s.skel) c h) fun _ => id

theorem State.createTicket_moves (s : State) (n : SlotId) (l : LineId) (c : FaultClass) (f : Failure) (src : Source)
    (st : Stamp) : Moves s (s.createTicket n l c f src st) := by
  unfold State.createTicket
  simp only
  have h₁ : Moves s (s.writeSlot n (some (newTicket (s.freeNumber 257 s.counter) l c f src st))) :=
    s.writeSlot_moves n _ fun hr x hx => by
      cases hx
      have := s.freeNumber_ok 257 s.counter hr.counter
      exact ⟨this.1, this.2, by simp [newTicket], by simp [newTicket], by simp [newTicket]⟩
  have h₂ : Moves s ({ s with counter := nextNumber (s.freeNumber 257 s.counter) }.writeSlot n
      (some (newTicket (s.freeNumber 257 s.counter) l c f src st))) :=
    h₁.trans (State.counter_moves _ _ fun _ => nextNumber_ok _)
  have h₃ := (h₂.trans (State.updLine_moves _ l (fun r => r.dropPending c) rfl rfl rfl)).trans
    (State.ticketNotice_goes _ (.new (newTicket (s.freeNumber 257 s.counter) l c f src st))).toMoves
  split
  · exact h₃
  · exact h₃.trans (State.vtuOffer_goes _ _).toMoves

theorem State.overflowTicket_moves (s : State) (l : LineId) (c : FaultClass) (f : Failure) (src : Source) :
    Moves s (s.overflowTicket l c f src) := by
  unfold State.overflowTicket
  simp only
  have h := (s.updLine_moves l (fun r => r.addPending c) rfl rfl rfl).trans
    (State.pushNotice_goes _ .m (.ticketOverflow l c f.severity f.value src)).toMoves
  split
  · exact h
  · exact h.trans (State.vtuOffer_goes _ _).toMoves

theorem State.applyFailure_moves (s : State) (l : LineId) (c : FaultClass) (f : Failure) (src : Source) (st : Stamp) :
    Moves s (s.applyFailure l c f src st) := by
  unfold State.applyFailure
  split
  · exact s.mergeTicket_moves _ _ f st (findSlot_slot ‹_›)
  · split
    · exact (State.takeSlot_moves ‹_›).trans (State.createTicket_moves _ _ _ _ _ _ _)
    · exact s.overflowTicket_moves _ _ _ _

theorem State.applyPass_moves (s : State) (l : LineId) (c : FaultClass) (n : Nat) (st : Stamp) :
    Moves s (s.applyPass l c n st) := by
  unfold State.applyPass
  simp only
  refine Moves.trans ?_ (State.updLine_moves _ l _ rfl rfl rfl)
  split
  · exact .refl s
  · rename_i k t h
    have hw : Moves s (s.writeSlot k (some (passedTicket t n st))) := s.writeSlot_moves k _ fun hr x hx => by
      cases hx
      exact (hr.tickets k t (findSlot_slot h)).passed n st
    split
    · exact hw.trans (State.ticketNotice_goes _ _).toMoves
    · exact hw

/-- What a class of an outcome does, under a programme whose hazards were judged so (R106, R112). -/
theorem State.applyClass_goes (s : State) (o : OutcomeIn) (c : FaultClass) :
    GoesIf (HazardJudged o.results ∧ s.ContextsFit) s (s.applyClass o c) := by
  have mk : ∀ {u : State}, Moves s u → Still s u → (HazardJudged o.results → CounterOk s.counter → s.TicketsApart → u.TicketsApart) →
      CarriesSame (fun k => c = .hazard → k ≠ o.line) s u →
      GoesIf (HazardJudged o.results ∧ s.ContextsFit) s (if c = .hazard then u.evaluateQuarantine o.line else u) := by
    intro u hm hs ha hc
    have hu : s.UnitsAgree → u.UnitsAgree := fun h =>
      h.congr (fun b => by rw [State.bus_congr hs.buses]; exact .refl _)
        (fun v => by rw [State.mu_congr hs.units]; exact ⟨rfl, id⟩) (by rw [hs.phase]; exact id)
    have hf : s.ContextsFit → u.ContextsFit := fun h => h.congr hs.units
    split
    · have he := u.evaluateQuarantine_goes o.line
      refine ⟨hm.trans he.toMoves, he.units ∘ hu, he.contexts ∘ hf,
        fun p k h => he.tickets (hf p.2) (hm.counter k) (ha p.1 k h), fun h => State.evaluateQuarantine_settles fun k hk => ?_,
        he.image ∘ .congr hs.gathered.1 hs.gathered.2⟩
      obtain ⟨h₁, h₂⟩ := hc k fun _ => hk
      rw [h₁, h₂]; exact h k
    · rename_i hh
      refine ⟨hm, hu, hf, fun p => ha p.1, fun h k => ?_, .congr hs.gathered.1 hs.gathered.2⟩
      obtain ⟨h₁, h₂⟩ := hc k fun e => absurd e hh
      rw [h₁, h₂]; exact h k
  unfold State.applyClass
  split
  · rename_i f hf
    exact mk (s.applyFailure_moves _ _ _ _ _) (s.applyFailure_still _ _ _ _ _)
      (fun hj hk => State.applyFailure_apart _ _ _ _ _ hk fun e => failureOf_hazard hj (e ▸ hf))
      (s.applyFailure_carries _ _ _ _ _)
  · split
    · exact mk (s.applyPass_moves _ _ _ _) (s.applyPass_still _ _ _ _) (fun _ _ => State.applyPass_apart _ _ _ _)
        (s.applyPass_carries _ _ _ _)
    · exact .refl s

theorem State.applyClasses_goes (o : OutcomeIn) (cs : List FaultClass) (s : State) :
    GoesIf (HazardJudged o.results ∧ s.ContextsFit) s (cs.foldl (fun t c => t.applyClass o c) s) := by
  induction cs generalizing s with
  | nil => exact .refl s
  | cons c cs ih =>
    have h := s.applyClass_goes o c
    exact h.then (ih _) fun p => ⟨p.1, h.contexts p.2⟩

theorem State.applyOutcome_goes (s : State) (o : OutcomeIn) :
    GoesIf (HazardJudged o.results ∧ s.ContextsFit) s (s.applyOutcome o) :=
  have h := State.applyClasses_goes o FaultClass.all s
  h.then (State.evaluateAlm_goes _) fun p => h.contexts p.2

/-! ## Programmes -/

theorem firstPhase_legs (i : Nat) (k : StepKind) : i = 0 ↔ firstPhase i k = .legAe ∨ firstPhase i k = .legBe := by
  unfold firstPhase
  split
  · simp_all
  · cases k <;> simp_all

/-- A phase begun on a MEASURING unit (R76). -/
theorem State.beginPhase_goes (s : State) (u : MuId) (c : Context) (ph : Phase) (hm : (s.mu u).state = .measuring)
    (hl : s.ContextsFit → (c.stepIndex = 0 ↔ ph = .legAe ∨ ph = .legBe)) (hj : s.ContextsFit → HazardJudged c.results) :
    Goes s (s.beginPhase u c ph) := by
  refine s.updMu_goes _ _ rfl (fun h => ⟨h.free, by simp [hm]⟩) fun hc x hx => ?_
  cases hx
  exact ⟨hl hc, hj hc⟩

theorem State.beginStep_goes (s : State) (u : MuId) (c : Context) (i : Nat) (hm : (s.mu u).state = .measuring)
    (hj : s.ContextsFit → HazardJudged c.results) : Goes s (s.beginStep u c i) :=
  s.beginPhase_goes _ _ _ hm (fun _ => firstPhase_legs _ _) hj

theorem freshResults_judged (steps : List SnapStep) : HazardJudged (freshResults steps) := by
  intro r hr hd
  unfold freshResults at hr
  simp only [List.mem_cons, List.mem_map] at hr
  rcases hr with rfl | ⟨x, -, rfl⟩ <;> cases hd

/-- A programme started on an ATTACHED unit (R73). -/
theorem State.startProgramme_goes (s : State) (b : BusId) (u : MuId) (p : ProgId) (tag : HolderTag) (ticket : Bool)
    (hm : (s.mu u).state = .attached) : Goes s (s.startProgramme b u p tag ticket) := by
  unfold State.startProgramme
  split
  · refine (s.updBus_goes b (fun r => { r with grantProgramme := none }) rfl (.of_eq rfl rfl rfl)).trans ?_
    simp only [State.beginStep, State.beginPhase, State.updMu_updMu]
    refine State.updMu_goes _ _ _ rfl (fun h => ?_) fun _ x hx => ?_
    · rw [State.updBus_mu] at h ⊢
      refine ⟨?_, by simp⟩
      have := h.free
      rw [hm] at this
      simpa using this
    · cases hx
      exact ⟨iff_of_true rfl (.inl rfl), freshResults_judged _⟩
  · exact .refl s

theorem State.startGrantProgramme_goes (s : State) (b : BusId) : Goes s (s.startGrantProgramme b) := by
  unfold State.startGrantProgramme
  simp only
  split
  · split
    · exact s.startProgramme_goes _ _ _ _ _ ‹_›
    · exact .refl s
  · exact .refl s

theorem State.reportEnd_goes (s : State) (c : Context) (cause : EndCause) (rs : List StepResult) :
    Goes s (s.reportEnd c cause rs) := by
  unfold State.reportEnd
  split
  · exact s.sweepTestEnded_goes _ _
  · exact s.toHolder_goes _ _ _

theorem Context.endResults_judged {c : Context} (h : HazardJudged c.results) : HazardJudged c.endResults := by
  intro r hr hd
  unfold Context.endResults at hr
  simp only [List.mem_map] at hr
  obtain ⟨x, hx, rfl⟩ := hr
  split at hd
  · cases hd
  · rename_i hn
    rw [if_neg hn]
    exact h x hx hd

theorem endedUnit_bus (now d : Nat) (c : Context) (m : MuRec) : (endedUnit now d c m).bus = m.bus := by
  unfold endedUnit; split <;> rfl

theorem endedUnit_context (now d : Nat) (c : Context) (m : MuRec) : (endedUnit now d c m).context = none := by
  unfold endedUnit; split <;> rfl

theorem State.endProgramme_goes (s : State) (u : MuId) (cause : EndCause) : Goes s (s.endProgramme u cause) := by
  unfold State.endProgramme
  split
  · exact .refl s
  · rename_i c hc
    simp only
    have h : Goes s ((s.updMu u (endedUnit s.now s.config.discharge c)).reportEnd c cause c.endResults) := by
      refine (s.updMu_goes u (endedUnit s.now s.config.discharge c) (endedUnit_bus _ _ _ _) (fun h => ?_)
        fun _ x hx => ?_).trans (State.reportEnd_goes _ c cause _)
      · have hm := h.measuring.1 (by simp [hc])
        refine ⟨?_, ?_⟩
        · rw [endedUnit_bus, endedUnit_state, h.free, hm]; split <;> simp
        · rw [endedUnit_context, endedUnit_state]; split <;> simp
      · rw [endedUnit_context] at hx; cases hx
    split
    · exact GoesIf.then h (State.applyOutcome_goes _ _) fun hf =>
        ⟨Context.endResults_judged (hf u c hc).judged, h.contexts hf⟩
    · exact h

theorem decideRelease_line (c : Cause) (r : BusRec) : (decideRelease c r).line = r.line := by
  unfold decideRelease; simp only; split <;> rfl

theorem decideRelease_state (c : Cause) (r : BusRec) : (decideRelease c r).state = r.state := by
  unfold decideRelease; simp only; split <;> rfl

theorem decideRelease_same (c : Cause) (r : BusRec) : r.Same (decideRelease c r) := by
  refine .of_eq ?_ ?_ (decideRelease_state c r) <;> (unfold decideRelease; simp only; split <;> rfl)

theorem heldDecided_same (c : Cause) (r : BusRec) (h : r.state ≠ .free) : r.Same (heldDecided c r) :=
  have hs := decideRelease_same c r
  ⟨hs.boundMu, hs.termination, by simp [heldDecided, h], by simp [heldDecided]⟩

/-- The unit of a bus that enters RELEASING is ATTACHED or WARMING (R38, R40). -/
def State.Leaves (s : State) (b : BusId) : Prop :=
  ∀ u, (s.bus b).boundMu = some u → (s.mu u).state = .attached ∨ (s.mu u).state = .warming

theorem State.enterReleasing_goes (s : State) (b : BusId) (h : (s.bus b).state ≠ .free)
    (hu : s.UnitsAgree → s.Leaves b) : Goes s (s.enterReleasing b) := by
  unfold State.enterReleasing
  simp only
  have hm : Moves s (s.updBus b (releasingBus (s.now + ms s.config.release))) :=
    s.updBus_moves b _ rfl (by simp [releasingBus, h])
  split
  · rename_i u hb
    refine Goes.trans (.of_moves (hm.trans (State.updMu_moves _ _ _)) (fun ha => ?_) (fun hc => ?_) rfl fun _ => ⟨rfl, rfl⟩)
      (State.scanThenTrigger_goes _)
    · refine ha.unbind (r := releasingBus (s.now + ms s.config.release) (s.bus b)) (n := s.now) (d := s.config.standby)
        hb (hu ha u hb) (fun c => ?_) (fun v => ?_) rfl (by simp [releasingBus]) id
      · rw [State.updMu_bus, State.bus_updBus]
      · rw [State.mu_updMu]; rfl
    · refine hc.of_context fun v => ?_
      rw [State.mu_updMu]
      split
      · subst_vars; exact unbindUnit_context _ _ _
      · rfl
  · rename_i hb
    refine .of_moves hm (fun ha => ha.congr (fun c => ?_) (fun _ => ⟨rfl, id⟩) id) (fun hc => hc.congr rfl) rfl
      fun _ => ⟨rfl, rfl⟩
    rw [State.bus_updBus]
    split
    · rename_i hbc
      subst hbc
      refine ⟨hb.symm, ?_, by simp [releasingBus, h], fun _ => .inr hb⟩
      rw [ha.termination, hb]
      simp [releasingBus]
    · exact .refl _

theorem State.endIfMeasuring_goes (s : State) (u : MuId) (c : Cause) : Goes s (s.endIfMeasuring u c) := by
  unfold State.endIfMeasuring
  split
  · exact s.endProgramme_goes _ _
  · exact .refl s

theorem State.drainOrRelease_goes (s : State) (b : BusId) (u : MuId) (h : (s.bus b).state ≠ .free)
    (hu : s.UnitsAgree → (s.bus b).boundMu = some u ∧ (s.mu u).state ≠ .measuring) : Goes s (s.drainOrRelease b u) := by
  unfold State.drainOrRelease
  split
  · exact s.updBus_goes b _ rfl ⟨rfl, .rfl, by simpa using h, by simp⟩
  · rename_i hd
    refine s.enterReleasing_goes b h fun ha v hv => ?_
    obtain ⟨h₁, h₂⟩ := hu ha
    rw [h₁] at hv
    cases hv
    have h₃ := mt (ha.free u).2 (by rw [(ha.bound b u).1 h₁]; simp)
    cases e : (s.mu u).state <;> simp_all

theorem State.releaseHeld_goes (s : State) (b : BusId) (c : Cause) (hn : (s.bus b).state ≠ .free) :
    Goes s (s.releaseHeld b c) := by
  unfold State.releaseHeld
  simp only
  have hu : Goes s (s.updBus b (heldDecided c)) :=
    s.updBus_goes b _ (decideRelease_line c _) (heldDecided_same c _ hn)
  have hb : ((s.updBus b (heldDecided c)).bus b).boundMu = (s.bus b).boundMu := by
    rw [State.bus_updBus_self]; exact (heldDecided_same c _ hn).boundMu
  split
  · rename_i he
    refine hu.trans (State.enterReleasing_goes _ b (hu.stays b hn) fun _ v hv => ?_)
    rw [hb, he] at hv; cases hv
  · rename_i u he
    have ht := hu.trans (State.endIfMeasuring_goes _ u c)
    have hf := hu.stays b hn
    -- the bus keeps its record and its unit's programme is over
    have hbus : (((s.updBus b (heldDecided c)).endIfMeasuring u c).bus b) = (s.updBus b (heldDecided c)).bus b := by
      unfold State.endIfMeasuring
      split
      · exact State.endProgramme_bus hf
      · rfl
    refine ht.trans (State.drainOrRelease_goes _ b u (ht.stays b hn) fun ha => ⟨by rw [hbus, hb, he], ?_⟩)
    unfold State.endIfMeasuring at ha ⊢
    split at ha
    · rename_i hm
      rw [if_pos hm]
      cases hc : ((s.updBus b (heldDecided c)).mu u).context with
      | none =>
        have e : (s.updBus b (heldDecided c)).endProgramme u c.endCause = s.updBus b (heldDecided c) := by
          unfold State.endProgramme; rw [hc]
        rw [e] at ha ⊢
        exact absurd hc ((ha.measuring u).2 hm)
      | some x =>
        rw [State.endProgramme_mu hc, endedUnit_state]
        split <;> simp
    · rename_i hm
      rwa [if_neg hm]

theorem State.decide_goes (s : State) (b : BusId) (c : Cause) : Goes s (s.updBus b (decideRelease c)) :=
  s.updBus_goes b _ (decideRelease_line c _) (decideRelease_same c _)

theorem State.releaseDecision_goes (s : State) (b : BusId) (c : Cause) : Goes s (s.releaseDecision b c) := by
  unfold State.releaseDecision
  split
  · exact .refl s
  · split
    · exact .refl s
    · exact s.decide_goes b c
  · split
    · exact .refl s
    · exact s.decide_goes b c
  · exact s.releaseHeld_goes b c (by simp [*])
  · exact .refl s
  · exact .refl s

theorem State.releaseWhere_goes (s : State) (p : BusRec → Bool) (c : Cause) : Goes s (s.releaseWhere p c) := by
  refine foldl_goes (fun t b => ?_) _ s
  split
  · exact t.releaseDecision_goes b c
  · exact .refl t

theorem State.programmeEnds_goes (s : State) (u : MuId) (cause : EndCause) : Goes s (s.programmeEnds u cause) := by
  unfold State.programmeEnds
  split
  · exact .refl s
  · simp only
    have h := s.endProgramme_goes u cause
    split
    · split
      · exact h.trans (State.releaseDecision_goes _ _ _)
      · exact h.trans (State.releaseDecision_goes _ _ _)
      all_goals exact h
    · exact h

/-! ## Steps -/

theorem State.reportStep_told (s : State) (c : Context) (r : StepResult) : Told s (s.reportStep c r) := by
  unfold State.reportStep
  split
  · exact s.pushNotice_told _ _
  · exact .refl s

theorem State.reportStep_goes (s : State) (c : Context) (r : StepResult) : Goes s (s.reportStep c r) := by
  unfold State.reportStep
  split
  · exact s.pushNotice_goes _ _
  · exact .refl s

theorem State.afterStep_goes (s : State) (u : MuId) (c : Context) (r : StepResult) (hm : (s.mu u).state = .measuring)
    (hj : s.ContextsFit → HazardJudged c.results) : Goes s (s.afterStep u c r) := by
  unfold State.afterStep
  split
  · exact s.programmeEnds_goes _ _
  · split
    · exact s.programmeEnds_goes _ _
    · exact s.beginStep_goes _ _ _ hm hj

/-- A result that a HAZARD step may have (R105, R106, R112). -/
def StepResult.Judged (r : StepResult) : Prop :=
  r.status = .done → stepClass r = .hazard → r.verdict = some .pass ∨ r.verdict = some .hazard

theorem State.completeStep_goes (s : State) (u : MuId) (c : Context) (r : StepResult) (hm : (s.mu u).state = .measuring)
    (hc : s.ContextsFit → c.Fits) (hr : s.ContextsFit → r.Judged) : Goes s (s.completeStep u c r) := by
  have hj : s.ContextsFit → HazardJudged (c.withResult r).results := fun h x hx => by
    rcases List.mem_or_eq_of_mem_set hx with hx | rfl
    · exact (hc h).judged x hx
    · exact hr h
  have h₁ : Goes s (s.updMu u fun m => { m with context := some (c.withResult r), source := none }) := by
    refine s.updMu_goes u _ rfl (fun h => ⟨h.free, by simp [hm]⟩) fun h x hx => ?_
    cases hx
    exact ⟨(hc h).legs, hj h⟩
  unfold State.completeStep
  simp only
  have ht := State.reportStep_told (s.updMu u fun m => { m with context := some (c.withResult r), source := none })
    (c.withResult r) r
  have h₂ := h₁.trans (State.reportStep_goes _ (c.withResult r) r)
  refine h₂.trans (State.afterStep_goes _ u (c.withResult r) r ?_ fun hf => (hf u _ ?_).judged)
  · rw [ht.mu, State.mu_updMu_self]; exact hm
  · rw [ht.mu, State.mu_updMu_self]

theorem judgePrecheck_judged (cr : ClassRec) (ae be : Int) (clip : Bool) :
    some (judgePrecheck cr ae be clip) = some Verdict.pass ∨ some (judgePrecheck cr ae be clip) = some Verdict.hazard := by
  unfold judgePrecheck; split <;> simp

/-- A context in a phase that is no leg of the precheck stands in a user step. -/
theorem Context.Fits.user {c : Context} (h : c.Fits) (h₁ : c.phase ≠ .legAe) (h₂ : c.phase ≠ .legBe) :
    c.stepIndex ≠ 0 := fun e => (h.legs.1 e).elim h₁ h₂

theorem Context.Fits.unclipped {c : Context} (h : c.Fits) (h₁ : c.phase ≠ .legAe) (h₂ : c.phase ≠ .legBe)
    {r : StepResult} (hi : r.index = c.stepIndex) (hc : r.clip = false) : r.Judged := fun _ hs => by
  have := h.user h₁ h₂
  unfold stepClass at hs
  rw [if_neg (by simp [hi, hc, this])] at hs
  split at hs <;> try cases hs
  split at hs <;> cases hs

theorem State.endPhaseM_goes (s : State) (u : MuId) (c : Context) (vm : Int) (hm : (s.mu u).state = .measuring)
    (hc : s.ContextsFit → c.Fits) (h₁ : c.phase ≠ .legAe) (h₂ : c.phase ≠ .legBe) : Goes s (s.endPhaseM u c vm) := by
  unfold State.endPhaseM
  simp only
  split
  · exact s.beginPhase_goes _ _ _ hm (fun h => iff_of_false ((hc h).user h₁ h₂) (by simp)) fun h => (hc h).judged
  · exact s.completeStep_goes _ _ _ hm hc fun h => (hc h).unclipped h₁ h₂ rfl rfl

theorem State.endPhase_goes (s : State) (u : MuId) (c : Context) (hm : (s.mu u).state = .measuring)
    (hc : s.ContextsFit → c.Fits) : Goes s (s.endPhase u c) := by
  have clipped : ∀ mean, Goes s (s.completeStep u c (clippedResult c mean)) := fun mean =>
    s.completeStep_goes _ _ _ hm hc fun _ _ _ => .inr rfl
  unfold State.endPhase
  simp only
  split
  · rename_i hp
    exact s.beginPhase_goes _ _ _ hm (fun h => iff_of_true ((hc h).legs.2 (.inl hp)) (.inr rfl)) fun h => (hc h).judged
  · exact s.completeStep_goes _ _ _ hm hc fun _ _ _ => judgePrecheck_judged _ _ _ _
  · rename_i hp
    split
    · exact clipped _
    · exact s.completeStep_goes _ _ _ hm hc fun h => (hc h).unclipped (by simp [hp]) (by simp [hp]) rfl rfl
  · rename_i hp
    split
    · exact clipped _
    · exact s.beginPhase_goes _ _ _ hm (fun h => iff_of_false ((hc h).user (by simp [hp]) (by simp [hp])) (by simp))
        fun h => (hc h).judged
  · rename_i hp
    split
    · exact clipped _
    · exact s.endPhaseM_goes _ _ _ hm hc (by simp [hp]) (by simp [hp])
  · rename_i hp
    split
    · exact clipped _
    · exact s.endPhaseM_goes _ _ _ hm hc (by simp [hp]) (by simp [hp])

end Sys2Proof.Machine
end

