-- ==== Sys2Proof/Laws/Commands.lean ====
section
/-!
SUPPORT. Every command as moves: `exec_kept`, from which the laws of the records follow for every step.
-/

set_option Elab.async false

namespace Sys2Proof.Machine

/-! ## Store -/

theorem State.chooseWrite_goes (s : State) : Goes s s.chooseWrite := by
  unfold State.chooseWrite
  simp only
  split
  · exact .refl s
  · split
    · exact .quiet rfl rfl rfl rfl rfl rfl rfl rfl id
    · split
      · exact .quiet rfl rfl rfl rfl rfl rfl rfl rfl id
      · exact .refl s

theorem State.accessQuietIfDue_goes (s : State) : Goes s s.accessQuietIfDue := by
  unfold State.accessQuietIfDue
  split
  · rename_i h
    refine .of_moves (.of_skel (skel_congr rfl rfl rfl rfl rfl rfl rfl)) (fun ha => ?_) (fun hc => hc.congr rfl) rfl
      fun _ => ⟨rfl, rfl⟩
    refine ⟨ha.bound, ha.termination, ha.free, ha.measuring, ha.leaving, fun _ b => ?_⟩
    show (s.bus b).state = .free
    simpa using List.all_eq_true.1 h.2 b (mem_allBuses b)
  · exact .refl s

theorem State.drainEndIfDue_goes (s : State) : Goes s s.drainEndIfDue := by
  unfold State.drainEndIfDue
  split
  · rename_i h
    exact .quiet rfl rfl rfl rfl rfl rfl rfl rfl (fun _ => .inl h.1) fun _ => ⟨.nil, fun x hx => by cases hx⟩
  · exact .refl s

theorem State.loadMap_goes (s : State) (k : Fin 64) (f : Nat → ClassId) : Goes s (s.loadMap k f) := by
  apply lines_goes <;> (intro l r; split <;> rfl)

theorem State.loadShadow_goes (s : State) (p : PageId) (d : PageData) : Goes s (s.loadShadow p d) := by
  unfold State.loadShadow
  split
  · exact .quiet rfl rfl rfl rfl rfl rfl rfl rfl id
  · exact .quiet rfl rfl rfl rfl rfl rfl rfl rfl id
  · exact .quiet rfl rfl rfl rfl rfl rfl rfl rfl id
  · exact s.loadMap_goes _ _
  · exact .quiet rfl rfl rfl rfl rfl rfl rfl rfl id
  · exact .quiet rfl rfl rfl rfl rfl rfl rfl rfl id
  · exact .refl s

theorem State.loadDefault_goes (s : State) (p : PageId) : Goes s (s.loadDefault p) := by
  unfold State.loadDefault
  simp only
  split
  · exact .quiet rfl rfl rfl rfl rfl rfl rfl rfl id
  · exact .quiet rfl rfl rfl rfl rfl rfl rfl rfl id
  · exact .quiet rfl rfl rfl rfl rfl rfl rfl rfl id
  · rename_i k _
    refine (s.loadMap_goes k fun _ => 0).trans ?_
    generalize s.loadMap k (fun _ => 0) = t
    exact .quiet rfl rfl rfl rfl rfl rfl rfl rfl id
  · exact .quiet rfl rfl rfl rfl rfl rfl rfl rfl id
  · exact .quiet rfl rfl rfl rfl rfl rfl rfl rfl id
  · exact .quiet rfl rfl rfl rfl rfl rfl rfl rfl id

/-- A page that adds nothing to the gathered ticket pages. -/
theorem State.loadGood_goes (s : State) (p : PageId) (d : PageData)
    (h : ∀ n, pageKind p = .ticket n → isEmptySlotPage d = true) : Goes s (s.loadGood p d) := by
  unfold State.loadGood
  split
  · rename_i n hn
    rw [if_pos (h n hn)]
    exact .refl s
  all_goals exact s.loadShadow_goes _ _

theorem State.loadMap_store (s : State) (k : Fin 64) (f : Nat → ClassId) : (s.loadMap k f).store = s.store := by
  simp only [State.loadMap]

theorem State.loadShadow_store (s : State) (p : PageId) (d : PageData) : (s.loadShadow p d).store = s.store := by
  unfold State.loadShadow
  split
  case h_4 => exact s.loadMap_store _ _
  all_goals rfl

theorem State.loadGood_index (s : State) (p : PageId) (d : PageData) :
    (s.loadGood p d).store.loadIndex = s.store.loadIndex := by
  unfold State.loadGood
  split
  · split <;> rfl
  all_goals rw [State.loadShadow_store]

theorem State.loadDefault_index (s : State) (p : PageId) : (s.loadDefault p).store.loadIndex = s.store.loadIndex := by
  unfold State.loadDefault; dsimp only; split <;> rfl

theorem pageKind_ticket {p : PageId} {n : SlotId} (h : pageKind p = .ticket n) : p.val = 106 + n.val := by
  unfold pageKind at h
  split_ifs at h
  cases h
  show p.val = 106 + (p.val - 106)
  omega

theorem val_of_pageOf {k : Nat} {p : PageId} (h : pageOf? k = some p) : p.val = k := by
  unfold pageOf? finOf? at h
  split at h <;> cases h
  rfl

/-- A ticket page gathered, the next page's turn (R147, R167). -/
theorem State.ImageOrdered.gather {s t : State} {n : SlotId} {d : PageData} (h : s.ImageOrdered)
    (hn : 106 + n.val = s.store.loadIndex) (hi : t.store.image = s.store.image ++ [(n, d)])
    (hk : t.store.loadIndex = s.store.loadIndex + 1) : t.ImageOrdered := by
  refine ⟨?_, fun x hx => ?_⟩
  · rw [hi, List.pairwise_append]
    refine ⟨h.1, List.pairwise_singleton _ _, fun x hx y hy => ?_⟩
    rw [List.mem_singleton.1 hy]
    have := h.2 x hx
    show x.1.val < n.val
    omega
  · rw [hi] at hx
    rw [hk]
    rcases List.mem_append.1 hx with hx | hx
    · exact (h.2 x hx).trans (Nat.lt_succ_self _)
    · rw [List.mem_singleton.1 hx, hn]; exact Nat.lt_succ_self _

/-- The next page's turn, nothing gathered (R167). -/
theorem State.ImageOrdered.advance {s t : State} (hi : t.store.image = s.store.image)
    (hk : t.store.loadIndex = s.store.loadIndex + 1) (h : s.ImageOrdered) : t.ImageOrdered :=
  ⟨hi ▸ h.1, fun x hx => by rw [hk]; exact (h.2 x (hi ▸ hx)).trans (Nat.lt_succ_self _)⟩

theorem State.readPage_goes (s : State) : Goes s s.readPage := by
  unfold State.readPage
  split
  · rename_i p _ hp
    have hv := val_of_pageOf hp
    simp only
    split
    · by_cases hk : ∀ n, pageKind p = .ticket n → isEmptySlotPage (s.store.array.get p).data = true
      · have h := (s.reach_goes s.store.loadDue).trans (State.loadGood_goes _ p (s.store.array.get p).data hk)
        have he := (s.reach s.store.loadDue).loadGood_index p (s.store.array.get p).data
        generalize (s.reach s.store.loadDue).loadGood p (s.store.array.get p).data = u at h he
        exact h.trans (.quiet rfl rfl rfl rfl rfl rfl rfl rfl id (.advance rfl (congrArg (· + 1) he.symm)))
      · obtain ⟨n, hn, hd⟩ : ∃ n, pageKind p = .ticket n ∧ ¬ isEmptySlotPage (s.store.array.get p).data = true := by
          simpa using hk
        have e : (s.reach s.store.loadDue).loadGood p (s.store.array.get p).data =
            { s.reach s.store.loadDue with
              store := { s.store with image := s.store.image ++ [(n, (s.store.array.get p).data)] } } := by
          unfold State.loadGood
          rw [hn]
          simp only [hd]
          rfl
        rw [e]
        exact .quiet rfl rfl rfl rfl rfl rfl rfl rfl id fun h =>
          h.gather (hv ▸ (pageKind_ticket hn).symm) rfl rfl
    · have h := (s.reach_goes s.store.loadDue).trans (State.loadDefault_goes _ p)
      have he := (s.reach s.store.loadDue).loadDefault_index p
      generalize (s.reach s.store.loadDue).loadDefault p = u at h he
      exact h.trans (.quiet rfl rfl rfl rfl rfl rfl rfl rfl id (.advance rfl (congrArg (· + 1) he.symm)))
  · exact .refl s

theorem byte_lt (b : Byte) : b.toNat < 256 := b.isLt

theorem page16_lt (d : PageData) (i : Nat) : page16 d i < 65536 := by
  have := byte_lt (pageByte d i)
  have := byte_lt (pageByte d (i + 1))
  unfold page16 be16
  omega

/-- A stored ticket that loads has its number, repeat count and pass count in range (R147). -/
theorem loadTicket_inRange {d : PageData} {t : Ticket} (h : loadTicket d = some t) : t.InRange := by
  unfold loadTicket at h
  simp only [Option.bind_eq_bind, Option.bind_eq_some_iff] at h
  obtain ⟨_, -, _, -, _, -, _, -, _, -, h⟩ := h
  split at h
  · cases h
  · rename_i hn
    cases h
    have := page16_lt d 0
    have := byte_lt (pageByte d 7)
    refine ⟨?_, ?_, ?_, ?_, ?_⟩ <;> simp only [ticketFields] <;> omega

theorem examineSlot_inRange {e : Examined} {x : SlotId × PageData}
    (h : ∀ n t, e.tickets.get n = some t → t.InRange) :
    ∀ n t, (examineSlot e x).tickets.get n = some t → t.InRange := by
  intro n t
  unfold examineSlot
  split
  · exact h n t
  · rename_i u hu
    split
    · exact h n t
    · simp only [Tab.get_set]
      split
      · intro e; cases e; exact loadTicket_inRange hu
      · exact h n t

theorem examine_inRange (image : List (SlotId × PageData)) (dirty : Tab Bool 256) :
    ∀ n t, (examine image dirty).tickets.get n = some t → t.InRange := by
  unfold examine
  suffices ∀ e : Examined, (∀ n t, e.tickets.get n = some t → t.InRange) →
      ∀ n t, (image.foldl examineSlot e).tickets.get n = some t → t.InRange from
    this _ fun n t h => by simp at h
  induction image with
  | nil => exact fun e h => h
  | cons x xs ih => exact fun e h => ih _ (examineSlot_inRange h)

theorem counterAfterLoad_ok (t : Tab (Option Ticket) 256) : CounterOk (counterAfterLoad t) := by
  unfold counterAfterLoad
  simp only
  split
  · exact ⟨le_rfl, by omega⟩
  · exact nextNumber_ok _

theorem State.loadTickets_goes (s : State) : Goes s s.loadTickets := by
  have hg : ∀ n, ((examine s.store.image s.store.dirty).tickets.mapIdx fun n o => o.map (s.withLoadedPair n)).get n
      = ((examine s.store.image s.store.dirty).tickets.get n).map (s.withLoadedPair n) := fun n => by simp
  have h₁ : Moves s { s with
      tickets := (examine s.store.image s.store.dirty).tickets.mapIdx fun n o => o.map (s.withLoadedPair n)
      draws := s.draws + 1
      counter := counterAfterLoad (examine s.store.image s.store.dirty).tickets
      store := { s.store with
        dirty := (examine s.store.image s.store.dirty).dirty, image := []
        bad := { s.store.bad with ticket := s.store.bad.ticket + (examine s.store.image s.store.dirty).discarded } } } := by
    refine .of_move ?_ fun _ => id
    refine .table (k := s.skel) _ _ (fun n t h => ?_) (counterAfterLoad_ok _)
    obtain ⟨x, hx, rfl⟩ := Option.map_eq_some_iff.1 ((hg n).symm.trans h)
    have := examine_inRange _ _ n x hx
    rw [s.withLoadedPair_eq n x]
    exact this
  have hb : s.loadTickets.bus = s.bus := State.bus_congr (by simp only [State.loadTickets])
  have hu : s.loadTickets.mu = s.mu := State.mu_congr (by simp only [State.loadTickets])
  have ht : ∀ n, s.loadTickets.slot n
      = ((tableOf (examine s.store.image s.store.dirty).tickets).slot n).map (s.withLoadedPair n) := hg
  have hp : s.loadTickets.store.phase = s.store.phase := by simp only [State.loadTickets]
  refine ⟨h₁.trans (lines_moves _ _ (fun _ _ => rfl) (fun _ _ => rfl) (fun _ _ => rfl)),
    fun h => h.congr (fun b => by rw [hb]; exact .refl _) (fun u => by rw [hu]; exact ⟨rfl, id⟩) (by rw [hp]; exact id),
    fun h => h.of_context fun u => by rw [hu],
    fun _ _ _ => (examine_apart s.store.image s.store.dirty).of_pairs s.withLoadedPair_eq ht, fun _ l => ?_,
    fun _ => ⟨by simp [State.loadTickets], by simp [State.loadTickets]⟩⟩
  have carries : (∃ n t, s.loadTickets.slot n = some t ∧ t.line = l ∧ t.cls = .hazard ∧ t.state ≠ .cleared)
      ↔ ∃ n t, (tableOf (examine s.store.image s.store.dirty).tickets).slot n = some t ∧ t.line = l ∧ t.cls = .hazard
        ∧ t.state ≠ .cleared := by
    refine exists_congr fun n => ?_
    rw [ht]
    constructor
    · rintro ⟨t, h, h'⟩
      obtain ⟨x, hx, rfl⟩ := Option.map_eq_some_iff.1 h
      rw [s.withLoadedPair_eq n x] at h'
      exact ⟨x, hx, h'⟩
    · rintro ⟨x, hx, h'⟩
      exact ⟨_, Option.map_eq_some_iff.2 ⟨x, hx, rfl⟩, by rw [s.withLoadedPair_eq n x]; exact h'⟩
  unfold State.CarriesHazard
  rw [carries]
  simp only [State.line, State.loadTickets, tableOf, State.slot, Tab.get_mapIdx, Bool.or_eq_true, List.contains_iff_mem,
    mem_hazardLines]
  rfl

/-! ## Exchange -/

theorem State.lapseState_goes (s : State) : Goes s s.lapseState :=
  (s.lapseState_told s.lapseInHand).still (.of_told (s.lapseState_told s.lapseInHand) fun _ => le_max_left _ _)

theorem State.lapseEffects_goes (s : State) (c : LapseCause) : Goes s (s.lapseEffects c) := by
  unfold State.lapseEffects
  simp only
  have h := s.releaseWhere_goes (fun r => r.holder.any Source.automated) .unsupervised
  exact (h.trans (State.pushNotices_goes _ _ _)).trans (State.rederive_goes _)

theorem State.lapse_goes (s : State) (c : LapseCause) : Goes s (s.lapse c) :=
  s.lapseState_goes.trans (State.lapseEffects_goes _ c)

theorem State.settleLapse_goes (s : State) : Goes s s.settleLapse := by
  unfold State.settleLapse
  split
  · refine Goes.trans ?_ (State.lapseEffects_goes _ _)
    exact .quiet rfl rfl rfl rfl rfl rfl rfl rfl id
  · exact .refl s

theorem State.finish_goes (s : State) : Goes s s.finish :=
  ((s.settleLapse_goes.trans (State.accessQuietIfDue_goes _)).trans (State.chooseWrite_goes _)).trans
    (State.drainEndIfDue_goes _)

theorem State.emptyQueue_goes (s : State) (p : Port) : Goes s (s.emptyQueue p) := s.updPort_goes p _ (by simp)

theorem State.resync_goes (s : State) : Goes s s.resync := by
  unfold State.resync
  simp only
  have h : ∀ t, Goes s t → Goes s ((s.blockedLines.foldl (fun u x => u.pushKept .x none (.block x.1 x.2))
      (t.pushKept .x none .resyncBegin)).pushKept .x none .resyncEnd) := fun t ht =>
    ((ht.trans (State.pushKept_goes _ _ _ _)).trans
      (foldl_goes (fun u x => u.pushKept_goes _ _ _) _ _)).trans (State.pushKept_goes _ _ _ _)
  split
  · exact h _ (s.emptyQueue_goes .x)
  · exact h _ (.refl s)

theorem State.startSupervisionTimer_goes (s : State) : Goes s s.startSupervisionTimer :=
  .quiet rfl rfl rfl rfl rfl rfl rfl rfl id

theorem State.restore_goes (s : State) : Goes s s.restore := by
  unfold State.restore
  simp only
  refine Goes.trans ?_ (((((State.resync_goes _).trans (State.pushNotices_goes _ _ _)).trans (State.scan_goes _))).trans
    (State.rederive_goes _))
  exact .quiet rfl rfl rfl rfl rfl rfl rfl rfl id

theorem State.validFrameFromX_goes (s : State) : Goes s s.validFrameFromX := by
  unfold State.validFrameFromX
  split
  · exact .refl s
  · split
    · exact s.startSupervisionTimer_goes
    · exact s.restore_goes

theorem State.frameArrival_goes (s : State) (p : Port) {take : State → State} (h : ∀ t, Goes t (take t)) :
    Goes s (s.frameArrival p take) := by
  unfold State.frameArrival
  split
  · exact s.markLost_goes p
  · split
    · exact s.validFrameFromX_goes.trans (h _)
    · exact h s

theorem State.arrival_goes (s : State) (p : Port) (tag : Byte) (k : OrderKind) {handle : OrderCtx → State → State}
    (h : ∀ c t, t.store.phase = .running → Goes t (handle c t)) : Goes s (s.arrival p tag k handle) := by
  unfold State.arrival
  simp only
  refine s.frameArrival_goes p fun t => ?_
  unfold State.checkedOrder
  split
  · exact t.reply_goes _ _ _
  · split
    · exact t.reply_goes _ _ _
    · rename_i hr
      exact h _ t (by simpa [State.isRunning] using hr)

/-! ## Access orders -/

theorem State.requestBus_goes (s : State) (c : OrderCtx) (q : Request) (hs : q.source ≠ .rs)
    (hp : s.store.phase = .running) :
    Goes s (s.requestBus c q) := by
  unfold State.requestBus
  split
  · exact s.reply_goes _ _ _
  · rename_i ha
    have hd := State.admission_none ha
    split
    · exact s.reply_goes _ _ _
    · split
      · exact s.reply_goes _ _ _
      · split
        · rename_i b u hn
          have ht := s.reply_told c .accepted (.bus b)
          have hn := State.needs_some hn
          refine (s.reply_goes _ _ _).trans (State.grant_goes _ _ _ _ ?_ ?_ (.inl ?_) ?_ ?_)
          · rw [ht.bus]; exact hn.1
          · rw [ht.onBus]; exact hd.1
          · rw [ht.queued]; exact hd.2 rfl
          · rw [ht.store]; exact hp
          · obtain ⟨h₁, v, h₂, h₃⟩ | h := hn.2
            · exact .inl ⟨h₁, v, h₂, by rw [ht.mu]; exact h₃⟩
            · exact .inr h
        · split
          · rename_i hw
            have ht := s.reply_told c .queued .none
            refine (s.reply_goes _ _ _).trans (State.placeWait_goes _ _ hs ?_ ?_ ?_)
            · rw [ht.onBus]; exact hd.1
            · rw [ht.queued]; exact hd.2 rfl
            · rw [ht.waitQueue]; exact hw
          · exact s.reply_goes _ _ _

theorem seizeOrder_goes (c : OrderCtx) (l t : Nat) (pr : Option Nat) (s : State) (hp : s.store.phase = .running) :
    Goes s (seizeOrder c l t pr s) := by
  unfold seizeOrder
  split
  · split
    · exact s.reply_goes _ _ _
    · split
      · exact s.reply_goes _ _ _
      · exact s.requestBus_goes _ _ (by simp) hp
  · exact .refl s
  · exact .refl s

theorem demandTestOrder_goes (c : OrderCtx) (l pr : Nat) (s : State) (hp : s.store.phase = .running) :
    Goes s (demandTestOrder c l pr s) := by
  unfold demandTestOrder
  split
  · exact s.requestBus_goes _ _ (by simp) hp
  · exact s.reply_goes _ _ _
  · exact s.reply_goes _ _ _

theorem State.expireWait_goes (s : State) (e : WaitEntry) (c : WaitCause) : Goes s (s.expireWait e c) :=
  (s.removeWait_goes _).trans (State.toHolder_goes _ _ _ _)

theorem cancelWaitOrder_goes (c : OrderCtx) (l : Nat) (s : State) : Goes s (cancelWaitOrder c l s) := by
  unfold cancelWaitOrder
  split
  · exact s.reply_goes _ _ _
  · split
    · exact (s.reply_goes _ _ _).trans (State.expireWait_goes _ _ _)
    · exact s.reply_goes _ _ _

theorem State.unbindAny_mu (s : State) (u : Option MuId) (v : MuId) :
    (s.unbindAny u).mu v = if u = some v then unbindUnit s.now s.config.standby (s.mu v) else s.mu v := by
  cases u with
  | none => simp [State.unbindAny]
  | some w =>
    simp only [State.unbindAny, State.unbindMu, State.mu_updMu, Option.some.injEq]
    split <;> simp_all

/-- A bus and its unit parted, as a TERMINATE does before it chooses (R35). -/
theorem State.UnitsAgree.parted {s : State} (h : s.UnitsAgree) (b : BusId) (hl : s.Leaves b) :
    ((s.unbindAny (s.bus b).boundMu).updBus b fun r => { r with boundMu := none, termination := .none }).UnitsAgree := by
  cases e : (s.bus b).boundMu with
  | none =>
    refine h.congr (fun c => ?_) (fun _ => ⟨rfl, id⟩) id
    rw [State.bus_updBus]
    split
    · rename_i hbc
      subst hbc
      refine ⟨e.symm, ?_, .rfl, fun h => .inl h⟩
      rw [h.termination, e]; simp
    · exact .refl _
  | some u =>
    refine h.unbind (r := { s.bus b with boundMu := none, termination := .none }) (n := s.now) (d := s.config.standby)
      e (hl u e) (fun c => ?_) (fun v => ?_) rfl (by simp) id
    · rw [State.bus_updBus]; rfl
    · rw [State.updBus_mu, State.unbindAny_mu]
      simp only [Option.some.injEq]
      split
      · subst_vars; rfl
      · rfl

theorem State.newUnit_some {s : State} {t : Termination} {u : MuId} (h : s.newUnit t = some u) :
    t = .mu ∧ ((s.mu u).state = .ready ∨ (s.mu u).state = .standby) := by
  unfold State.newUnit at h
  split at h
  · exact ⟨‹_›, State.freeUnit?_some h⟩
  · cases h

/-- The termination of a HELD bus switched, with a free unit for MU (R35). -/
theorem State.switchTermination_goes (s : State) (b : BusId) (tag : Byte) (t : Termination)
    (h : (s.bus b).state = .held) (hl : s.Leaves b) (hn : t = .mu → (s.unbindAny (s.bus b).boundMu).freeUnit? ≠ none)
    (hp : s.store.phase = .running) : Goes s (s.switchTermination b tag t) := by
  have key : Goes s ((s.unbindAny (s.bus b).boundMu).beginSwitch b tag t) := by
    have hb : (s.unbindAny (s.bus b).boundMu).bus = s.bus := by cases (s.bus b).boundMu <;> rfl
    have tm := s.unbindAny_mu (s.bus b).boundMu
    have hm : Moves s (s.unbindAny (s.bus b).boundMu) := by
      cases (s.bus b).boundMu with
      | none => exact .refl s
      | some u => exact s.updMu_moves _ _
    have hs : (s.unbindAny (s.bus b).boundMu).store = s.store := by cases (s.bus b).boundMu <;> rfl
    have hk : (s.unbindAny (s.bus b).boundMu).tickets = s.tickets ∧ (s.unbindAny (s.bus b).boundMu).lines = s.lines := by
      cases (s.bus b).boundMu <;> exact ⟨rfl, rfl⟩
    have part := fun ha : s.UnitsAgree => ha.parted b hl
    generalize s.unbindAny (s.bus b).boundMu = a at *
    unfold State.beginSwitch
    have hu := fun u => @State.newUnit_some a t u
    have hne : t = .mu → a.newUnit t ≠ none := fun e => by rw [State.newUnit, if_pos e]; exact hn e
    have hne' : t ≠ .mu → a.newUnit t = none := fun e => by rw [State.newUnit, if_neg e]
    generalize a.newUnit t = u at *
    have hm₁ : Moves a (a.bindMu u b) := by
      cases u with
      | none => exact .refl a
      | some u => exact a.updMu_moves _ _
    have hbind : (a.bindMu u b).bus = a.bus ∧ (a.bindMu u b).store = a.store ∧ (a.bindMu u b).tickets = a.tickets
        ∧ (a.bindMu u b).lines = a.lines ∧ (a.bindMu u b).config = a.config := by
      cases u <;> exact ⟨rfl, rfl, rfl, rfl, rfl⟩
    obtain ⟨b₁, b₂, b₃, b₄, -⟩ := hbind
    generalize hd : a.now + ms a.config.switch = due
    refine .of_moves ((hm.trans hm₁).trans (State.updBus_moves _ b _ rfl ?_)) (fun ha => ?_) (fun hc => ?_) ?_ (fun l => ?_)
      (.congr (by rw [State.updBus_store, b₂, hs]) (by rw [State.updBus_store, b₂, hs]))
    · rw [b₁, hb]; simp [switchingBus, h]
    · refine (part ha).bind (b := b) (u := u) (r := switchingBus tag t u due (s.bus b)) (n := a.now)
        (by rw [State.bus_updBus_self]) (fun v hv => ?_)
        (fun c => ?_) (fun v => ?_) rfl ⟨fun e => ?_, fun ⟨v, hv⟩ => (hu v hv).1⟩ ⟨by simp [switchingBus], by simp [switchingBus]⟩ ?_
      · exact (hu v hv).2
      · rw [State.bus_updBus, b₁, hb, State.bus_updBus, hb]
        split <;> rfl
      · rw [State.updBus_mu, State.bindMu_mu, State.updBus_mu]
      · exact Option.ne_none_iff_exists'.1 (hne e)
      · rw [State.updBus_store, b₂, hs, hp]; simp
    · refine hc.of_context fun v => ?_
      rw [State.updBus_mu, State.bindMu_mu, tm]
      split <;> split <;> simp only [bindUnit_context, unbindUnit_context]
    · exact b₃.trans hk.1
    · rw [State.updBus_line, State.line_congr b₄, State.line_congr hk.2]; exact ⟨rfl, rfl⟩
  unfold State.switchTermination
  simp only
  split
  · exact key.trans (State.scanThenTrigger_goes _)
  · exact key

/-- What the checks of a TERMINATE leave (R35). -/
theorem State.terminateCheck_none {s : State} {d : DeskId} {b : BusId} {t : Termination}
    (h : s.terminateCheck d b t = none) :
    (s.bus b).state = .held ∧ (∀ u, (s.bus b).boundMu = some u → (s.mu u).state = .attached)
      ∧ (t = .mu → (s.bus b).boundMu = none → s.freeUnit? ≠ none) := by
  unfold State.terminateCheck at h
  simp only at h
  split at h
  · cases h
  rename_i h₁
  split at h
  · cases h
  rename_i h₂
  split at h
  · cases h
  split at h
  · cases h
  split at h
  · cases h
  rename_i h₃
  refine ⟨by_contra fun e => h₁ (.inl e), fun u hu => ?_, fun e hb hf => h₃ ⟨e, by simp [hb], by simp [hf]⟩⟩
  rw [hu] at h₂
  simpa using h₂

theorem State.freeUnit?_ne_none {s : State} {u : MuId} (h : (s.mu u).state = .ready) : s.freeUnit? ≠ none := by
  unfold State.freeUnit?
  have : ∃ v, (allUnits.find? fun u => (s.mu u).state == MuState.ready) = some v := by
    rw [← Option.isSome_iff_exists, List.find?_isSome]
    exact ⟨u, mem_allUnits u, by simpa using h⟩
  obtain ⟨v, hv⟩ := this
  rw [hv]
  simp

theorem terminateOrder_goes (c : OrderCtx) (b t : Nat) (s : State) (hp : s.store.phase = .running) :
    Goes s (terminateOrder c b t s) := by
  unfold terminateOrder
  split
  · split
    · exact s.reply_goes _ _ _
    · rename_i b _
      split
      · exact s.reply_goes _ _ _
      · split
        · exact s.reply_goes _ _ _
        · split
          · exact s.reply_goes _ _ _
          · rename_i hc
            have ht := s.reply_told c .accepted .none
            obtain ⟨h₁, h₂, h₃⟩ := State.terminateCheck_none hc
            refine (s.reply_goes _ _ _).trans (State.switchTermination_goes _ _ _ _ ?_ (fun u hu => .inl ?_) (fun e => ?_) ?_)
            · rw [ht.bus]; exact h₁
            · rw [ht.mu]; exact h₂ u (by rw [← ht.bus]; exact hu)
            · cases hb : (s.bus b).boundMu with
              | none =>
                rw [ht.bus, hb]
                show State.freeUnit? (s.reply c .accepted) ≠ none
                have e₁ : State.freeUnit? (s.reply c .accepted) = s.freeUnit? := by
                  unfold State.freeUnit?; rw [State.mu_congr ht.units]
                rw [e₁]; exact h₃ e hb
              | some u =>
                refine State.freeUnit?_ne_none (u := u) ?_
                rw [ht.bus, hb, State.unbindAny_mu, if_pos rfl, ht.mu, unbindUnit, h₂ u hb]
            · rw [ht.store]; exact hp
  · exact .refl s
  · exact .refl s

theorem State.onHeldBus_goes (s : State) (c : OrderCtx) (n : Nat) {f : DeskId → BusId → State}
    (h : ∀ d b, Goes s (f d b)) : Goes s (s.onHeldBus c n f) := by
  unfold State.onHeldBus
  split
  · split
    · exact s.reply_goes _ _ _
    · split
      · exact h _ _
      · exact s.reply_goes _ _ _
  · exact .refl s
  · exact .refl s

theorem releaseOrder_goes (c : OrderCtx) (b : Nat) (s : State) : Goes s (releaseOrder c b s) := by
  refine s.onHeldBus_goes c b fun d b => ?_
  split
  · exact s.reply_goes _ _ _
  · exact ((s.reply_goes _ _ _).trans (State.updBus_goes _ b _ rfl (.of_eq rfl rfl rfl))).trans
      (State.releaseDecision_goes _ _ _)

theorem runOn_goes (c : OrderCtx) (b : BusId) (p : ProgId) (ticket : Bool) (s : State) : Goes s (runOn c b p ticket s) := by
  unfold runOn
  simp only
  split
  · exact s.reply_goes _ _ _
  · split
    · exact s.reply_goes _ _ _
    · split
      · exact s.reply_goes _ _ _
      · rename_i u _ hm
        split
        · exact s.reply_goes _ _ _
        · refine (s.reply_goes _ _ _).trans (State.startProgramme_goes _ _ _ _ _ _ ?_)
          rw [(s.reply_told _ _ _).mu]; simpa using hm

theorem runOrder_goes (c : OrderCtx) (b p : Nat) (f : Option Nat) (s : State) : Goes s (runOrder c b p f s) := by
  unfold runOrder
  split
  · exact s.reply_goes _ _ _
  · exact s.onHeldBus_goes _ _ fun _ _ => runOn_goes _ _ _ _ _
  · exact s.onHeldBus_goes _ _ fun _ _ => .refl s

theorem abortOrder_goes (c : OrderCtx) (b : Nat) (s : State) : Goes s (abortOrder c b s) := by
  refine s.onHeldBus_goes c b fun d b => ?_
  split
  · exact s.reply_goes _ _ _
  · split
    · exact (s.reply_goes _ _ _).trans (State.programmeEnds_goes _ _ _)
    · exact s.reply_goes _ _ _

theorem keepOrder_goes (c : OrderCtx) (b : Nat) (s : State) : Goes s (keepOrder c b s) := by
  refine s.onHeldBus_goes c b fun d b => ?_
  simp only
  split
  · exact s.reply_goes _ _ _
  · split
    · exact s.reply_goes _ _ _
    · exact s.reply_goes _ _ _
    · split
      · exact s.reply_goes _ _ _
      · exact ((s.reply_goes _ _ _).trans (State.updBus_goes _ b _ rfl (.of_eq rfl rfl rfl))).trans (State.pushKept_goes _ _ _ _)

/-! ## Exchange orders -/

theorem State.reportCall_goes (s : State) (l : LineId) (st : CallState) : Goes s (s.reportCall l st) := by
  unfold State.reportCall
  simp only
  have h : Goes s (s.updLine l fun r => { r with callState := st }) := s.updLine_goes l _ rfl rfl rfl rfl rfl
  split
  · exact h
  · split
    · exact h.trans (State.scan_goes _)
    · exact h
    · split
      · exact h.trans (State.releaseDecision_goes _ _ _)
      · exact h
    · split
      · exact h.trans (State.releaseDecision_goes _ _ _)
      · exact h

theorem lineStateOrder_goes (c : OrderCtx) (l st : Nat) (s : State) : Goes s (lineStateOrder c l st s) := by
  unfold lineStateOrder
  split
  · exact (s.reply_goes _ _ _).trans (State.reportCall_goes _ _ _)
  · exact s.reply_goes _ _ _
  · exact s.reply_goes _ _ _

theorem lineStateIdleRangeOrder_goes (c : OrderCtx) (a b : Nat) (s : State) :
    Goes s (lineStateIdleRangeOrder c a b s) := by
  unfold lineStateIdleRangeOrder
  split
  · exact s.reply_goes _ _ _
  · simp only
    have h := (s.reply_goes c .accepted .none).trans
      (lines_goes (s.reply c .accepted .none)
        (fun l r => if idleRangeChanges a b l r then { r with callState := .idle } else r)
        (fun l r => by split <;> rfl) (fun l r => by split <;> rfl) (fun l r => by split <;> rfl)
        (fun l r => by split <;> rfl) (fun l r => by split <;> rfl))
    split
    · exact h.trans (State.scan_goes _)
    · exact h

theorem State.oweGranted_goes (s : State) (b : BusId) (tag : Byte) : Goes s (s.oweGranted b tag) :=
  s.updBus_goes b _ rfl (.of_eq rfl rfl rfl)

theorem intrudeOrder_goes (c : OrderCtx) (l : Nat) (s : State) : Goes s (intrudeOrder c l s) := by
  unfold intrudeOrder
  split
  · exact s.reply_goes _ _ _
  · split
    · exact (s.reply_goes _ _ _).trans (State.pushKept_goes _ _ _ _)
    · split
      · unfold intrudeDecided
        split
        · exact (s.reply_goes _ _ _).trans (State.oweGranted_goes _ _ _)
        · exact s.reply_goes _ _ _
        · exact ((s.reply_goes _ _ _).trans (State.pushKept_goes _ _ _ _)).trans (State.oweGranted_goes _ _ _)
      · split
        · unfold intrudeDesk
          split
          · exact ((s.reply_goes _ _ _).trans (State.updBus_goes _ _ _ rfl (.of_eq rfl rfl rfl))).trans (State.pushNotice_goes _ _ _)
          · exact s.reply_goes _ _ _
          · exact ((s.reply_goes _ _ _).trans (State.pushKept_goes _ _ _ _)).trans (State.pushNotice_goes _ _ _)
        · exact ((s.reply_goes _ _ _).trans (State.oweGranted_goes _ _ _)).trans (State.releaseDecision_goes _ _ _)
        · exact ((s.reply_goes _ _ _).trans (State.oweGranted_goes _ _ _)).trans (State.releaseDecision_goes _ _ _)
        · exact s.reply_goes _ _ _

theorem withdrawPending_goes (c : OrderCtx) (b : BusId) (l : LineId) (s : State) :
    Goes s (withdrawPending c b l s) := by
  unfold withdrawPending
  simp only
  have h := ((s.reply_goes c .accepted .none).trans
    (State.updBus_goes _ b (fun x => { x with intrusion := .none, intrudeTag := none }) rfl (.of_eq rfl rfl rfl))).trans
    (State.pushKept_goes _ .x (s.bus b).intrudeTag (.intrudeAnswer .withdrawn))
  split
  · exact h.trans (State.pushNotice_goes _ _ _)
  · exact h

theorem intrudeCancelOrder_goes (c : OrderCtx) (l : Nat) (s : State) : Goes s (intrudeCancelOrder c l s) := by
  unfold intrudeCancelOrder
  split
  · exact s.reply_goes _ _ _
  · split
    · exact s.reply_goes _ _ _
    · split
      · exact withdrawPending_goes _ _ _ _
      · exact (s.reply_goes _ _ _).trans (State.updBus_goes _ _ _ rfl (.of_eq rfl rfl rfl))
      · exact (s.reply_goes _ _ _).trans (State.updBus_goes _ _ _ rfl (.of_eq rfl rfl rfl))
      all_goals exact s.reply_goes _ _ _

/-! ## Queries and ticket orders -/

theorem queryLineOrder_goes (c : OrderCtx) (l : Nat) (s : State) : Goes s (queryLineOrder c l s) := by
  unfold queryLineOrder; split <;> exact s.reply_goes _ _ _

theorem queryBusOrder_goes (c : OrderCtx) (b : Nat) (s : State) : Goes s (queryBusOrder c b s) := by
  unfold queryBusOrder; split <;> exact s.reply_goes _ _ _

theorem queryMuOrder_goes (c : OrderCtx) (u : Nat) (s : State) : Goes s (queryMuOrder c u s) := by
  unfold queryMuOrder; split <;> exact s.reply_goes _ _ _

theorem queryStatusOrder_goes (c : OrderCtx) (s : State) : Goes s (queryStatusOrder c s) := by
  unfold queryStatusOrder State.clearMarker
  exact (s.reply_goes _ _ _).trans (State.updPort_goes _ _ _ (le_max_left _ _))

theorem queryTicketOrder_goes (c : OrderCtx) (q : TicketQuery) (s : State) : Goes s (queryTicketOrder c q s) := by
  unfold queryTicketOrder; split <;> exact s.reply_goes _ _ _

theorem State.replyRetest_goes (s : State) (c : OrderCtx) (n : Nat) : Goes s (s.replyRetest c n) := by
  unfold State.replyRetest; split <;> exact s.reply_goes _ _ _

theorem querySweepOrder_goes (c : OrderCtx) (sel : Nat) (i : Option Nat) (s : State) :
    Goes s (querySweepOrder c sel i s) := by
  unfold querySweepOrder
  split
  · exact s.reply_goes _ _ _
  · split
    · cases i with
      | some n => exact s.replyRetest_goes c n
      | none =>
        refine Goes.trans ?_ (State.replyRetest_goes _ c _)
        exact .quiet rfl rfl rfl rfl rfl rfl rfl rfl id
    · exact s.reply_goes _ _ _

theorem ticketNextOrder_goes (c : OrderCtx) (s : State) : Goes s (ticketNextOrder c s) := s.reply_goes _ _ _

theorem ticketFor_slot {s : State} {p : Port} {n : Nat} {k : SlotId} {t : Ticket} (h : s.ticketFor p n = some (k, t)) :
    s.slot k = some t := by
  unfold State.ticketFor at h
  rw [Option.filter_eq_some_iff] at h
  exact findSlot_slot h.1

theorem State.onTicket_goes (s : State) (c : OrderCtx) (n : Nat) {f : SlotId → Ticket → State}
    (h : ∀ k t, s.slot k = some t → Goes s (f k t)) : Goes s (s.onTicket c n f) := by
  unfold State.onTicket
  split
  · exact s.reply_goes _ _ _
  · exact h _ _ (ticketFor_slot ‹_›)

theorem State.replyTicket_moves (s : State) (c : OrderCtx) (k : SlotId) {t t' : Ticket} (h : s.slot k = some t)
    (hn : t'.number = t.number) (hr : t'.repeats = t.repeats) (hp : t'.passes = t.passes) :
    Moves s (s.replyTicket c k t') :=
  (s.writeSlot_moves k _ fun hs x hx => by
    cases hx
    have := hs.tickets k t h
    unfold Ticket.InRange at *
    rw [hn, hr, hp]; exact this).trans (State.reply_goes _ _ _ _).toMoves

/-- What a ticket keeps of its identity when an order changes it. -/
structure Ticket.Kin (t t' : Ticket) : Prop where
  number : t'.number = t.number
  line : t'.line = t.line
  cls : t'.cls = t.cls
  severity : t'.severity = t.severity
  repeats : t'.repeats = t.repeats
  passes : t'.passes = t.passes
  state : t'.state ≠ .cleared → t.state ≠ .cleared

theorem State.replyTicket_told (s : State) (c : OrderCtx) (k : SlotId) (t : Ticket) :
    Told (s.writeSlot k (some t)) (s.replyTicket c k t) := State.reply_told _ _ _ _

theorem State.replyTicket_slot (s : State) (c : OrderCtx) (k : SlotId) (t : Ticket) (m : SlotId) :
    (s.replyTicket c k t).slot m = if k = m then some t else s.slot m := by
  rw [(s.replyTicket_told c k t).slot, State.slot_writeSlot]

theorem State.replyTicket_line (s : State) (c : OrderCtx) (k : SlotId) (t : Ticket) (l : LineId) :
    ((s.replyTicket c k t).line l).quarantined = (s.line l).quarantined
      ∧ ((s.replyTicket c k t).line l).pendingMask = (s.line l).pendingMask := by
  rcases (s.replyTicket_told c k t).line l with e | e <;> rw [e] <;> simp

/-- A ticket changed by an order, its hazards apart (R138, R139, R144). -/
theorem State.replyTicket_part (s : State) (c : OrderCtx) (k : SlotId) {t t' : Ticket} (h : s.slot k = some t)
    (hk : t.Kin t') : Moves s (s.replyTicket c k t') ∧ (s.UnitsAgree → (s.replyTicket c k t').UnitsAgree)
      ∧ (s.ContextsFit → (s.replyTicket c k t').ContextsFit) ∧ (s.TicketsApart → (s.replyTicket c k t').TicketsApart)
      ∧ (s.ImageOrdered → (s.replyTicket c k t').ImageOrdered) := by
  have ht := s.replyTicket_told c k t'
  refine ⟨s.replyTicket_moves c k h hk.number hk.repeats hk.passes, fun ha => ha.congr (fun b => ?_) (fun u => ?_) ?_,
    fun hc => hc.of_context fun u => ?_, fun ha => ha.changed h (s.replyTicket_slot c k t') hk.number hk.line hk.cls
      hk.state fun e => by rw [hk.severity]; exact e, .congr (by rw [ht.store]; rfl) (by rw [ht.store]; rfl)⟩
  · rw [ht.bus]; exact .refl _
  · rw [ht.mu]; exact ⟨rfl, id⟩
  · rw [ht.store]; exact id
  · rw [ht.mu]; rfl

/-- A ticket changed by an order that leaves it cleared or not cleared (R138, R144). -/
theorem State.replyTicket_goes (s : State) (c : OrderCtx) (k : SlotId) {t t' : Ticket} (h : s.slot k = some t)
    (hk : t.Kin t') (hs : t.state ≠ .cleared → t'.state ≠ .cleared) : Goes s (s.replyTicket c k t') := by
  obtain ⟨h₁, h₂, h₃, h₄, h₆⟩ := s.replyTicket_part c k h hk
  refine ⟨h₁, h₂, h₃, fun _ _ => h₄, fun hq l => ?_, h₆⟩
  have hc : CarriesSame (fun _ => True) s (s.replyTicket c k t') := by
    refine .slot (s.replyTicket_slot c k t') (s.replyTicket_line c k t') fun l _ => ⟨?_, ?_⟩
    · rintro ⟨x, hx, e₁, e₂, e₃⟩
      cases hx
      exact ⟨t, h, hk.line ▸ e₁, hk.cls ▸ e₂, hk.state e₃⟩
    · rintro ⟨x, hx, e₁, e₂, e₃⟩
      rw [h] at hx
      cases hx
      exact ⟨t', rfl, hk.line.trans e₁, hk.cls.trans e₂, hs e₃⟩
  obtain ⟨e₁, e₂⟩ := hc l trivial
  rw [e₁, e₂]; exact hq l

theorem ticketHandOrder_goes (c : OrderCtx) (n a : Nat) (s : State) : Goes s (ticketHandOrder c n a s) := by
  refine s.onTicket_goes c n fun k t h => ?_
  split
  · rename_i ho
    exact (s.replyTicket_goes c k (t' := { t with state := .handed, assignee := some a }) h
      ⟨rfl, rfl, rfl, rfl, rfl, rfl, fun _ => by simp [ho]⟩ fun _ => by simp).trans (State.evaluateAlm_goes _)
  · exact s.reply_goes _ _ _

theorem State.clearNotice_told (s : State) (p : Port) (t : Ticket) : Told s (s.clearNotice p t) := by
  unfold State.clearNotice
  split
  · exact s.ticketNotice_told _
  · exact .refl s

theorem State.clearNotice_goes (s : State) (p : Port) (t : Ticket) : Goes s (s.clearNotice p t) := by
  unfold State.clearNotice
  split
  · exact s.ticketNotice_goes _
  · exact .refl s

theorem ticketClearOrder_goes (c : OrderCtx) (n : Nat) (s : State) : Goes s (ticketClearOrder c n s) := by
  refine s.onTicket_goes c n fun k t h => ?_
  split
  · rename_i hn
    simp only
    have hn : t.state ≠ .cleared := by simpa [Ticket.nonCleared] using hn
    generalize ht : clearedTicket (clearerOf c.port) s.stamp t = t'
    have hk : t.Kin t' := by subst ht; exact ⟨rfl, rfl, rfl, rfl, rfl, rfl, fun h => absurd rfl h⟩
    obtain ⟨h₁, h₂, h₃, h₄, h₆⟩ := s.replyTicket_part c k h hk
    have hcl : ∀ l, (t.cls = .hazard → l ≠ t.line) →
        ((s.replyTicket c k t').line l).quarantined = (s.line l).quarantined
          ∧ ((s.replyTicket c k t').CarriesHazard l ↔ s.CarriesHazard l) := by
      refine CarriesSame.slot (P := fun l => t.cls = .hazard → l ≠ t.line) (s.replyTicket_slot c k t')
        (s.replyTicket_line c k t') fun l hl => iff_of_false ?_ ?_
      · rintro ⟨x, hx, -, -, e₃⟩
        cases hx
        exact e₃ (by subst ht; rfl)
      · rintro ⟨x, hx, e₁, e₂, -⟩
        rw [h] at hx
        cases hx
        exact hl e₂ e₁.symm
    have h₅ : CarriesSame (fun l => t.cls = .hazard → l ≠ t.line) (s.replyTicket c k t')
        ((s.replyTicket c k t').clearNotice c.port t') := .of_told (State.clearNotice_told _ _ _)
    have hg := (s.replyTicket c k t').clearNotice_goes c.port t'
    refine Goes.trans ?_ (State.evaluateAlm_goes _)
    split
    · have he := ((s.replyTicket c k t').clearNotice c.port t').evaluateQuarantine_goes t.line
      refine ⟨(h₁.trans hg.toMoves).trans he.toMoves, he.units ∘ hg.units ∘ h₂, he.contexts ∘ hg.contexts ∘ h₃,
        fun p o a => he.tickets (hg.contexts (h₃ p)) (hg.toMoves.counter (h₁.counter o))
          (hg.tickets (h₃ p) (h₁.counter o) (h₄ a)), fun hq => State.evaluateQuarantine_settles fun l hl => ?_,
        he.image ∘ hg.image ∘ h₆⟩
      obtain ⟨e₁, e₂⟩ := hcl l fun _ => hl
      obtain ⟨e₃, e₄⟩ := h₅ l fun _ => hl
      rw [e₃, e₄, e₁, e₂]; exact hq l
    · rename_i hh
      refine ⟨h₁.trans hg.toMoves, hg.units ∘ h₂, hg.contexts ∘ h₃,
        fun p o a => hg.tickets (h₃ p) (h₁.counter o) (h₄ a), fun hq l => ?_, hg.image ∘ h₆⟩
      obtain ⟨e₁, e₂⟩ := hcl l fun e => absurd e hh
      obtain ⟨e₃, e₄⟩ := h₅ l fun e => absurd e hh
      rw [e₃, e₄, e₁, e₂]; exact hq l
  · exact s.reply_goes _ _ _

/-- A CLEARED ticket's slot emptied (R140). -/
theorem State.writeNone_goes (s : State) (k : SlotId) (t : Ticket) (h : s.slot k = some t) (hc : t.state = .cleared) :
    Goes s (s.writeSlot k none) := by
  refine ⟨s.writeNone_moves k, fun ha => ha.congr (fun _ => .refl _) (fun _ => ⟨rfl, id⟩) id, fun hc => hc.congr rfl,
    fun _ _ ha => ha.sub fun n x hx => ?_, fun hq l => ?_, .congr rfl rfl⟩
  · rw [State.slot_writeSlot] at hx
    split at hx
    · cases hx
    · exact hx
  · have hs : CarriesSame (fun _ => True) s (s.writeSlot k none) :=
      .slot (State.slot_writeSlot _ k · none) (fun _ => ⟨rfl, rfl⟩) fun l _ => iff_of_false (by simp) (by
        rintro ⟨x, hx, -, -, e⟩
        rw [h] at hx
        cases hx
        exact e hc)
    obtain ⟨e₁, e₂⟩ := hs l trivial
    rw [e₁, e₂]; exact hq l

theorem ticketPurgeOrder_goes (c : OrderCtx) (n : Nat) (s : State) : Goes s (ticketPurgeOrder c n s) := by
  refine s.onTicket_goes c n fun k t h => ?_
  split
  · exact (s.writeNone_goes k t h ‹_›).trans (State.reply_goes _ _ _ _)
  · exact s.reply_goes _ _ _

theorem ticketListOrder_goes (c : OrderCtx) (f : Nat) (s : State) : Goes s (ticketListOrder c f s) := by
  unfold ticketListOrder; split <;> exact s.reply_goes _ _ _

theorem ticketNoteOrder_goes (c : OrderCtx) (n x : Nat) (s : State) : Goes s (ticketNoteOrder c n x s) := by
  refine s.onTicket_goes c n fun k t h => ?_
  split
  · refine (s.replyTicket_goes c k (t' := { t with note := some x }) h ⟨rfl, rfl, rfl, rfl, rfl, rfl, id⟩ id).trans ?_
    unfold State.noteNotice
    split
    · exact State.ticketNotice_goes _ _
    · exact .refl _
    · exact .refl _
  · exact s.reply_goes _ _ _

/-! ## Centre orders -/

theorem State.clearRest_goes (s : State) : Goes s s.clearRest := .quiet rfl rfl rfl rfl rfl rfl rfl rfl id

theorem setClockOrder_goes (c : OrderCtx) (d h m x : Nat) (s : State) : Goes s (setClockOrder c d h m x s) := by
  unfold setClockOrder
  split
  · refine (s.reply_goes c .accepted .none).trans ?_
    generalize s.reply c .accepted .none = t
    unfold State.clockSet
    simp only
    refine Goes.trans ?_ (State.rederive_goes _)
    split <;> exact .quiet rfl rfl rfl rfl rfl rfl rfl rfl id
  · exact s.reply_goes _ _ _

theorem State.acceptWrite_goes (s : State) (c : OrderCtx) (p : PageId) (d : PageData) : Goes s (s.acceptWrite c p d) :=
  (s.reply_goes c .accepted .none).trans (.quiet rfl rfl rfl rfl rfl rfl rfl rfl id)

theorem sweepSetOrder_goes (c : OrderCtx) (a b f l p q : Nat) (s : State) : Goes s (sweepSetOrder c a b f l p q s) := by
  unfold sweepSetOrder
  split
  · exact s.reply_goes _ _ _
  · exact s.acceptWrite_goes _ _ _

theorem State.sweepOrder_goes (s : State) (c : OrderCtx) (f : SweepRec → SweepRec) : Goes s (s.sweepOrder c f) := by
  refine Goes.trans ?_ (State.rederive_goes _)
  exact (s.reply_goes c .accepted .none).trans (.quiet rfl rfl rfl rfl rfl rfl rfl rfl id)

theorem settingsWriteOrder_goes (c : OrderCtx) (p : Nat) (d : PageData) (s : State) :
    Goes s (settingsWriteOrder c p d s) := by
  unfold settingsWriteOrder
  split
  · exact s.reply_goes _ _ _
  · split
    · exact s.reply_goes _ _ _
    · split
      · exact s.reply_goes _ _ _
      · exact s.acceptWrite_goes _ _ _

theorem settingsReadOrder_goes (c : OrderCtx) (p : Nat) (s : State) : Goes s (settingsReadOrder c p s) := by
  unfold settingsReadOrder; split <;> exact s.reply_goes _ _ _

theorem restartOrder_goes (c : OrderCtx) (s : State) : Goes s (restartOrder c s) := by
  unfold restartOrder
  refine (s.reply_goes c .accepted .none).trans ?_
  generalize s.reply c .accepted .none = t
  unfold State.takeRestart State.expireAll
  refine Goes.trans ?_ (foldl_goes (fun t e => t.expireWait_goes e .restart) _ _)
  refine Goes.trans ?_ (State.releaseWhere_goes _ _ _)
  exact .quiet rfl rfl rfl rfl rfl rfl rfl rfl (by simp [State.enterRestart])

/-! ## Events -/

theorem State.settleBus_goes (s : State) (b : BusId) (h : (s.bus b).state ≠ .free) : Goes s (s.settleBus b) := by
  unfold State.settleBus
  split
  · exact s.releaseHeld_goes b _ h
  · exact s.updBus_goes b _ rfl ⟨rfl, .rfl, by simpa using h, by simp⟩

theorem State.reportGranted_goes (s : State) (b : BusId) (r : BusRec) (l : LineId) : Goes s (s.reportGranted b r l) :=
  s.toHolder_goes _ _ _

theorem State.operateCompletion_goes (s : State) (b : BusId) : Goes s (s.operateCompletion b) := by
  unfold State.operateCompletion
  simp only
  split
  · rename_i due l hs _ _
    have h₁ := (s.reach_goes due).trans (State.updBus_goes _ b (fun x => { x with relayDue := none }) rfl (.of_eq rfl rfl rfl))
    have h₂ := h₁.trans (State.reportGranted_goes _ b (s.bus b) l)
    exact (h₂.trans (State.settleBus_goes _ b (h₂.stays b (by simp [hs])))).trans (State.startGrantProgramme_goes _ b)
  · exact .refl s

theorem State.switchCompletion_goes (s : State) (b : BusId) : Goes s (s.switchCompletion b) := by
  unfold State.switchCompletion
  simp only
  split
  · rename_i due l hs _ _
    have h₁ : Goes s ((s.reach due).reportTermination b (s.bus b) l) := by
      refine (s.reach_goes due).trans ?_
      unfold State.reportTermination
      split
      · exact State.pushKept_goes _ _ _ _
      · exact .refl _
    have h₂ := h₁.trans (State.updBus_goes _ b (fun x => { x with relayDue := none, terminateTag := none }) rfl (.of_eq rfl rfl rfl))
    have h₃ : Goes s ((((s.reach due).reportTermination b (s.bus b) l).updBus b fun x =>
        { x with relayDue := none, terminateTag := none }).freeTalkPair b) := by
      refine h₂.trans ?_
      unfold State.freeTalkPair
      split
      · exact (State.updBus_goes _ b _ rfl (.of_eq rfl rfl rfl)).trans (State.scan_goes _)
      · exact .refl _
    exact h₃.trans (State.settleBus_goes _ b (h₃.stays b (by simp [hs])))
  · exact .refl s

theorem State.waitDeadline_goes (s : State) (l : LineId) : Goes s (s.waitDeadline l) := by
  unfold State.waitDeadline
  split
  · exact (s.reach_goes _).trans (State.expireWait_goes _ _ _)
  · exact .refl s

theorem State.supervisionExpiry_goes (s : State) : Goes s s.supervisionExpiry := by
  unfold State.supervisionExpiry
  split
  · exact (s.reach_goes _).trans (State.lapse_goes _ _)
  · exact .refl s

theorem State.graceExpiry_goes (s : State) (b : BusId) : Goes s (s.graceExpiry b) := by
  unfold State.graceExpiry
  split
  · exact (s.reach_goes _).trans (State.releaseDecision_goes _ _ _)
  · exact .refl s
  · exact .refl s

theorem State.startBound_goes (s : State) (b : Option BusId) : Goes s (s.startBound b) := by
  unfold State.startBound
  split
  · exact s.startGrantProgramme_goes _
  · exact .refl s

theorem State.drained_goes (s : State) (b : Option BusId) (h : s.UnitsAgree → ∀ c, b = some c → s.Leaves c) :
    Goes s (s.drained b) := by
  unfold State.drained
  split
  · split
    · exact s.enterReleasing_goes _ (by simp [*]) fun ha => h ha _ rfl
    · exact .refl s
  · exact .refl s

theorem State.warmUpEnd_goes (s : State) (u : MuId) : Goes s (s.warmUpEnd u) := by
  unfold State.warmUpEnd
  simp only
  split
  · rename_i hm _
    refine ((s.reach_goes _).trans (State.updMu_goes _ _ _ rfl (fun h => ?_) fun hc x hx => hc u x hx)).trans
      (State.startBound_goes _ _)
    rw [State.reach_mu] at h ⊢
    have h₁ := h.free
    have h₂ := h.measuring
    rw [hm] at h₁ h₂
    exact ⟨by simpa using h₁, by simpa using h₂⟩
  · exact .refl s

theorem State.standbyExpiry_goes (s : State) (u : MuId) : Goes s (s.standbyExpiry u) := by
  unfold State.standbyExpiry
  simp only
  split
  · rename_i hm _
    refine (s.reach_goes _).trans (State.updMu_goes _ _ _ rfl (fun h => ?_) fun hc x hx => hc u x hx)
    rw [State.reach_mu] at h ⊢
    have h₁ := h.free
    have h₂ := h.measuring
    rw [hm] at h₁ h₂
    exact ⟨by simpa using h₁, by simpa using h₂⟩
  · exact .refl s

theorem State.contextIn_some {s : State} {u : MuId} {g : Stage} {c : Context} (h : s.contextIn u g = some c) :
    (s.mu u).state = .measuring ∧ (s.mu u).context = some c := by
  unfold State.contextIn at h
  split at h
  · rw [Option.filter_eq_some_iff] at h
    exact ⟨‹_›, h.1⟩
  · cases h

/-- A context replaced by one in the same phase of the same step. -/
theorem State.putContext_goes (s : State) (u : MuId) {c c' : Context} (h : (s.mu u).state = .measuring)
    (hc : (s.mu u).context = some c) (h₁ : c'.stepIndex = c.stepIndex) (h₂ : c'.phase = c.phase)
    (h₃ : c'.results = c.results) : Goes s (s.putContext u c') := by
  refine s.updMu_goes u _ rfl (fun hf => ⟨hf.free, by simp [h]⟩) fun hf x hx => ?_
  cases hx
  obtain ⟨l, j⟩ := hf u c hc
  exact ⟨by rw [h₁, h₂]; exact l, by rw [h₃]; exact j⟩

theorem State.headSetUpEnd_goes (s : State) (u : MuId) : Goes s (s.headSetUpEnd u) := by
  unfold State.headSetUpEnd
  split
  · obtain ⟨h₁, h₂⟩ := State.contextIn_some ‹_›
    exact (s.reach_goes _).trans (State.putContext_goes _ u h₁ h₂ rfl rfl rfl)
  · exact .refl s

theorem Context.kind_cap {c : Context} (h : c.kind = .cap) : c.stepIndex ≠ 0 := by
  intro e
  simp [Context.kind, Context.step?, e] at h

theorem State.settleEnd_goes (s : State) (u : MuId) (q : Nat) (x : Bool) : Goes s (s.settleEnd u q x) := by
  unfold State.settleEnd
  split
  · obtain ⟨h₁, h₂⟩ := State.contextIn_some ‹_›
    simp only
    split
    · rename_i hk
      refine (s.reach_goes _).trans (State.completeStep_goes _ _ _ _ h₁ (fun hf => hf u _ h₂) fun _ _ hs => ?_)
      simp [stepClass, capResult, Context.kind_cap hk] at hs
    · exact (s.reach_goes _).trans (State.putContext_goes _ u h₁ h₂ rfl rfl rfl)
  · exact .refl s

theorem State.sampleArrival_goes (s : State) (u : MuId) (raw : Int) : Goes s (s.sampleArrival u raw) := by
  unfold State.sampleArrival
  split
  · obtain ⟨h₁, h₂⟩ := State.contextIn_some ‹_›
    simp only
    split
    · refine (s.reach_goes _).trans (State.endPhase_goes _ _ _ h₁ fun hf => ?_)
      obtain ⟨l, j⟩ := hf u _ h₂
      exact ⟨l, j⟩
    · exact (s.reach_goes _).trans (State.putContext_goes _ u h₁ h₂ rfl rfl rfl)
  · exact .refl s

theorem State.dischargeEnd_goes (s : State) (u : MuId) : Goes s (s.dischargeEnd u) := by
  unfold State.dischargeEnd
  simp only
  split
  · rename_i due hm _
    refine ((s.reach_goes _).trans (State.updMu_goes _ _ _ rfl (fun h => ?_) fun hc x hx => hc u x hx)).trans
      (State.drained_goes _ _ fun ha c hc v hv => ?_)
    · rw [State.reach_mu] at h ⊢
      have h₁ := h.free
      have h₂ := h.measuring
      rw [hm] at h₁ h₂
      exact ⟨by simpa using h₁, by simpa using h₂⟩
    · -- the bus of the unit that discharged binds that unit
      have h₁ := (ha.bound c v).1 hv
      have h₂ : (((s.reach due).updMu u fun x => { x with state := .attached, discharge := none, switchPair := none }).bus
          c).boundMu = some u := (ha.bound c u).2 (by rw [State.mu_updMu_self]; exact hc)
      rw [hv] at h₂
      cases h₂
      rw [State.mu_updMu_self]
      exact .inl rfl
  · exact .refl s

theorem State.pacingExpiry_goes (s : State) : Goes s s.pacingExpiry := by
  unfold State.pacingExpiry
  split
  · refine Goes.trans ?_ (State.sweepTrigger_goes _)
    exact .quiet rfl rfl rfl rfl rfl rfl rfl rfl id
  · exact .refl s

theorem State.clockAdvance_goes (s : State) : Goes s s.clockAdvance := by
  unfold State.clockAdvance
  split
  · simp only
    have h : Goes s (if s.clock.next.day = s.clock.day then { s.reach s.clock.secondDue with clock := s.clock.next }
        else State.clearRest { s.reach s.clock.secondDue with clock := s.clock.next }) := by
      split <;> exact .quiet rfl rfl rfl rfl rfl rfl rfl rfl id
    split
    · exact h
    · exact h.trans (State.rederive_goes _)
  · exact .refl s

theorem State.pageWritten_goes (s : State) (w : InFlight) : Goes s (s.pageWritten w) :=
  .quiet rfl rfl rfl rfl rfl rfl rfl rfl id

theorem State.slotWritten_goes (s : State) : Goes s s.slotWritten := by
  unfold State.slotWritten
  split
  · split
    · exact s.pageWritten_goes _
    · exact .refl s
  · exact .refl s

theorem State.pageEffects_goes (s : State) (p : PageId) : Goes s (s.pageEffects p) := by
  unfold State.pageEffects
  split
  · exact (s.scan_goes.trans (State.rederive_goes _)).trans (State.sweepTrigger_goes _)
  · exact (s.clearRest_goes.trans (State.rederive_goes _)).trans (State.sweepTrigger_goes _)
  · exact s.pruneRetest_goes
  · exact s.pruneRetest_goes
  all_goals exact .refl s

theorem State.settingsWritten_goes (s : State) : Goes s s.settingsWritten := by
  unfold State.settingsWritten
  split
  · split
    · exact .refl s
    · rename_i w q _ _ _
      have h : Goes s (((s.pageWritten w).loadShadow w.page w.data).pushKept .m (some q.tag) (.writeDone w.page)) :=
        ((s.pageWritten_goes w).trans (State.loadShadow_goes _ w.page w.data)).trans
          (State.pushKept_goes _ .m (some q.tag) (.writeDone w.page))
      simp only
      refine Goes.trans ?_ (State.pageEffects_goes _ _)
      refine Goes.trans ?_ (State.chooseWrite_goes _)
      refine h.trans ?_
      generalize ((s.pageWritten w).loadShadow w.page w.data).pushKept .m (some q.tag) (.writeDone w.page) = a
      exact .quiet rfl rfl rfl rfl rfl rfl rfl rfl id
  · exact .refl s

theorem State.setUpBlocks_goes (s : State) (h : s.store.phase = .loading) : Goes s s.setUpBlocks := by
  unfold State.setUpBlocks State.setUpSweep
  simp only
  refine Goes.trans (t := { s with alm := s.almDue, units := s.units.map standbyUnit }) ?_ (Goes.trans ?_ (State.rederive_goes _))
  · have e : ∀ u, State.mu { s with alm := s.almDue, units := s.units.map standbyUnit } u = standbyUnit (s.mu u) := fun u => by
      simp [State.mu]
    have eb : State.bus { s with alm := s.almDue, units := s.units.map standbyUnit } = s.bus := State.bus_congr rfl
    refine .of_moves (.of_skel (skel_congr rfl rfl rfl rfl rfl rfl rfl)) (fun ha => ?_)
      (fun hc => hc.of_context fun u => by rw [e]; rfl) rfl fun _ => ⟨rfl, rfl⟩
    have hfree := ha.quiet (.inr h)
    refine ha.congr (fun b => by rw [eb]; exact .refl _) (fun u => ?_) id
    rw [e]
    refine ⟨rfl, fun hf => ?_⟩
    have hn : (s.mu u).bus = none := by
      cases hb : (s.mu u).bus with
      | none => rfl
      | some b =>
        have h₁ := (ha.bound b u).2 hb
        rw [ha.leaving b (.inl (hfree b))] at h₁
        cases h₁
    have hm : ¬ (s.mu u).state = .measuring := fun e => by
      rcases hf.free.1 hn with e' | e' <;> rw [e] at e' <;> cases e'
    exact ⟨by simp [standbyUnit, hn], by simpa [standbyUnit] using mt hf.measuring.1 hm⟩
  · exact .quiet rfl rfl rfl rfl rfl rfl rfl rfl id

theorem State.autoloadCompletion_goes (s : State) : Goes s s.autoloadCompletion := by
  unfold State.autoloadCompletion
  split
  · rename_i hph
    refine s.loadTickets_goes.trans ?_
    have hp : s.loadTickets.store.phase = .loading := by simp only [State.loadTickets]; exact hph.1
    generalize s.loadTickets = a at *
    have h₁ : Goes a a.setUpBlocks := a.setUpBlocks_goes hp
    have h₂ : Goes a.setUpBlocks a.setUpBlocks.startRunning := by
      generalize a.setUpBlocks = b
      unfold State.startRunning
      simp only
      refine Goes.trans ?_ (foldl_goes (fun u p => u.pushKept_goes p none _) allPorts _)
      exact .quiet rfl rfl rfl rfl rfl rfl rfl rfl (by simp)
    refine (h₁.trans h₂).trans ?_
    generalize a.setUpBlocks.startRunning = b
    unfold State.supervisionAtStart
    split
    · simp only
      split
      · refine Goes.trans ?_ (State.lapse_goes _ _)
        exact .quiet rfl rfl rfl rfl rfl rfl rfl rfl id
      · exact .quiet rfl rfl rfl rfl rfl rfl rfl rfl id
    · split
      · exact b.startSupervisionTimer_goes
      · exact .refl b
  · exact .refl s

/-! ## Links -/

theorem State.setAssembly_goes (s : State) (p : Port) (a : Assembly) : Goes s (s.setAssembly p a) :=
  s.updPort_goes p _ (le_max_left _ _)

theorem takeOrder_goes (i : Instr) (s : State) : Goes s (takeOrder i s) := by
  cases i
  case seize => exact s.arrival_goes _ _ _ fun c t hp => seizeOrder_goes _ _ _ _ _ hp
  case demandTest => exact s.arrival_goes _ _ _ fun c t hp => demandTestOrder_goes _ _ _ _ hp
  case cancelWait => exact s.arrival_goes _ _ _ fun c t _ => cancelWaitOrder_goes _ _ _
  case terminate => exact s.arrival_goes _ _ _ fun c t hp => terminateOrder_goes _ _ _ _ hp
  case release => exact s.arrival_goes _ _ _ fun c t _ => releaseOrder_goes _ _ _
  case run => exact s.arrival_goes _ _ _ fun c t _ => runOrder_goes _ _ _ _ _
  case abort => exact s.arrival_goes _ _ _ fun c t _ => abortOrder_goes _ _ _
  case keep => exact s.arrival_goes _ _ _ fun c t _ => keepOrder_goes _ _ _
  case lineState => exact s.arrival_goes _ _ _ fun c t _ => lineStateOrder_goes _ _ _ _
  case lineStateIdleRange p tag a b =>
    exact s.arrival_goes p tag _ (handle := fun c => lineStateIdleRangeOrder c a b) fun c t _ =>
      lineStateIdleRangeOrder_goes c a b t
  case intrude => exact s.arrival_goes _ _ _ fun c t _ => intrudeOrder_goes _ _ _
  case intrudeCancel => exact s.arrival_goes _ _ _ fun c t _ => intrudeCancelOrder_goes _ _ _
  case supervise => exact s.arrival_goes _ _ _ fun c t _ => t.reply_goes _ _ _
  case queryLine => exact s.arrival_goes _ _ _ fun c t _ => queryLineOrder_goes _ _ _
  case queryBus => exact s.arrival_goes _ _ _ fun c t _ => queryBusOrder_goes _ _ _
  case queryMu => exact s.arrival_goes _ _ _ fun c t _ => queryMuOrder_goes _ _ _
  case queryStatus => exact s.arrival_goes _ _ _ fun c t _ => queryStatusOrder_goes _ _
  case ticketNext => exact s.arrival_goes _ _ _ fun c t _ => ticketNextOrder_goes _ _
  case ticketHand => exact s.arrival_goes _ _ _ fun c t _ => ticketHandOrder_goes _ _ _ _
  case ticketClear => exact s.arrival_goes _ _ _ fun c t _ => ticketClearOrder_goes _ _ _
  case ticketPurge => exact s.arrival_goes _ _ _ fun c t _ => ticketPurgeOrder_goes _ _ _
  case queryTicket => exact s.arrival_goes _ _ _ fun c t _ => queryTicketOrder_goes _ _ _
  case ticketList => exact s.arrival_goes _ _ _ fun c t _ => ticketListOrder_goes _ _ _
  case ticketNote => exact s.arrival_goes _ _ _ fun c t _ => ticketNoteOrder_goes _ _ _ _
  case setClock => exact s.arrival_goes _ _ _ fun c t _ => setClockOrder_goes _ _ _ _ _ _
  case sweepSet => exact s.arrival_goes _ _ _ fun c t _ => sweepSetOrder_goes _ _ _ _ _ _ _ _
  case sweepEnable => exact s.arrival_goes _ _ _ fun c t _ => t.sweepOrder_goes _ _
  case sweepDisable => exact s.arrival_goes _ _ _ fun c t _ => t.sweepOrder_goes _ _
  case sweepHold => exact s.arrival_goes _ _ _ fun c t _ => t.sweepOrder_goes _ _
  case sweepResume => exact s.arrival_goes _ _ _ fun c t _ => t.sweepOrder_goes _ _
  case sweepNewPass => exact s.arrival_goes _ _ _ fun c t _ => t.sweepOrder_goes _ _
  case querySweep => exact s.arrival_goes _ _ _ fun c t _ => querySweepOrder_goes _ _ _ _
  case settingsWrite => exact s.arrival_goes _ _ _ fun c t _ => settingsWriteOrder_goes _ _ _ _
  case settingsRead => exact s.arrival_goes _ _ _ fun c t _ => settingsReadOrder_goes _ _ _
  case restart => exact s.arrival_goes _ _ _ fun c t _ => restartOrder_goes _ _
  all_goals exact .refl s

theorem State.takeFrame_goes (s : State) (p : Port) (code tag : Byte) (bs : List Byte) :
    Goes s (s.takeFrame p code tag bs) := by
  unfold State.takeFrame
  split
  · exact takeOrder_goes _ s
  · exact s.frameArrival_goes p fun t => t.reply_goes _ _ _

theorem State.completeFrame_goes (s : State) (p : Port) (bs : List Byte) : Goes s (s.completeFrame p bs) := by
  unfold State.completeFrame
  split
  · split
    · exact s.takeFrame_goes _ _ _ _
    · exact .refl s
  · exact s.pushNotice_goes _ _

theorem State.assemble_goes (s : State) (p : Port) (b : Byte) : Goes s (s.assemble p b) := by
  unfold State.assemble
  split
  · split
    · exact s.setAssembly_goes _ _
    · exact .refl s
  · split
    · exact (s.setAssembly_goes _ _).trans (State.pushNotice_goes _ _ _)
    · exact s.setAssembly_goes _ _
  · simp only
    split
    · exact s.setAssembly_goes _ _
    · exact (s.setAssembly_goes _ _).trans (State.completeFrame_goes _ _ _)

theorem State.receive_goes (s : State) (p : Port) (b : Byte) (x : Bool) : Goes s (s.receive p b x) := by
  unfold State.receive
  split
  · exact .refl s
  · split
    · exact s.assemble_goes _ _
    · exact s.setAssembly_goes _ _

theorem State.resetHoldings_goes (s : State) (src : Source) : Goes s (s.resetHoldings src) :=
  Goes.trans (foldl_goes (fun t _ => t.removeWait_goes _) _ s) (State.releaseWhere_goes _ _ _)

theorem State.portReset_goes (s : State) (p : Port) : Goes s (s.portReset p) := by
  unfold State.portReset
  split
  · exact .refl s
  · simp only
    have h : Goes s (s.updPort p fun _ => resetPortRec) := s.updPort_goes p _ (by simp [resetPortRec])
    split
    · exact h.trans (State.resetHoldings_goes _ _)
    · refine h.trans ?_
      unfold State.resetX
      split
      · split
        · exact State.lapse_goes _ _
        · exact .quiet rfl rfl rfl rfl rfl rfl rfl rfl id
      · exact .refl _
    · exact h.trans (State.resetHoldings_goes _ _)

/-! ## The two commands that free buses -/

/-- A line record taken off its bus and then the bus FREE, with reports between. -/
theorem release_move {s t : State} {l : LineId} {b : BusId} (hb : (s.bus b).state ≠ .free) (hl : (s.bus b).line = some l)
    (hbus : t.buses = s.buses) (hw : t.waitQueue = s.waitQueue)
    (hlines : ∀ k, (t.line k).onBus = ((s.updLine l offBus).line k).onBus
      ∧ (t.line k).blocked = ((s.updLine l offBus).line k).blocked
      ∧ (t.line k).queued = ((s.updLine l offBus).line k).queued)
    (hret : t.retest = s.retest) (htk : t.tickets = s.tickets) (hct : t.counter = s.counter)
    (hq : ∀ p, (t.port p).queue.length ≤ max (s.port p).queue.length 32) :
    Relation.ReflTransGen Move s.skel (t.updBus b fun _ => {}).skel := by
  refine Relation.ReflTransGen.trans
    (.single (Move.release (k := s.skel) l b (by simpa [State.skel] using hb) (by simpa [State.skel] using hl))) ?_
  refine .single ?_
  have e : (t.updBus b fun _ => {}).skel =
      { s.skel with
        onBus := Function.update s.skel.onBus l none, blocked := Function.update s.skel.blocked l false
        isFree := Function.update s.skel.isFree b true, busLine := Function.update s.skel.busLine b none
        qlen := t.skel.qlen } := by
    have e₂ : ∀ c, (t.updBus b fun _ => {}).bus c = if b = c then {} else s.bus c := fun c => by
      rw [State.bus_updBus, State.bus_congr hbus]
    have eo : ∀ k, ((s.updLine l offBus).line k) = if l = k then offBus (s.line l) else s.line k := fun k =>
      State.line_updLine _ _ _ _
    rw [State.skel, Skel.mk.injEq]
    refine ⟨?_, ?_, ?_, ?_, ?_, hw, hret, ?_, hct, rfl⟩
    · funext k
      rw [State.updBus_line, (hlines k).1, eo]
      by_cases h : l = k
      · subst h; simp [offBus]
      · simp [h, Function.update_of_ne (Ne.symm h), State.skel]
    · funext k
      rw [State.updBus_line, (hlines k).2.1, eo]
      by_cases h : l = k
      · subst h; simp [offBus]
      · simp [h, Function.update_of_ne (Ne.symm h), State.skel]
    · funext k
      rw [State.updBus_line, (hlines k).2.2, eo]
      by_cases h : l = k
      · subst h; simp [offBus, State.skel]
      · simp [h, State.skel]
    · funext c
      rw [e₂]
      by_cases h : b = c
      · subst h; simp only [if_true, Function.update_self]; rfl
      · simp [h, Function.update_of_ne (Ne.symm h), State.skel]
    · funext c
      rw [e₂]
      by_cases h : b = c
      · subst h; simp
      · simp [h, Function.update_of_ne (Ne.symm h), State.skel]
    · exact State.slot_congr (s := s) htk
  rw [e]
  exact .queues _ hq

/-- What a RELEASE_COMPLETION has done before its bus becomes FREE: reports and the sweep's own record. -/
structure Quiet (s t : State) : Prop where
  buses : t.buses = s.buses
  waitQueue : t.waitQueue = s.waitQueue
  retest : t.retest = s.retest
  tickets : t.tickets = s.tickets
  counter : t.counter = s.counter
  lines : ∀ k, (t.line k).onBus = (s.line k).onBus ∧ (t.line k).blocked = (s.line k).blocked
    ∧ (t.line k).queued = (s.line k).queued
  units : t.units = s.units
  phase : t.store.phase = s.store.phase
  gathered : t.store.image = s.store.image ∧ t.store.loadIndex = s.store.loadIndex
  marks : ∀ k, (t.line k).quarantined = (s.line k).quarantined ∧ (t.line k).pendingMask = (s.line k).pendingMask
  qlen : ∀ p, (t.port p).queue.length ≤ max (s.port p).queue.length 32

theorem Quiet.trans {s t u : State} (a : Quiet s t) (b : Quiet t u) : Quiet s u where
  buses := b.buses.trans a.buses
  waitQueue := b.waitQueue.trans a.waitQueue
  retest := b.retest.trans a.retest
  tickets := b.tickets.trans a.tickets
  counter := b.counter.trans a.counter
  lines := fun k => ⟨(b.lines k).1.trans (a.lines k).1, (b.lines k).2.1.trans (a.lines k).2.1,
    (b.lines k).2.2.trans (a.lines k).2.2⟩
  units := b.units.trans a.units
  phase := b.phase.trans a.phase
  gathered := ⟨b.gathered.1.trans a.gathered.1, b.gathered.2.trans a.gathered.2⟩
  marks := fun k => ⟨(b.marks k).1.trans (a.marks k).1, (b.marks k).2.trans (a.marks k).2⟩
  qlen := fun p => by
    have h₁ := a.qlen p
    have h₂ := b.qlen p
    omega

theorem Quiet.refl (s : State) : Quiet s s :=
  ⟨rfl, rfl, rfl, rfl, rfl, fun _ => ⟨rfl, rfl, rfl⟩, rfl, rfl, ⟨rfl, rfl⟩, fun _ => ⟨rfl, rfl⟩,
    fun _ => le_max_left _ _⟩

theorem Quiet.of_same {s t : State} (h₁ : t.lines = s.lines) (h₂ : t.buses = s.buses) (h₃ : t.waitQueue = s.waitQueue)
    (h₄ : t.retest = s.retest) (h₅ : t.tickets = s.tickets) (h₆ : t.counter = s.counter) (h₇ : t.ports = s.ports)
    (h₈ : t.units = s.units) (h₉ : t.store.phase = s.store.phase)
    (hg : t.store.image = s.store.image ∧ t.store.loadIndex = s.store.loadIndex := by exact ⟨rfl, rfl⟩) : Quiet s t :=
  ⟨h₂, h₃, h₄, h₅, h₆, fun k => by rw [State.line_congr h₁]; exact ⟨rfl, rfl, rfl⟩, h₈, h₉, hg,
    fun k => by rw [State.line_congr h₁]; exact ⟨rfl, rfl⟩,
    fun p => by rw [State.port_congr h₇]; exact le_max_left _ _⟩

theorem Told.quiet {s t : State} (h : Told s t) (hq : ∀ p, (t.port p).queue.length ≤ max (s.port p).queue.length 32) :
    Quiet s t :=
  ⟨h.buses, h.waitQueue, h.retest, h.tickets, h.counter, fun k => ⟨h.onBus k, h.blocked k, h.queued k⟩, h.units,
    by rw [h.store], by rw [h.store]; exact ⟨rfl, rfl⟩, fun k => by rcases h.line k with e | e <;> simp [e], hq⟩

theorem State.enqueue_qlen (s : State) (p q : Port) (tag : Option Byte) (body : ReportBody) (h : s.freeEntries p ≠ 0) :
    ((s.enqueue p tag body).port q).queue.length ≤ max (s.port q).queue.length 32 := by
  simp only [State.freeEntries, queueCapacity] at h
  rw [State.enqueue, State.port_updPort]
  split
  · subst_vars
    simp only [List.length_append, List.length_cons, List.length_nil]
    omega
  · exact le_max_left _ _

theorem State.overflowX_ports (s : State) : s.overflowX.ports = s.ports := by
  unfold State.overflowX
  split
  · split <;> rfl
  · rfl

theorem State.pushKept_quiet (s : State) (p : Port) (tag : Option Byte) (body : ReportBody) :
    Quiet s (s.pushKept p tag body) := by
  refine (s.pushKept_told p tag body).quiet fun q => ?_
  unfold State.pushKept
  split
  · have h : (((s.emptyQueue p).enqueue p tag body).port q).queue.length ≤ max (s.port q).queue.length 32 := by
      refine ((s.emptyQueue p).enqueue_qlen p q tag body (by simp [State.freeEntries_emptyQueue])).trans ?_
      rw [State.emptyQueue, State.port_updPort]
      split
      · simp
      · exact le_rfl
    simp only
    split
    · rw [State.port_congr (State.overflowX_ports _)]; exact h
    · exact h
  · exact s.enqueue_qlen p q tag body ‹_›

theorem State.pushNotice_quiet (s : State) (p : Port) (body : ReportBody) : Quiet s (s.pushNotice p body) := by
  refine (s.pushNotice_told p body).quiet fun q => ?_
  unfold State.pushNotice
  split
  · rw [State.markLost, State.port_updPort]
    split
    · subst_vars; exact le_max_left _ _
    · exact le_max_left _ _
  · exact s.enqueue_qlen p q none body (by simp only [noticeReserve] at *; omega)

theorem State.passEndIfDue_quiet (s : State) : Quiet s s.passEndIfDue := by
  unfold State.passEndIfDue
  split
  · exact (s.pushNotice_quiet _ _).trans (.of_same rfl rfl rfl rfl rfl rfl rfl rfl rfl)
  · exact .refl s

theorem State.reportReleased_quiet (s : State) (b : BusId) (r : BusRec) (l : LineId) :
    Quiet s (s.reportReleased b r l) := by
  unfold State.reportReleased
  split
  · refine Quiet.trans ?_ (State.passEndIfDue_quiet _)
    exact .of_same rfl rfl rfl rfl rfl rfl rfl rfl rfl
  · unfold State.toHolder
    split
    · exact s.pushKept_quiet _ _ _
    · exact .refl s

theorem State.settleIntrusion_quiet (s : State) (r : BusRec) : Quiet s (s.settleIntrusion r) := by
  unfold State.settleIntrusion
  split
  · exact s.pushKept_quiet _ _ _
  · exact .refl s

/-- Any number of moves, and the laws that hold between events. -/
structure Kept (s t : State) : Prop where
  moves : Relation.ReflTransGen Move s.skel t.skel
  units : s.UnitsAgree → t.UnitsAgree
  contexts : s.ContextsFit → t.ContextsFit
  tickets : s.ContextsFit → CounterOk s.counter → s.TicketsApart → t.TicketsApart
  quarantine : s.QuarantineAgrees → t.QuarantineAgrees
  image : s.ImageOrdered → t.ImageOrdered

theorem Goes.kept {s t : State} (h : Goes s t) : Kept s t :=
  ⟨h.moves, h.units, h.contexts, h.tickets, h.quarantine, h.image⟩

theorem Kept.trans {s t u : State} (a : Kept s t) (b : Kept t u) : Kept s u :=
  ⟨a.moves.trans b.moves, b.units ∘ a.units, b.contexts ∘ a.contexts,
    fun p c h => b.tickets (a.contexts p) (moves_counter (j := s.skel) (k := t.skel) a.moves c) (a.tickets p c h),
    b.quarantine ∘ a.quarantine, b.image ∘ a.image⟩

/-- A RELEASING bus FREE (R41): it had no unit. -/
theorem State.UnitsAgree.freed {s t : State} (h : s.UnitsAgree) {b : BusId} (hb : (s.bus b).state = .releasing)
    (tb : ∀ c, t.bus c = if b = c then {} else s.bus c) (tm : t.mu = s.mu)
    (hp : t.store.phase = s.store.phase) : t.UnitsAgree := by
  have hn := h.leaving b (.inr hb)
  refine ⟨fun c u => ?_, fun c => ?_, fun u => tm ▸ h.free u, fun u => tm ▸ h.measuring u, fun c hc => ?_, fun hs c => ?_⟩
  · rw [tb, tm]
    split
    · rename_i e; subst e; rw [← h.bound, hn]
    · exact h.bound c u
  · rw [tb]
    split
    · simp
    · exact h.termination c
  · rw [tb] at hc ⊢
    split
    · rfl
    · rename_i e; rw [if_neg e] at hc; exact h.leaving c hc
  · rw [tb]
    split
    · rfl
    · rw [hp] at hs; exact h.quiet hs c

theorem State.releaseCompletion_kept (s : State) (b : BusId) : Kept s (s.releaseCompletion b) := by
  unfold State.releaseCompletion
  simp only
  split
  · rename_i due l hs _ hl
    refine Kept.trans ?_ (State.scanThenTrigger_goes _).kept
    have h := (((((s.reach due).updLine l offBus).pushKept_quiet .x none (.unblock l b)).trans
      (State.settleIntrusion_quiet _ (s.bus b))).trans (State.reportReleased_quiet _ b (s.bus b) l))
    refine (s.reach_goes due).kept.trans ?_
    have hm := release_move (s := s.reach due) (l := l) (b := b) (by simp [hs]) (by simpa using hl) h.buses h.waitQueue h.lines h.retest
      h.tickets h.counter h.qlen
    generalize State.reportReleased _ b (s.bus b) l = a at *
    have hq : ∀ k, (((s.reach due).updLine l offBus).line k).quarantined = ((s.reach due).line k).quarantined
        ∧ (((s.reach due).updLine l offBus).line k).pendingMask = ((s.reach due).line k).pendingMask := fun k => by
      rw [State.line_updLine]
      split
      · subst_vars; exact ⟨rfl, rfl⟩
      · exact ⟨rfl, rfl⟩
    refine ⟨hm, fun ha => ?_, fun hc => hc.congr h.units, fun _ _ ht => ht.congr (State.slot_congr h.tickets), fun ha k => ?_,
      .congr h.gathered.1 h.gathered.2⟩
    · refine ha.freed (b := b) (by simpa using hs) (fun c => ?_) ?_ h.phase
      · rw [State.bus_updBus, State.bus_congr h.buses]; rfl
      · exact State.mu_congr h.units
    · have e₁ := h.marks k
      have e₂ := hq k
      have e₃ : State.CarriesHazard (a.updBus b fun _ => {}) k ↔ (s.reach due).CarriesHazard k :=
        State.CarriesHazard.congr (State.slot_congr h.tickets) (e₁.2.trans e₂.2)
      rw [e₃]
      refine Iff.trans ?_ (ha k)
      rw [State.updBus_line, e₁.1, e₂.1]
  · exact (Goes.refl s).kept

theorem State.afterPor_kept (s : State) (c : CutPage) : Kept s (s.afterPor c) := by
  have hs : (s.afterPor c).skel = State.reset.skel := skel_congr rfl rfl rfl rfl rfl rfl rfl
  have hb : ∀ b, (s.afterPor c).bus b = {} := fun b => by simp [State.bus, State.afterPor, State.reset]
  have hu : ∀ u, (s.afterPor c).mu u = {} := fun u => by simp [State.mu, State.afterPor, State.reset]
  have ht : ∀ n, (s.afterPor c).slot n = none := fun n => by simp [State.slot, State.afterPor, State.reset]
  have hl : ∀ l, (s.afterPor c).line l = {} := fun l => by simp [State.line, State.afterPor, State.reset]
  refine ⟨.single (hs ▸ .por), fun _ => ⟨?_, ?_, ?_, ?_, ?_, ?_⟩, fun _ u x hx => ?_, fun _ _ _ => ⟨?_, ?_, ?_⟩, fun _ l => ?_,
    fun _ => ⟨.nil, fun x hx => by cases hx⟩⟩
  case refine_7 => rw [hu] at hx; cases hx
  all_goals simp_all [State.CarriesHazard]

/-- What every command does to what the laws speak of. -/
theorem exec_kept {i : Instr} {s t : State} (h : exec i s = .next t) : Kept s t := by
  have key : ∀ {i s t}, (exec i s = .next (takeOrder i s).finish) → exec i s = .next t → Kept s t := fun h₁ h₂ => by
    rw [h₁] at h₂
    cases h₂
    exact ((takeOrder_goes _ _).trans (State.finish_goes _)).kept
  have ev : ∀ {i : Instr} {s t u : State}, exec i s = .next u.finish → Goes s u → exec i s = .next t → Kept s t :=
    fun h₁ hg h₂ => by
      rw [h₁] at h₂
      cases h₂
      exact (hg.trans (State.finish_goes _)).kept
  cases i
  case por c =>
    cases h
    exact s.afterPor_kept c
  case byteReceived p b x => exact ev rfl (s.receive_goes p b x) h
  case interByteGap p => cases h; exact (s.setAssembly_goes p _).kept
  case portReset p => exact ev rfl (s.portReset_goes p) h
  case reportSent p =>
    cases h
    exact (s.updPort_goes p _ (by simp only [List.length_tail]; omega)).kept
  case returnToMark p => cases h; exact (s.updPort_goes p _ (le_max_left _ _)).kept
  case operateCompletion b => exact ev rfl (s.operateCompletion_goes b) h
  case switchCompletion b => exact ev rfl (s.switchCompletion_goes b) h
  case releaseCompletion b =>
    cases h
    exact (s.releaseCompletion_kept b).trans (State.finish_goes _).kept
  case waitDeadlineExpiry l => exact ev rfl (s.waitDeadline_goes l) h
  case supervisionTimerExpiry => exact ev rfl s.supervisionExpiry_goes h
  case graceExpiry b => exact ev rfl (s.graceExpiry_goes b) h
  case warmUpEnd u => exact ev rfl (s.warmUpEnd_goes u) h
  case standbyDelayExpiry u => cases h; exact (s.standbyExpiry_goes u).kept
  case headSetUpEnd u => cases h; exact (s.headSetUpEnd_goes u).kept
  case settleEnd u q x => exact ev rfl (s.settleEnd_goes u q x) h
  case sampleArrival u r => exact ev rfl (s.sampleArrival_goes u r) h
  case dischargeEnd u => exact ev rfl (s.dischargeEnd_goes u) h
  case pacingTimerExpiry => exact ev rfl s.pacingExpiry_goes h
  case passEnd => exact ev rfl s.passEndIfDue_goes h
  case clockAdvance => exact ev rfl s.clockAdvance_goes h
  case slotWriteCompletion => exact ev rfl s.slotWritten_goes h
  case settingsWriteCompletion => exact ev rfl s.settingsWritten_goes h
  case accessQuiet => exact ev rfl s.accessQuietIfDue_goes h
  case drainEnd => exact ev rfl s.drainEndIfDue_goes h
  case autoloadPageRead => cases h; exact s.readPage_goes.kept
  case autoloadCompletion => exact ev rfl s.autoloadCompletion_goes h
  all_goals exact key rfl h

/-- Every command's effect is made of moves. -/
theorem exec_moves {i : Instr} {s t : State} (h : exec i s = .next t) : Relation.ReflTransGen Move s.skel t.skel :=
  (exec_kept h).moves

/-- What every step does to what the laws speak of. -/
theorem step_kept {s t : State} (h : step s = .next t) : Kept s t := by
  unfold step at h
  split at h
  · cases h
    exact (Goes.quiet (s := s) (t := s.idle) rfl rfl rfl rfl rfl rfl rfl rfl id).kept
  · rename_i c rest _
    exact (Goes.quiet (s := s) (t := { s with pending := rest }) rfl rfl rfl rfl rfl rfl rfl rfl id).kept.trans (exec_kept h)

/-- Every step is made of moves. -/
theorem step_moves {s t : State} (h : step s = .next t) : Relation.ReflTransGen Move s.skel t.skel := (step_kept h).moves

end Sys2Proof.Machine
end

