-- ==== Sys2Proof/Laws/Releases.lean ====
section
/-!
SUPPORT. An operation is what the claims' words say of it: quarantine, the classes of an outcome and ALM (R118, R120, R146),
a programme's end (R85, R86), a release decision (R37, R38, R40), a lapse and a restoration (R51, R52), and the end of waits
(R34).
-/

set_option Elab.async false

namespace Sys2Proof.Machine

/-! ## The outcome of a programme (R118, R120, R146) -/

theorem State.QuarantineSettles.eq {s t : State} {l : LineId} (h : s.QuarantineSettles l t) : s.evaluateQuarantine l = t := by
  have key := quarantineDue_iff s l
  unfold State.evaluateQuarantine
  cases h with
  | stands h =>
    rw [if_pos]
    rw [Bool.eq_iff_iff, key, ← h]
  | sets h₁ h₂ => simp only [key.2 h₂, h₁]; rfl
  | lifts t h₁ h₂ h₃ =>
    have hq : s.quarantineDue l = false := by rw [← Bool.not_eq_true, key]; exact h₂
    simp only [hq, h₁]
    exact h₃.eq

theorem State.AfterClass.eq {s t : State} {c : FaultClass} {l : LineId} (h : s.AfterClass c l t) :
    (if c = .hazard then s.evaluateQuarantine l else s) = t := by
  rcases h with ⟨h, h'⟩ | ⟨h, rfl⟩
  · rw [if_pos h, h'.eq]
  · rw [if_neg h]

theorem State.ClassTaken.eq {s t : State} {o : OutcomeIn} {c : FaultClass} (h : s.ClassTaken o c t) : s.applyClass o c = t := by
  unfold State.applyClass
  cases h with
  | failed f t h₁ h₂ => rw [h₁]; exact h₂.eq
  | passed t h₁ h₂ h₃ => rw [h₁]; simp only; rw [if_pos h₂]; exact h₃.eq
  | untouched h₁ h₂ => rw [h₁]; simp [h₂]

theorem ClassesTaken.eq {o : OutcomeIn} {cs : List FaultClass} {s t : State} (h : ClassesTaken o cs s t) :
    cs.foldl (fun t c => t.applyClass o c) s = t := by
  induction h with
  | ends => rfl
  | takes c cs s t u h _ ih => rw [List.foldl_cons, h.eq, ih]

theorem findSlot_isSome {s : State} {p : Ticket → Bool} :
    (s.findSlot p).isSome = true ↔ ∃ n t, s.slot n = some t ∧ p t = true := by
  constructor
  · intro h
    obtain ⟨⟨n, t⟩, hx⟩ := Option.isSome_iff_exists.1 h
    exact ⟨n, t, findSlot_some hx⟩
  · rintro ⟨n, t, h₁, h₂⟩
    cases h : s.findSlot p with
    | some x => rfl
    | none => rw [findSlot_eq_none h n t h₁] at h₂; cases h₂

theorem Tab.mem_items {α : Type} {n : Nat} (t : Tab α n) (a : α) : a ∈ t.items ↔ ∃ i, t.get i = a := by
  constructor
  · intro h
    obtain ⟨i, hi, rfl⟩ := List.mem_iff_getElem.1 h
    exact ⟨⟨i, by rw [t.size_eq] at hi; exact hi⟩, by rw [Tab.get_eq]⟩
  · rintro ⟨i, rfl⟩
    rw [Tab.get_eq]; exact List.getElem_mem _

/-- ALM is due exactly on the conditions of R146. -/
theorem State.almDue_iff {s : State} : s.almDue = true ↔ s.Alarmed := by
  unfold State.almDue State.Alarmed
  rw [Bool.or_eq_true, findSlot_isSome, List.any_eq_true]
  simp only [Ticket.alarms, Bool.and_eq_true, beq_iff_eq]
  refine or_congr Iff.rfl ?_
  constructor
  · rintro ⟨r, hr, h⟩
    obtain ⟨l, rfl⟩ := (Tab.mem_items _ _).1 hr
    exact ⟨l, h⟩
  · rintro ⟨l, h⟩
    exact ⟨s.line l, (Tab.mem_items _ _).2 ⟨l, rfl⟩, h⟩

theorem State.evaluateAlm_running {s : State} {a : Bool} (hr : s.store.phase = .running) (h : a = true ↔ s.Alarmed) :
    s.evaluateAlm = { s with alm := a } := by
  have : s.almDue = a := by rw [Bool.eq_iff_iff, State.almDue_iff, h]
  unfold State.evaluateAlm
  rw [if_pos (by simp [State.isRunning, hr]), this]

theorem State.OutcomeTaken.eq {s t : State} {o : OutcomeIn} (h : s.OutcomeTaken o t) : s.applyOutcome o = t := by
  obtain ⟨u, h₁, h₂⟩ := h
  unfold State.applyOutcome
  have : FaultClass.all.foldl (fun t c => t.applyClass o c) s = u := h₁.eq
  rw [this]
  rcases h₂ with ⟨hp, rfl⟩ | ⟨hp, a, ha, rfl⟩
  · unfold State.evaluateAlm
    rw [if_neg (by simpa [State.isRunning] using hp)]
  · exact State.evaluateAlm_running hp ha

/-! ## The end of a programme (R85, R86) -/

/-- A kept report to a holder with room for it. -/
theorem State.toHolder_eq {s : State} {src : Source} {tag : HolderTag} {body : Port → ReportBody} (h : s.HolderRoom src) :
    s.toHolder (some src) (some tag) body = s.tellHolder src tag.order? body := by
  unfold State.toHolder State.tellHolder
  simp only [Option.bind_some]
  cases hp : src.port? with
  | none => rfl
  | some p => simp only; rw [State.pushKept_of_room (by have := h p hp; omega)]

theorem endedUnit_eq (now d : Nat) (c : Context) : endedUnit now d c = unitAtEnd now d c := by
  funext m; unfold endedUnit unitAtEnd; split <;> simp [ms, Nat.mul_comm]

/-- A programme's end does what the claims say (R85, R86, R118). -/
theorem State.ProgrammeEnds.eq {s t : State} {u : MuId} {c : Context} {cause : EndCause} (h : s.ProgrammeEnds u c cause t)
    (hc : (s.mu u).context = some c) : s.endProgramme u cause = t := by
  obtain ⟨told, h₁, h₂⟩ := h
  have key : (s.updMu u (endedUnit s.now s.config.discharge c)).reportEnd c cause c.endResults = told := by
    rw [endedUnit_eq]
    unfold State.reportEnd
    rcases h₁ with ⟨hr, hroom, rfl⟩ | ⟨hr, rfl⟩
    · rw [if_neg hr, State.toHolder_eq (by exact hroom)]
      unfold State.ended stepsDone stepsRemaining
      simp only [List.countP_eq_length_filter]
      rfl
    · rw [if_pos hr]
      unfold State.sweepTestEnded State.faultCounted
      simp only [Bool.or_eq_true, beq_iff_eq, or_assoc]
      rfl
  unfold State.endProgramme
  rw [hc]
  simp only
  rw [key]
  rcases h₂ with ⟨ht, rfl⟩ | ⟨ht, h₂⟩
  · simp [ht]
  · rw [if_pos ht]; exact h₂.eq

/-! ## Release decisions (R37, R38, R40) -/

theorem decideRelease_eq (c : Cause) (r : BusRec) : decideRelease c r = pendingRecord c r := by
  obtain ⟨_, _, _, _, _, _, _, _, _, _, _, i, _, _, _, _⟩ := r
  cases i <;> rfl

theorem heldDecided_eq {c : Cause} {r : BusRec} (h : r.state = .held) : heldDecided c r = decidedRecord c r := by
  unfold heldDecided decidedRecord
  rw [decideRelease_eq]
  unfold pendingRecord intrusionOwed
  cases r.intrusion <;> simp [h]

theorem releasingBus_eq (now d : Nat) (c : Cause) (r : BusRec) :
    releasingBus (now + ms d) (heldDecided c r) = releasingRecord (now + 10 * d) c r := by
  unfold releasingBus heldDecided releasingRecord
  rw [decideRelease_eq, ms, Nat.mul_comm]
  unfold pendingRecord
  rfl

theorem drainingBus_eq (c : Cause) (r : BusRec) :
    { heldDecided c r with state := .draining, relayDue := none } = drainingRecord c r := by
  unfold heldDecided drainingRecord
  rw [decideRelease_eq]
  unfold pendingRecord
  rfl

theorem unbindUnit_eq {m : MuRec} (now d : Nat) (h : m.state = .attached ∨ m.state = .warming) :
    unbindUnit now d m = unboundUnit now d m := by
  unfold unbindUnit unboundUnit freedUnit
  rcases h with h | h <;> rw [h] <;> simp [seconds]
  split <;> simp [*]; omega

theorem unbindUnit_attached {m : MuRec} (now d : Nat) (h : m.state = .attached) : unbindUnit now d m = freedUnit now d m := by
  rw [unbindUnit_eq now d (.inl h)]; simp [unboundUnit, h]

theorem matchingEnd_eq {c : Cause} {e : EndCause} (h : matchingEnd c = some e) : c.endCause = e := by
  cases c <;> simp [matchingEnd] at h <;> subst h <;> rfl

theorem intrusionOwed_boundMu (r : BusRec) : (intrusionOwed r).boundMu = r.boundMu := by
  unfold intrusionOwed; split <;> rfl

theorem heldDecided_boundMu (c : Cause) (r : BusRec) : (heldDecided c r).boundMu = r.boundMu := by
  unfold heldDecided
  rw [decideRelease_eq]
  exact intrusionOwed_boundMu r

/-- A HELD bus with a unit ATTACHED or WARMING, or with none, given back, up to the scan and the notice to RSS. -/
theorem State.releaseHeld_gives {s : State} {b : BusId} {c : Cause} {u : MuId} (hu : (s.bus b).boundMu = some u)
    (hm : (s.mu u).state = .attached ∨ (s.mu u).state = .warming) :
    s.releaseHeld b c = (s.givenBack b c).scanThenTrigger := by
  unfold State.releaseHeld State.givenBack
  rw [hu]
  simp only [State.updUnit]
  have h₁ : (s.updBus b (heldDecided c)).endIfMeasuring u c = s.updBus b (heldDecided c) := by
    unfold State.endIfMeasuring
    rw [if_neg]
    show (s.mu u).state ≠ _
    rcases hm with h | h <;> simp [h]
  rw [h₁]
  unfold State.drainOrRelease
  rw [if_neg (by show (s.mu u).state ≠ _; rcases hm with h | h <;> simp [h])]
  unfold State.enterReleasing
  rw [State.bus_updBus_self, heldDecided_boundMu, hu]
  simp only [State.updBus_updBus]
  congr 1
  have h₂ : (s.updBus b fun r => releasingBus
      ((s.updBus b (heldDecided c)).now + ms (s.updBus b (heldDecided c)).config.release) (heldDecided c r))
        = s.updBus b (releasingRecord (s.now + 10 * s.config.release) c) :=
    State.updBus_congr _ _ _ _ (releasingBus_eq _ _ _ _)
  rw [h₂]
  unfold State.unbindMu
  exact State.updMu_congr _ u _ (unboundUnit s.now s.config.standby) (unbindUnit_eq _ _ hm)

theorem State.releaseHeld_unitless {s : State} {b : BusId} {c : Cause} (hu : (s.bus b).boundMu = none) :
    s.releaseHeld b c = s.givenBack b c := by
  unfold State.releaseHeld State.givenBack
  rw [hu]
  simp only [State.updUnit, State.enterReleasing]
  rw [State.bus_updBus_self, heldDecided_boundMu, hu]
  simp only [State.updBus_updBus]
  exact State.updBus_congr _ _ _ _ (releasingBus_eq _ _ _ _)

/-- A bus that is given back at once, nobody waiting (R38, R40). -/
theorem State.GivesBack.eq {s : State} {b : BusId} {c : Cause} (h : s.GivesBack b) : s.releaseHeld b c = s.givenBack b c := by
  rcases h with h | ⟨hun, u, hu, hm⟩
  · exact State.releaseHeld_unitless h
  · rw [State.releaseHeld_gives hu hm]
    refine (State.Unclaimed.tells ?_).eq
    unfold State.givenBack
    cases (s.bus b).boundMu <;> exact ⟨hun.noWaits, hun.sweepOff⟩

/-- The bus of a programme that a release decision ends, and its unit after the end. -/
theorem State.releaseHeld_ends {s t : State} {b : BusId} {c : Cause} {u : MuId} {x : Context} {e : EndCause}
    (hb : (s.bus b).state = .held) (hu : (s.bus b).boundMu = some u) (hm : (s.mu u).state = .measuring)
    (hx : (s.mu u).context = some x) (he : matchingEnd c = some e)
    (ht : (s.updBus b (decidedRecord c)).ProgrammeEnds u x e t) :
    s.releaseHeld b c = t.drainOrRelease b u ∧ (t.mu u).state = (if x.sourceApplied then .discharging else .attached)
      ∧ (t.bus b).boundMu = some u := by
  have h₀ : s.updBus b (heldDecided c) = s.updBus b (decidedRecord c) := State.updBus_congr _ _ _ _ (heldDecided_eq hb)
  have h₁ : (s.updBus b (decidedRecord c)).endProgramme u e = t := ht.eq hx
  refine ⟨?_, ?_, ?_⟩
  · unfold State.releaseHeld
    rw [hu]
    simp only
    rw [h₀]
    unfold State.endIfMeasuring
    rw [if_pos (by exact hm), matchingEnd_eq he, h₁]
  · rw [← h₁, State.endProgramme_mu (by exact hx), endedUnit_state]
  · rw [← h₁, State.endProgramme_bus]
    · rw [State.bus_updBus_self]
      exact (intrusionOwed_boundMu _).trans hu
    · rw [State.bus_updBus_self]
      show (decidedRecord c (s.bus b)).state ≠ _
      rw [← heldDecided_eq hb]
      simp [heldDecided]

/-- A release decision does what the claims say (R37, R38, R40). -/
theorem State.Releases.eq {s t : State} {b : BusId} {c : Cause} (h : s.Releases b c t) : s.releaseDecision b c = t := by
  unfold State.releaseDecision
  cases h with
  | ignored h => rcases h with h | h | h <;> rw [h]
  | decided h₁ h₂ =>
    have : (s.bus b).releasePending.isSome = true := by simpa [Option.isSome_iff_ne_none] using h₂
    rcases h₁ with h | h <;> rw [h] <;> simp [this]
  | pending h₁ h₂ =>
    rcases h₁ with h | h <;> rw [h] <;> simp only [h₂] <;>
      exact State.updBus_congr _ _ _ _ (decideRelease_eq _ _)
  | unitless h₁ h₂ => rw [h₁]; exact State.releaseHeld_unitless h₂
  | unbinds u t h₁ h₂ h₃ h₄ => rw [h₁]; simp only; rw [State.releaseHeld_gives h₂ h₃, h₄.eq]
  | drains u h₁ h₂ h₃ =>
    rw [h₁]; simp only
    unfold State.releaseHeld
    rw [h₂]; simp only
    have : (s.updBus b (heldDecided c)).endIfMeasuring u c = s.updBus b (heldDecided c) := by
      unfold State.endIfMeasuring
      rw [if_neg]
      show (s.mu u).state ≠ _
      simp [h₃]
    rw [this]
    unfold State.drainOrRelease
    rw [if_pos (by exact h₃), State.updBus_updBus]
    exact State.updBus_congr _ _ _ _ (drainingBus_eq _ _)
  | endsDraining u x e t h₁ h₂ h₃ h₄ h₅ h₆ h₇ =>
    rw [h₁]; simp only
    obtain ⟨e₁, e₂, -⟩ := State.releaseHeld_ends h₁ h₂ h₃ h₄ h₅ h₇
    rw [e₁]
    unfold State.drainOrRelease
    rw [if_pos (by rw [e₂, if_pos h₆])]
  | endsReleasing u x e v _ h₁ h₂ h₃ h₄ h₅ h₆ h₇ h₈ =>
    rw [h₁]; simp only
    obtain ⟨e₁, e₂, e₃⟩ := State.releaseHeld_ends h₁ h₂ h₃ h₄ h₅ h₇
    rw [h₆] at e₂
    rw [e₁]
    unfold State.drainOrRelease
    rw [if_neg (by rw [e₂]; simp)]
    unfold State.enterReleasing
    rw [e₃]
    simp only
    rw [← h₈.eq]
    congr 1
    have h₉ : releasingBus (v.now + ms v.config.release) = drainedRecord (v.now + 10 * v.config.release) := by
      funext r; unfold releasingBus drainedRecord ms; rw [Nat.mul_comm]
    rw [h₉]
    unfold State.unbindMu
    exact State.updMu_congr _ u _ (freedUnit v.now v.config.standby) (unbindUnit_attached _ _ (by exact e₂))

theorem ReleaseWalk.eq {p : BusRec → Prop} {q : BusRec → Bool} (hq : ∀ r, q r = true ↔ p r) {c : Cause} {bs : List BusId}
    {s t : State} (h : ReleaseWalk p c bs s t) : bs.foldl (fun t b => if q (t.bus b) then t.releaseDecision b c else t) s = t := by
  induction h with
  | ends => rfl
  | takes b bs s t u h₁ h₂ _ ih => rw [List.foldl_cons, if_pos ((hq _).2 h₁), h₂.eq, ih]
  | passes b bs s u h₁ _ ih => rw [List.foldl_cons, if_neg (fun h => h₁ ((hq _).1 h)), ih]

theorem State.ReleasesAll.eq {p : BusRec → Prop} {q : BusRec → Bool} (hq : ∀ r, q r = true ↔ p r) {c : Cause} {s t : State}
    (h : s.ReleasesAll p c t) : s.releaseWhere q c = t := ReleaseWalk.eq hq h

/-! ## Lapses and restorations (R51, R52) -/

theorem lapsedLine_eq (r : LineRec) :
    lapsedLine r = if r.callState = .busy ∨ r.callState = .ringing then { r with callState := .unknown } else r := by
  unfold lapsedLine; cases h : r.callState <;> simp

theorem State.pushNotices_eq (s : State) (body : ReportBody) (h : ∀ p, p ≠ .x → 8 ≤ s.freeEntries p) :
    s.pushNotices desksAndM body = s.noticeAll body := by
  have key : ∀ (ps : List Port) (t : State), ps.Nodup → (∀ p ∈ ps, 8 ≤ t.freeEntries p) →
      ps.foldl (fun t p => t.pushNotice p body) t = ps.foldl (fun t p => t.enqueue p none body) t := by
    intro ps
    induction ps with
    | nil => intro t _ _; rfl
    | cons p ps ih =>
      intro t hn ht
      rw [List.foldl_cons, List.foldl_cons, State.pushNotice_of_room (ht p List.mem_cons_self)]
      refine ih _ (List.nodup_cons.1 hn).2 fun q hq => ?_
      rw [State.freeEntries_enqueue, if_neg]
      · exact ht q (List.mem_cons_of_mem _ hq)
      · rintro rfl; exact (List.nodup_cons.1 hn).1 hq
  refine key desksAndM s (by decide) fun p hp => h p ?_
  rintro rfl; exact absurd hp (by decide)

/-- The first half of a lapse does what the claims say (R51). -/
theorem State.LapsedLines.lapseState_eq {s : State} {ls : Tab LineRec 2048} (h : s.LapsedLines ls) :
    s.lapseState = { s with supervised := false, supTimer := none, lines := ls } := by
  have hl : s.lines.map lapsedLine = ls := Tab.ext_get fun l => by
    rw [Tab.get_map, lapsedLine_eq, h]; rfl
  unfold State.lapseState; rw [hl]

/-- The second half of a lapse does what the claims say (R51, R153). -/
theorem State.LapseEnds.eq {s t : State} {cause : LapseCause} (h : s.LapseEnds cause t) : s.lapseEffects cause = t := by
  obtain ⟨w, h₁, h₂, h₃⟩ := h
  unfold State.lapseEffects
  simp only
  rw [h₁.eq fun r => ?_, State.pushNotices_eq _ _ h₂, h₃.rederive_eq]
  rcases r.holder with - | (d | - | -) <;> simp [Source.automated]

/-- A lapse does what the claims say (R51, R153). -/
theorem State.Lapses.eq {s t : State} {cause : LapseCause} (h : s.Lapses cause t) : s.lapse cause = t := by
  obtain ⟨ls, h₁, h₂⟩ := h
  rw [State.lapse, h₁.lapseState_eq, h₂.eq]

/-- The lapse of an overflow is settled at the end of its event as the claims say (R57, log 7). -/
theorem State.LapseEnds.settleLapse_eq {s t : State} {cause : LapseCause} (hc : s.lapseInHand = some cause)
    (h : { s with lapseInHand := none }.LapseEnds cause t) : s.settleLapse = t := by
  unfold State.settleLapse
  rw [hc]
  exact h.eq

/-- An event in which X's queue overflowed ends as the claims say: the lapse settled, then the rest (log 7). -/
theorem State.LapseEnds.finish_eq {s t e : State} {cause : LapseCause} (hc : s.lapseInHand = some cause)
    (h : { s with lapseInHand := none }.LapseEnds cause t) (he : t.EventEnds e) : s.finish = e := by
  rw [← he.finish_eq, State.finish, State.finish, h.settleLapse_eq hc, State.settleLapse_of_none he.1]

theorem indexed_sorted {α : Type} {n : Nat} (t : Tab α n) : t.indexed.Pairwise fun a b => a.1 < b.1 := by
  rw [List.pairwise_iff_getElem]
  intro i j hi hj hij
  have hl : t.indexed.length = n := by simp [Tab.indexed, t.size_eq]
  rw [(List.getElem?_eq_some_iff.1 (indexed_getElem? t i (hl ▸ hi))).2,
    (List.getElem?_eq_some_iff.1 (indexed_getElem? t j (hl ▸ hj))).2]
  exact hij

theorem State.mem_blockedLines (s : State) (l : LineId) (o : Option BusId) :
    (l, o) ∈ s.blockedLines ↔ (s.line l).blocked = true ∧ (s.line l).onBus = o := by
  unfold State.blockedLines
  rw [List.mem_filterMap]
  constructor
  · rintro ⟨⟨k, r⟩, hm, h⟩
    rw [Tab.mem_indexed] at hm
    subst hm
    simp only [Option.ite_none_right_eq_some, Option.some.injEq, Prod.mk.injEq] at h
    obtain ⟨h₁, rfl, rfl⟩ := h
    exact ⟨h₁, rfl⟩
  · rintro ⟨h₁, rfl⟩
    exact ⟨(l, s.line l), (Tab.mem_indexed _ _ _).2 rfl, by simp [h₁]⟩

theorem State.blockedLines_sorted (s : State) : s.blockedLines.Pairwise fun x y => x.1 < y.1 := by
  unfold State.blockedLines
  rw [List.pairwise_filterMap]
  refine (indexed_sorted s.lines).imp ?_
  intro a b hab x hx y hy
  simp only [Option.ite_none_right_eq_some, Option.some.injEq] at hx hy
  obtain ⟨-, rfl⟩ := hx
  obtain ⟨-, rfl⟩ := hy
  exact hab

/-- The blocked lines in ascending order are one list (R52). -/
theorem State.blockedLines_unique {s : State} {xs : List (LineId × Option BusId)} (h₁ : xs.Pairwise fun x y => x.1 < y.1)
    (h₂ : ∀ l o, (l, o) ∈ xs ↔ (s.line l).blocked = true ∧ (s.line l).onBus = o) : s.blockedLines = xs := by
  have nodup : ∀ {ys : List (LineId × Option BusId)}, ys.Pairwise (fun x y => x.1 < y.1) → ys.Nodup :=
    fun h => h.imp fun h e => by rw [e] at h; exact lt_irrefl _ h
  have hp : s.blockedLines.Perm xs := (List.perm_ext_iff_of_nodup (nodup s.blockedLines_sorted) (nodup h₁)).2
    fun ⟨l, o⟩ => by rw [s.mem_blockedLines, h₂]
  exact hp.eq_of_pairwise (fun x y _ _ h₁ h₂ => absurd h₁ (not_lt.2 h₂.le)) s.blockedLines_sorted h₁

theorem foldl_pushKept (bs : List ReportBody) : ∀ s : State, bs.length ≤ s.freeEntries .x →
    bs.foldl (fun t r => t.pushKept .x none r) s = bs.foldl (fun t r => t.enqueue .x none r) s := by
  induction bs with
  | nil => intro s _; rfl
  | cons b bs ih =>
    intro s h
    simp only [List.foldl_cons, List.length_cons] at *
    rw [State.pushKept_of_room (by omega), ih]
    rw [State.freeEntries_enqueue, if_pos rfl]; omega

theorem foldl_enqueue_free (bs : List ReportBody) : ∀ (s : State) (q : Port), q ≠ .x →
    (bs.foldl (fun t r => t.enqueue .x none r) s).freeEntries q = s.freeEntries q := by
  induction bs with
  | nil => intro s q _; rfl
  | cons b bs ih =>
    intro s q hq
    rw [List.foldl_cons, ih _ _ hq, State.freeEntries_enqueue, if_neg hq.symm]

/-- A restoration does what the claims say (R52, R57, R153). -/
theorem State.Restores.eq {s t : State} (h : s.Restores t) : s.restore = t := by
  obtain ⟨bl, w, h₁, h₂, h₃, h₄, h₅, h₆⟩ := h
  set heard : State := { s with supervised := true, supTimer := some (s.now + 10000 * s.config.interval) } with hh
  have e₁ : State.startSupervisionTimer { s with supervised := true } = heard := by
    simp [State.startSupervisionTimer, seconds, Nat.mul_comm, hh]
  set cleared := State.updPort heard .x fun r =>
    if s.freeEntries .x < bl.length + 2 then { r with queue := [], lost := true } else r with hc
  have e₂ : (if heard.freeEntries .x < bl.length + 2 then heard.emptyQueue .x else heard) = cleared := by
    by_cases hr : s.freeEntries .x < bl.length + 2
    · rw [if_pos (by exact hr), hc]; simp only [hr, if_true]; rfl
    · rw [if_neg (by exact hr), hc]; simp only [hr, if_false]; exact (State.updPort_eq_self _ _ _ rfl).symm
  have hroom : bl.length + 2 ≤ cleared.freeEntries .x := by
    by_cases hr : s.freeEntries .x < bl.length + 2
    · rw [← e₂, if_pos (by exact hr), State.freeEntries_emptyQueue]; omega
    · rw [← e₂, if_neg (by exact hr)]; exact not_lt.1 hr
  have hbl : heard.blockedLines = bl := State.blockedLines_unique h₁ fun l o => (h₂ l o)
  have e₃ : heard.resync = ([ReportBody.resyncBegin] ++ bl.map (fun x => ReportBody.block x.1 x.2)
      ++ [ReportBody.resyncEnd]).foldl (fun t r => t.enqueue .x none r) cleared := by
    unfold State.resync
    simp only [hbl]
    rw [e₂, ← foldl_pushKept _ cleared (by simp; omega)]
    simp only [List.foldl_append, List.foldl_cons, List.foldl_nil, List.foldl_map]
  have hfree : ∀ p, p ≠ .x → 8 ≤ heard.resync.freeEntries p := fun p hp => by
    rw [e₃, foldl_enqueue_free _ _ _ hp]
    have : cleared.freeEntries p = s.freeEntries p := by
      unfold State.freeEntries
      rw [hc, State.port_updPort_ne _ _ hp.symm]
      rfl
    rw [this]; exact h₄ p hp
  unfold State.restore
  simp only
  rw [e₁, State.pushNotices_eq _ _ hfree, e₃, h₅.scan_eq, h₆.rederive_eq]

/-! ## The end of waits (R34, R44) -/

theorem WaitsEnd.eq {cause : WaitCause} {es : List WaitEntry} {s t : State} (h : WaitsEnd cause es s t) :
    es.foldl (fun t e => t.expireWait e cause) s = t := by
  induction h with
  | ends => rfl
  | takes e es s t h₁ _ ih =>
    rw [List.foldl_cons]
    have : s.expireWait e cause = ((s.unqueued e.req.line).tellHolder e.req.source e.req.tag.order? fun p =>
        .waitExpired cause (s.lineFor p e.req.line)) := by
      unfold State.expireWait
      simp only
      rw [State.toHolder_eq (by exact h₁)]
      rfl
    rw [this, ih]

end Sys2Proof.Machine
end

