-- ==== Sys2Proof/Laws/Creation.lean ====
section
/-!
SUPPORT. What makes a new ticket: the slot found for it (R131), the number (R128), the offer to the retest list (R121), and
the creation itself (R134), also in a slot whose ticket was taken for it (R132, R133).
-/

set_option Elab.async false

namespace Sys2Proof.Machine

/-! ## The slot (R131) -/

theorem earlier_iff {a b : Stamp} : a.earlier b = true ↔ a.Before b := by
  unfold Stamp.earlier Stamp.Before
  cases a.valid <;> cases b.valid <;> simp

/-- Before the oldest ticket is reached, whatever has been found is later. -/
theorem foldl_olderOf_later {q : Ticket → Bool} {t : Ticket} (l : List (SlotId × Option Ticket)) :
    ∀ acc : Option (SlotId × Ticket), (∀ a, acc = some a → t.firstSeen.Before a.2.firstSeen) →
      (∀ j u, (j, some u) ∈ l → q u = true → t.firstSeen.Before u.firstSeen) →
      ∀ a, l.foldl (olderOf q) acc = some a → t.firstSeen.Before a.2.firstSeen := by
  induction l with
  | nil => intro acc h _; exact h
  | cons x l ih =>
    intro acc h hl
    refine ih _ (fun a ha => ?_) fun j u hj => hl j u (List.mem_cons_of_mem _ hj)
    obtain ⟨n, o⟩ := x
    cases o with
    | none => exact h a ha
    | some u =>
      have hu := hl n u List.mem_cons_self
      cases hq : q u with
      | false => simp only [olderOf, hq] at ha; exact h a ha
      | true =>
        cases acc with
        | none => simp only [olderOf, hq, if_true, Option.some.injEq] at ha; subst ha; exact hu hq
        | some b =>
          simp only [olderOf, hq, if_true] at ha
          split at ha
          · cases ha; exact hu hq
          · exact h a ha

/-- Once the oldest ticket has been reached, it stays. -/
theorem foldl_olderOf_stays {q : Ticket → Bool} {k : SlotId} {t : Ticket} (l : List (SlotId × Option Ticket))
    (hl : ∀ j u, (j, some u) ∈ l → q u = true → ¬ u.firstSeen.Before t.firstSeen) :
    l.foldl (olderOf q) (some (k, t)) = some (k, t) := by
  induction l with
  | nil => rfl
  | cons x l ih =>
    have : olderOf q (some (k, t)) x = some (k, t) := by
      obtain ⟨n, o⟩ := x
      cases o with
      | none => rfl
      | some u =>
        cases hq : q u with
        | false => simp [olderOf, hq]
        | true =>
          have := hl n u List.mem_cons_self hq
          rw [← earlier_iff] at this
          simp [olderOf, hq, this]
    rw [List.foldl_cons, this]
    exact ih fun j u hj => hl j u (List.mem_cons_of_mem _ hj)

theorem indexed_split {α : Type} {n : Nat} (t : Tab α n) (k : Fin n) : ∃ xs ys, t.indexed = xs ++ (k, t.get k) :: ys
    ∧ ∀ j a, (j, a) ∈ xs → j < k ∧ t.get j = a := by
  have hlen : t.indexed.length = n := by simp [Tab.indexed, t.size_eq]
  have hk : k.val < t.indexed.length := by rw [hlen]; exact k.isLt
  have hx : t.indexed[k.val]'hk = (k, t.get k) := (List.getElem?_eq_some_iff.1 (indexed_getElem? t k.val k.isLt)).2
  refine ⟨t.indexed.take k.val, t.indexed.drop (k.val + 1), ?_, fun j a h => ?_⟩
  · rw [← hx, ← List.drop_eq_getElem_cons, List.take_append_drop]
  · have hm := List.mem_of_mem_take h
    refine ⟨?_, (Tab.mem_indexed t j a).1 hm⟩
    obtain ⟨i, hi, e⟩ := List.mem_iff_getElem.1 h
    simp only [List.length_take, hlen, lt_min_iff] at hi
    rw [List.getElem_take, (List.getElem?_eq_some_iff.1 (indexed_getElem? t i hi.2)).2] at e
    cases e; exact hi.1

/-- The search finds the oldest ticket with a property, ties to the lowest slot (R131). -/
theorem State.OldestAt.found {s : State} {p : Ticket → Prop} {q : Ticket → Bool} (hq : ∀ t, q t = true ↔ p t) {k : SlotId}
    {t : Ticket} (h : s.OldestAt p k t) : s.oldest q = some (k, t) := by
  obtain ⟨h₁, h₂, h₃⟩ := h
  obtain ⟨xs, ys, e, hxs⟩ := indexed_split s.tickets k
  have hk : s.tickets.get k = some t := h₁
  have hm : ∀ j u, (j, some u) ∈ s.tickets.indexed → s.slot j = some u := fun j u hj => (Tab.mem_indexed _ _ _).1 hj
  unfold State.oldest
  rw [e, hk, List.foldl_append, List.foldl_cons]
  have h₀ := foldl_olderOf_later (q := q) (t := t) xs none (by simp) fun j u hj hu =>
    (h₃ j u (hm j u (by rw [e]; exact List.mem_append_left _ hj)) ((hq u).1 hu)).2 (hxs j _ hj).1
  have h₄ : olderOf q (xs.foldl (olderOf q) none) (k, some t) = some (k, t) := by
    cases hf : xs.foldl (olderOf q) none with
    | none => simp [olderOf, (hq t).2 h₂]
    | some a => simp [olderOf, (hq t).2 h₂, earlier_iff.2 (h₀ a hf)]
  rw [h₄]
  exact foldl_olderOf_stays ys fun j u hj hu =>
    (h₃ j u (hm j u (by rw [e]; exact List.mem_append_right _ (List.mem_cons_of_mem _ hj))) ((hq u).1 hu)).1

theorem State.oldest_none {s : State} {q : Ticket → Bool} (h : ∀ k t, s.slot k = some t → q t = false) :
    s.oldest q = none := by
  cases e : s.oldest q with
  | none => rfl
  | some x =>
    obtain ⟨h₁, h₂⟩ := State.oldest_some (n := x.1) (t := x.2) e
    rw [h x.1 x.2 h₁] at h₂; cases h₂

theorem State.emptySlot_at {s : State} {k : SlotId} (h : s.slot k = none) (hj : ∀ j < k, s.slot j ≠ none) :
    s.emptySlot = some k := by
  obtain ⟨xs, ys, e, hxs⟩ := indexed_split s.tickets k
  have hk : s.tickets.get k = none := h
  have : s.tickets.indexed.find? (fun x => x.2.isNone) = some (k, none) := by
    rw [List.find?_eq_some_iff_append]
    refine ⟨rfl, xs, ys, by rw [e, hk], fun x hx => ?_⟩
    obtain ⟨h₁, h₂⟩ := hxs x.1 x.2 hx
    have := hj x.1 h₁
    rw [State.slot, h₂] at this
    simpa [Option.isSome_iff_ne_none] using this
  unfold State.emptySlot
  rw [this]; rfl

theorem State.emptySlot_none {s : State} (h : ∀ k, s.slot k ≠ none) : s.emptySlot = none := by
  cases e : s.emptySlot with
  | none => rfl
  | some k => exact absurd (State.emptySlot_some e) (h k)

/-! ## The number (R128) -/

theorem nextNumber_iter (c i : Nat) : nextNumber ((c - 1 + i) % 65535 + 1) = (c - 1 + (i + 1)) % 65535 + 1 := by
  unfold nextNumber; split <;> omega

theorem State.freeNumber_at {s : State} {i : Nat} (hfree : s.ticketNumbered ((s.counter - 1 + i) % 65535 + 1) = none)
    (hheld : ∀ h < i, (s.ticketNumbered ((s.counter - 1 + h) % 65535 + 1)).isSome = true) :
    ∀ fuel h, h ≤ i → i - h < fuel →
      s.freeNumber fuel ((s.counter - 1 + h) % 65535 + 1) = (s.counter - 1 + i) % 65535 + 1
  | 0, h, _, hf => by omega
  | fuel + 1, h, hi, hf => by
    unfold State.freeNumber
    by_cases e : h = i
    · subst e; rw [hfree]; rfl
    · rw [if_pos (hheld h (by omega)), nextNumber_iter]
      exact State.freeNumber_at hfree hheld fuel (h + 1) (by omega) (by omega)

/-- The search finds the number of a new ticket in an empty slot (R128). -/
theorem State.NextNumber.found {s : State} {k : SlotId} {n : Nat} (h : s.NextNumber k n) (hk : s.slot k = none) :
    s.freeNumber 257 s.counter = n := by
  obtain ⟨h₁, h₂, h₃, i, hi, rfl, h₄⟩ := h
  have key := State.freeNumber_at (s := s) (i := i) (ticketNumbered_none fun j t hj => h₃ j t (by rintro rfl; simp [hk] at hj) hj)
    (fun m hm => by
      obtain ⟨j, t, -, hj, hn⟩ := h₄ m hm
      exact findSlot_isSome.2 ⟨j, t, hj, by simpa using hn⟩) 257 0 (by omega) (by omega)
  rwa [show (s.counter - 1 + 0) % 65535 + 1 = s.counter by omega] at key

/-! ## The offer (R121) and the creation (R134) -/

theorem State.vtuOffer_eq (s : State) (l : LineId) : s.vtuOffer l = { s with retest := s.retestWith l } := by
  unfold State.vtuOffer State.offerRetest State.retestWith State.classOf retestCapacity
  by_cases h₁ : (s.line l).quarantined = true
  · rw [if_pos h₁, if_neg (by simp [h₁])]
  · rw [if_neg h₁]
    by_cases h₂ : l ∈ s.retest ∨ ¬ (s.classes.get (s.line l).cls).inSweep = true ∨ 32 ≤ s.retest.length
    · rw [if_pos (by tauto), if_neg (by rintro ⟨a, b, -, d⟩; rcases h₂ with h | h | h <;> [exact a h; exact h b; omega])]
    · rw [not_or, not_or, not_not, not_le] at h₂
      rw [if_neg (by simp [h₁, h₂]), if_pos ⟨h₂.1, h₂.2.1, by simpa using h₁, h₂.2.2⟩]

theorem State.retestWith_congr {s t : State} {l : LineId} (h₁ : t.retest = s.retest) (h₂ : t.classes = s.classes)
    (h₃ : (t.line l).cls = (s.line l).cls) (h₄ : (t.line l).quarantined = (s.line l).quarantined) :
    t.retestWith l = s.retestWith l := by
  unfold State.retestWith; rw [h₁, h₂, h₃, h₄]

/-- A creation in a slot that is empty, or was just emptied for it, does what the claims say (R134, R128). -/
theorem State.createTicket_eq {s u : State} {k : SlotId} {n : Nat} {l : LineId} {c : FaultClass} {f : Failure} {src : Source}
    {stamp : Stamp} (hu : u = s ∧ s.slot k = none ∨ u = s.writeSlot k none) (hn : s.NextNumber k n)
    (hm : 8 ≤ s.freeEntries .m) : u.createTicket k l c f src stamp = s.ticketMade k n l c f src stamp := by
  have hk : u.slot k = none := by
    rcases hu with ⟨rfl, h⟩ | rfl
    · exact h
    · exact Tab.get_set_self _ _ _
  have hslot : ∀ j, j ≠ k → u.slot j = s.slot j := by
    intro j hj
    rcases hu with ⟨rfl, -⟩ | rfl
    · rfl
    · exact Tab.get_set_ne _ _ (Ne.symm hj)
  have hw : ∀ x, u.writeSlot k x = s.writeSlot k x := by
    intro x
    rcases hu with ⟨rfl, -⟩ | rfl
    · rfl
    · simp only [State.writeSlot, Tab.set_set]
  have hc : u.counter = s.counter := by
    rcases hu with ⟨rfl, -⟩ | rfl <;> rfl
  have hnum : u.freeNumber 257 u.counter = n := by
    refine State.NextNumber.found (k := k) ?_ hk
    obtain ⟨h₁, h₂, h₃, i, hi, h₄, h₅⟩ := hn
    refine ⟨hc ▸ h₁, hc ▸ h₂, fun j t hj h => h₃ j t hj (by rwa [hslot j hj] at h), i, hi, hc ▸ h₄, fun m hm => ?_⟩
    obtain ⟨j, t, hj, h, e⟩ := h₅ m hm
    exact ⟨j, t, hj, by rwa [hslot j hj], hc ▸ e⟩
  have hnext : nextNumber n = if n = 65535 then 1 else n + 1 := by
    obtain ⟨-, -, -, i, -, rfl, -⟩ := hn
    unfold nextNumber; split <;> split <;> omega
  have hoffer : ∀ v : State, (v.line l).cls = (s.line l).cls → (v.line l).quarantined = (s.line l).quarantined →
      v.classes = s.classes → v.retest = s.retest →
      (if c = .hazard ∨ ¬ (v.classOf l).inSweep then v else v.vtuOffer l)
        = { v with retest := if c ≠ .hazard then s.retestWith l else s.retest } := by
    intro v h₁ h₂ h₃ h₄
    rw [State.vtuOffer_eq, State.retestWith_congr h₄ h₃ h₁ h₂]
    by_cases hc : c = .hazard
    · rw [if_pos (.inl hc), if_neg (not_not.2 hc), ← h₄]
    · rw [if_pos hc]
      by_cases hsw : (v.classOf l).inSweep = true
      · rw [if_neg (by simp [hc, hsw])]
      · have : s.retestWith l = s.retest := by
          unfold State.retestWith
          rw [State.classOf, h₁, h₃] at hsw
          rw [if_neg (by simp [hsw])]
        rw [if_pos (.inr hsw), this, ← h₄]
  have hcw : ∀ x, { u with counter := nextNumber n }.writeSlot k x = { s.writeSlot k x with counter := nextNumber n } :=
    fun x => by rw [← hw x]; rfl
  unfold State.createTicket State.ticketMade State.ticketNotice
  simp only [hnum, hcw]
  rw [State.pushNotice_of_room (by exact hm), hoffer, hnext]
  · rfl
  · show ((s.lines.set l ((s.line l).dropPending c)).get l).cls = _
    rw [Tab.get_set_self]; rfl
  · show ((s.lines.set l ((s.line l).dropPending c)).get l).quarantined = _
    rw [Tab.get_set_self]; rfl
  · rfl
  · rfl

end Sys2Proof.Machine
end

