-- ==== Sys2Proof/Laws/Pages.lean ====
section
/-!
SUPPORT. The fields of a page read as the claims read them, the bytes of a page formed from a list, the coded fields of a
ticket record (section 10.6, R125), the pairs of loaded tickets (R113, R147), the payloads that spell no order (R176), and
what a port reset takes from the wait queue (R44).
-/

set_option Elab.async false

namespace Sys2Proof.Machine

/-! ## Fields of a page -/

theorem pageByte_toNat (d : PageData) (n : Nat) : (pageByte d n).toNat = dataAt d n := by
  unfold dataAt pageByte
  split
  · rename_i h
    rw [Tab.get_eq, List.getD_eq_getElem _ _ (by rw [d.size_eq]; exact h)]
  · rename_i h
    rw [List.getD_eq_default _ _ (by rw [d.size_eq]; omega)]; rfl

theorem page16_eq (d : PageData) (n : Nat) : page16 d n = dataWord d n := by
  unfold page16 be16 dataWord; rw [pageByte_toNat, pageByte_toNat]

theorem page32_eq (d : PageData) (n : Nat) : page32 d n = dataLong d n := by
  unfold page32 be32 dataLong; rw [← page16_eq, ← page16_eq]; rfl

theorem dataAt_lt (d : PageData) (n : Nat) : dataAt d n < 256 := by
  rw [← pageByte_toNat]; exact (pageByte d n).isLt

/-- A byte of a page formed from a list of at most 32 bytes. -/
theorem dataAt_pageOfBytes (bs : List Byte) (n : Nat) (h : bs.length ≤ 32) :
    dataAt (pageOfBytes bs) n = (bs.getD n 0).toNat := by
  unfold dataAt
  split
  · rw [pageOfBytes, Tab.get_ofFn]
  · rw [List.getD_eq_default _ _ (by omega)]; rfl

theorem byteOf_toNat (n : Nat) : (byteOf n).toNat = n % 256 := by simp [byteOf]

theorem Tab.items_eq {α : Type} {n : Nat} (t : Tab α n) : t.items = (List.finRange n).map t.get :=
  List.ext_getElem (by simp [t.size_eq]) fun i _ _ => by simp [Tab.get_eq]

theorem clampNat_eq {a b : Nat} (n : Nat) (h : a ≤ b) : clampNat a b n = held a b n := by
  unfold clampNat held; split <;> [skip; split] <;> omega

/-! ## Coded fields (R125) -/

theorem severityOfCode_iff (n : Nat) (v : Severity) : severityOfCode n = some v ↔ n = severityCode v := by
  unfold severityOfCode; split <;> cases v <;> simp_all [severityCode]

theorem faultClassOfCode_iff (n : Nat) (v : FaultClass) : faultClassOfCode n = some v ↔ n = classCode v := by
  unfold faultClassOfCode; split <;> cases v <;> simp_all [classCode]

theorem ticketStateOfCode_iff (n : Nat) (v : TicketState) : ticketStateOfCode n = some v ↔ n = stateCode v := by
  unfold ticketStateOfCode; split <;> cases v <;> simp_all [stateCode]

theorem finOf?_iff {n k : Nat} (i : Fin k) : finOf? k n = some i ↔ n = i.val := by
  unfold finOf?; split
  · simp [Fin.ext_iff]
  · simp; omega

theorem sourceOfCode_iff (n : Nat) (v : Source) : sourceOfCode n = some v ↔ n = sourceCode v := by
  unfold sourceOfCode; split
  · rcases v with k | - | - <;> simp [sourceCode]; omega
  · rcases v with k | - | - <;> simp [sourceCode]; omega
  · rcases v with k | - | -
    · simp only [sourceCode, Option.map_eq_some_iff, Source.desk.injEq]
      exact ⟨fun ⟨a, h, e⟩ => e ▸ (finOf?_iff a).1 h, fun h => ⟨k, (finOf?_iff k).2 h, rfl⟩⟩
    · simp_all [sourceCode]
    · simp_all [sourceCode]

theorem clearerOfCode_iff (n : Nat) (v : Clearer) : clearerOfCode n = some v ↔ n = clearedByCode (some v) := by
  unfold clearerOfCode; split
  · rcases v with k | - | - <;> simp [clearedByCode]; omega
  · rcases v with k | - | - <;> simp [clearedByCode]; omega
  · rcases v with k | - | -
    · simp only [clearedByCode, Option.map_eq_some_iff, Clearer.desk.injEq]
      exact ⟨fun ⟨a, h, e⟩ => e ▸ (finOf?_iff a).1 h, fun h => ⟨k, (finOf?_iff k).2 h, rfl⟩⟩
    · simp_all [clearedByCode]
    · simp_all [clearedByCode]

/-! ## Payloads that spell no order (R176) -/

/-- A kind that is none of section 10.6, or a length that is not one of its kind, spells no order. -/
theorem decodeOrder_none {p : Port} {tag code : Byte} {ps : List Byte}
    (h : ∀ k : OrderKind, k.code = code → ps.length ∉ payloadLengths k) : decodeOrder p tag code ps = none := by
  unfold decodeOrder
  cases hk : OrderKind.ofCode code with
  | none => rfl
  | some k =>
    have hc : k.code = code := by simpa using List.find?_some hk
    have := h k hc
    simp only
    unfold decodePayload
    cases k <;> simp only [payloadLengths, List.mem_cons, List.not_mem_nil, or_false] at this ⊢
    all_goals (split <;> simp_all)

/-! ## The pairs of loaded tickets (R113, R147) -/

/-- A loaded ticket's pair is what the claims say. -/
theorem State.PairLoaded.eq {s : State} {n : SlotId} {x : Ticket} {p : Option Pair} (h : s.PairLoaded n x p) :
    s.withLoadedPair n x = { x with pair := p } := by
  unfold State.withLoadedPair
  cases h with
  | kept o ho hx => simp only [ho]; rw [if_pos hx, ← hx]
  | free hn =>
    cases ho : s.slot n with
    | none => rfl
    | some o => simp only; rw [if_neg (hn o ho)]

/-- A loaded ticket has a pair of its last value, or none, as the claims say. -/
theorem State.pairLoaded (s : State) (n : SlotId) (x : Ticket) : s.PairLoaded n x (s.withLoadedPair n x).pair := by
  by_cases h : ∃ o, s.slot n = some o ∧ { o with pair := none } = x
  · obtain ⟨o, ho, hx⟩ := h
    have := State.PairLoaded.kept o ho hx
    rw [this.eq]; exact this
  · have := State.PairLoaded.free (s := s) (n := n) (x := x) fun o ho hx => h ⟨o, ho, hx⟩
    rw [this.eq]; exact this

/-- The table at the end of an autoload is what the claims say (R147). -/
theorem State.TableLoaded.eq {s : State} {tickets : Tab (Option Ticket) 256} (h : s.TableLoaded tickets) :
    s.loadTickets.tickets = tickets := Tab.ext_get fun n => by
  have hn := h n
  simp only [State.loadTickets, Tab.get_mapIdx]
  cases hx : (examine s.store.image s.store.dirty).tickets.get n with
  | none => rw [hx] at hn; rw [hn]; rfl
  | some x =>
    rw [hx] at hn
    obtain ⟨p, hp, he⟩ := hn
    rw [he, Option.map_some, hp.eq]

/-- There is such a table. -/
theorem State.tableLoaded (s : State) : s.TableLoaded s.loadTickets.tickets := fun n => by
  simp only [State.loadTickets, Tab.get_mapIdx]
  cases (examine s.store.image s.store.dirty).tickets.get n with
  | none => rfl
  | some x => exact ⟨_, s.pairLoaded n x, congrArg some (s.withLoadedPair_eq n x)⟩

/-! ## Wait entries taken out by their source's port (R44) -/

/-- The entries of some lines taken out one after the other: the queue without those lines, each no longer queued. -/
theorem foldl_removeWait : ∀ (es : List WaitEntry) (t : State),
    (es.foldl (fun t e => t.removeWait e.req.line) t) = { t with
      waitQueue := t.waitQueue.filter fun w => decide (∀ e ∈ es, e.req.line ≠ w.req.line)
      lines := (es.foldl (fun t e => t.removeWait e.req.line) t).lines }
    ∧ ∀ l, (es.foldl (fun t e => t.removeWait e.req.line) t).line l
      = if ∃ e ∈ es, e.req.line = l then waitFlag false (t.line l) else t.line l := by
  intro es
  induction es with
  | nil => intro t; simp
  | cons e es ih =>
    intro t
    rw [List.foldl_cons]
    obtain ⟨h₁, h₂⟩ := ih (t.removeWait e.req.line)
    refine ⟨?_, fun l => ?_⟩
    · rw [h₁]
      simp only [State.removeWait, State.updLine, List.filter_filter]
      congr 1
      refine List.filter_congr fun w _ => ?_
      rw [Bool.eq_iff_iff]
      simp only [Bool.and_eq_true, decide_eq_true_eq, bne_iff_ne, ne_eq, List.mem_cons, forall_eq_or_imp]
      rw [and_comm, eq_comm]
    · rw [h₂]
      have : (t.removeWait e.req.line).line l = if e.req.line = l then waitFlag false (t.line l) else t.line l := by
        unfold State.removeWait
        rw [State.line_updLine]
        split
        · rename_i h; subst h; rfl
        · rfl
      rw [this]
      by_cases ha : e.req.line = l
      · simp [ha, waitFlag]
      · simp [ha]

end Sys2Proof.Machine
end

