-- ==== Sys2Proof/Laws/PerInstr.lean ====
section
/-!
SUPPORT. The family `PayloadLength`, one lemma for each constructor of `Instr`: an order's payload has a length that
the table of section 10.6 allows for its kind, and a command that is no order has no payload and no frame.
-/

set_option Elab.async false

namespace Sys2Proof

/-- The payload lengths the table of section 10.6 gives an order kind: two for RUN (with and without the ticket flag),
QUERY_TICKET (by number and by line and class) and QUERY_SWEEP (with and without an index). -/
def Laws.PayloadLength.allowed : OrderKind → List Nat
  | .seize => [4]
  | .cancelWait => [2]
  | .terminate => [2]
  | .release => [1]
  | .run => [2, 3]
  | .abort => [1]
  | .keep => [1]
  | .demandTest => [3]
  | .lineState => [3]
  | .lineStateIdleRange => [4]
  | .intrude => [2]
  | .intrudeCancel => [2]
  | .supervise => [0]
  | .queryLine => [2]
  | .queryBus => [1]
  | .queryMu => [1]
  | .queryStatus => [0]
  | .ticketNext => [0]
  | .ticketHand => [4]
  | .ticketClear => [2]
  | .ticketPurge => [2]
  | .queryTicket => [2, 3]
  | .ticketList => [1]
  | .ticketNote => [4]
  | .setClock => [5]
  | .sweepSet => [11]
  | .sweepEnable => [0]
  | .sweepDisable => [0]
  | .sweepHold => [0]
  | .sweepResume => [0]
  | .sweepNewPass => [0]
  | .querySweep => [1, 2]
  | .settingsWrite => [34]
  | .settingsRead => [2]
  | .restart => [0]

/-- An order's payload has a length its kind allows; a command that is no order has neither payload nor frame. -/
def Laws.PayloadLength.Statement (i : Instr) : Prop :=
  match i.orderHead with
  | some h => i.payload.length ∈ Laws.PayloadLength.allowed h.2.2
  | none => i.payload = [] ∧ i.frame = none

theorem Laws.PayloadLength.por (c : CutPage) :
    Laws.PayloadLength.Statement (.por c) :=
  ⟨rfl, rfl⟩

theorem Laws.PayloadLength.byteReceived (p : Port) (b : Byte) (v : Bool) :
    Laws.PayloadLength.Statement (.byteReceived p b v) :=
  ⟨rfl, rfl⟩

theorem Laws.PayloadLength.interByteGap (p : Port) :
    Laws.PayloadLength.Statement (.interByteGap p) :=
  ⟨rfl, rfl⟩

theorem Laws.PayloadLength.portReset (p : Port) :
    Laws.PayloadLength.Statement (.portReset p) :=
  ⟨rfl, rfl⟩

theorem Laws.PayloadLength.reportSent (p : Port) :
    Laws.PayloadLength.Statement (.reportSent p) :=
  ⟨rfl, rfl⟩

theorem Laws.PayloadLength.seize (p : Port) (t : Byte) (l m : Nat) (pr : Option Nat) :
    Laws.PayloadLength.Statement (.seize p t l m pr) := by
  simp [Laws.PayloadLength.Statement, Laws.PayloadLength.allowed, Instr.orderHead, Instr.payload, bytes16]

theorem Laws.PayloadLength.demandTest (p : Port) (t : Byte) (l pr : Nat) :
    Laws.PayloadLength.Statement (.demandTest p t l pr) := by
  simp [Laws.PayloadLength.Statement, Laws.PayloadLength.allowed, Instr.orderHead, Instr.payload, bytes16]

theorem Laws.PayloadLength.cancelWait (p : Port) (t : Byte) (l : Nat) :
    Laws.PayloadLength.Statement (.cancelWait p t l) := by
  simp [Laws.PayloadLength.Statement, Laws.PayloadLength.allowed, Instr.orderHead, Instr.payload, bytes16]

theorem Laws.PayloadLength.terminate (p : Port) (t : Byte) (b m : Nat) :
    Laws.PayloadLength.Statement (.terminate p t b m) := by
  simp [Laws.PayloadLength.Statement, Laws.PayloadLength.allowed, Instr.orderHead, Instr.payload]

theorem Laws.PayloadLength.release (p : Port) (t : Byte) (b : Nat) :
    Laws.PayloadLength.Statement (.release p t b) := by
  simp [Laws.PayloadLength.Statement, Laws.PayloadLength.allowed, Instr.orderHead, Instr.payload]

theorem Laws.PayloadLength.run (p : Port) (t : Byte) (b pr : Nat) (f : Option Nat) :
    Laws.PayloadLength.Statement (.run p t b pr f) := by
  cases f <;> simp [Laws.PayloadLength.Statement, Laws.PayloadLength.allowed, Instr.orderHead, Instr.payload]

theorem Laws.PayloadLength.abort (p : Port) (t : Byte) (b : Nat) :
    Laws.PayloadLength.Statement (.abort p t b) := by
  simp [Laws.PayloadLength.Statement, Laws.PayloadLength.allowed, Instr.orderHead, Instr.payload]

theorem Laws.PayloadLength.keep (p : Port) (t : Byte) (b : Nat) :
    Laws.PayloadLength.Statement (.keep p t b) := by
  simp [Laws.PayloadLength.Statement, Laws.PayloadLength.allowed, Instr.orderHead, Instr.payload]

theorem Laws.PayloadLength.lineState (p : Port) (t : Byte) (l st : Nat) :
    Laws.PayloadLength.Statement (.lineState p t l st) := by
  simp [Laws.PayloadLength.Statement, Laws.PayloadLength.allowed, Instr.orderHead, Instr.payload, bytes16]

theorem Laws.PayloadLength.lineStateIdleRange (p : Port) (t : Byte) (a b : Nat) :
    Laws.PayloadLength.Statement (.lineStateIdleRange p t a b) := by
  simp [Laws.PayloadLength.Statement, Laws.PayloadLength.allowed, Instr.orderHead, Instr.payload, bytes16]

theorem Laws.PayloadLength.intrude (p : Port) (t : Byte) (l : Nat) :
    Laws.PayloadLength.Statement (.intrude p t l) := by
  simp [Laws.PayloadLength.Statement, Laws.PayloadLength.allowed, Instr.orderHead, Instr.payload, bytes16]

theorem Laws.PayloadLength.intrudeCancel (p : Port) (t : Byte) (l : Nat) :
    Laws.PayloadLength.Statement (.intrudeCancel p t l) := by
  simp [Laws.PayloadLength.Statement, Laws.PayloadLength.allowed, Instr.orderHead, Instr.payload, bytes16]

theorem Laws.PayloadLength.supervise (p : Port) (t : Byte) :
    Laws.PayloadLength.Statement (.supervise p t) := by
  simp [Laws.PayloadLength.Statement, Laws.PayloadLength.allowed, Instr.orderHead, Instr.payload]

theorem Laws.PayloadLength.queryLine (p : Port) (t : Byte) (l : Nat) :
    Laws.PayloadLength.Statement (.queryLine p t l) := by
  simp [Laws.PayloadLength.Statement, Laws.PayloadLength.allowed, Instr.orderHead, Instr.payload, bytes16]

theorem Laws.PayloadLength.queryBus (p : Port) (t : Byte) (b : Nat) :
    Laws.PayloadLength.Statement (.queryBus p t b) := by
  simp [Laws.PayloadLength.Statement, Laws.PayloadLength.allowed, Instr.orderHead, Instr.payload]

theorem Laws.PayloadLength.queryMu (p : Port) (t : Byte) (u : Nat) :
    Laws.PayloadLength.Statement (.queryMu p t u) := by
  simp [Laws.PayloadLength.Statement, Laws.PayloadLength.allowed, Instr.orderHead, Instr.payload]

theorem Laws.PayloadLength.queryStatus (p : Port) (t : Byte) :
    Laws.PayloadLength.Statement (.queryStatus p t) := by
  simp [Laws.PayloadLength.Statement, Laws.PayloadLength.allowed, Instr.orderHead, Instr.payload]

theorem Laws.PayloadLength.ticketNext (p : Port) (t : Byte) :
    Laws.PayloadLength.Statement (.ticketNext p t) := by
  simp [Laws.PayloadLength.Statement, Laws.PayloadLength.allowed, Instr.orderHead, Instr.payload]

theorem Laws.PayloadLength.ticketHand (p : Port) (t : Byte) (n a : Nat) :
    Laws.PayloadLength.Statement (.ticketHand p t n a) := by
  simp [Laws.PayloadLength.Statement, Laws.PayloadLength.allowed, Instr.orderHead, Instr.payload, bytes16]

theorem Laws.PayloadLength.ticketClear (p : Port) (t : Byte) (n : Nat) :
    Laws.PayloadLength.Statement (.ticketClear p t n) := by
  simp [Laws.PayloadLength.Statement, Laws.PayloadLength.allowed, Instr.orderHead, Instr.payload, bytes16]

theorem Laws.PayloadLength.ticketPurge (p : Port) (t : Byte) (n : Nat) :
    Laws.PayloadLength.Statement (.ticketPurge p t n) := by
  simp [Laws.PayloadLength.Statement, Laws.PayloadLength.allowed, Instr.orderHead, Instr.payload, bytes16]

theorem Laws.PayloadLength.queryTicket (p : Port) (t : Byte) (q : TicketQuery) :
    Laws.PayloadLength.Statement (.queryTicket p t q) := by
  cases q <;> simp [Laws.PayloadLength.Statement, Laws.PayloadLength.allowed, Instr.orderHead, Instr.payload, bytes16]

theorem Laws.PayloadLength.ticketList (p : Port) (t : Byte) (f : Nat) :
    Laws.PayloadLength.Statement (.ticketList p t f) := by
  simp [Laws.PayloadLength.Statement, Laws.PayloadLength.allowed, Instr.orderHead, Instr.payload]

theorem Laws.PayloadLength.ticketNote (p : Port) (t : Byte) (n x : Nat) :
    Laws.PayloadLength.Statement (.ticketNote p t n x) := by
  simp [Laws.PayloadLength.Statement, Laws.PayloadLength.allowed, Instr.orderHead, Instr.payload, bytes16]

theorem Laws.PayloadLength.setClock (p : Port) (t : Byte) (d h m s : Nat) :
    Laws.PayloadLength.Statement (.setClock p t d h m s) := by
  simp [Laws.PayloadLength.Statement, Laws.PayloadLength.allowed, Instr.orderHead, Instr.payload, bytes16]

theorem Laws.PayloadLength.sweepSet (p : Port) (t : Byte) (a b c d pr pc : Nat) :
    Laws.PayloadLength.Statement (.sweepSet p t a b c d pr pc) := by
  simp [Laws.PayloadLength.Statement, Laws.PayloadLength.allowed, Instr.orderHead, Instr.payload, bytes16]

theorem Laws.PayloadLength.sweepEnable (p : Port) (t : Byte) :
    Laws.PayloadLength.Statement (.sweepEnable p t) := by
  simp [Laws.PayloadLength.Statement, Laws.PayloadLength.allowed, Instr.orderHead, Instr.payload]

theorem Laws.PayloadLength.sweepDisable (p : Port) (t : Byte) :
    Laws.PayloadLength.Statement (.sweepDisable p t) := by
  simp [Laws.PayloadLength.Statement, Laws.PayloadLength.allowed, Instr.orderHead, Instr.payload]

theorem Laws.PayloadLength.sweepHold (p : Port) (t : Byte) :
    Laws.PayloadLength.Statement (.sweepHold p t) := by
  simp [Laws.PayloadLength.Statement, Laws.PayloadLength.allowed, Instr.orderHead, Instr.payload]

theorem Laws.PayloadLength.sweepResume (p : Port) (t : Byte) :
    Laws.PayloadLength.Statement (.sweepResume p t) := by
  simp [Laws.PayloadLength.Statement, Laws.PayloadLength.allowed, Instr.orderHead, Instr.payload]

theorem Laws.PayloadLength.sweepNewPass (p : Port) (t : Byte) :
    Laws.PayloadLength.Statement (.sweepNewPass p t) := by
  simp [Laws.PayloadLength.Statement, Laws.PayloadLength.allowed, Instr.orderHead, Instr.payload]

theorem Laws.PayloadLength.querySweep (p : Port) (t : Byte) (sel : Nat) (i : Option Nat) :
    Laws.PayloadLength.Statement (.querySweep p t sel i) := by
  cases i <;> simp [Laws.PayloadLength.Statement, Laws.PayloadLength.allowed, Instr.orderHead, Instr.payload]

theorem Laws.PayloadLength.settingsWrite (p : Port) (t : Byte) (pg : Nat) (d : PageData) :
    Laws.PayloadLength.Statement (.settingsWrite p t pg d) := by
  simp [Laws.PayloadLength.Statement, Laws.PayloadLength.allowed, Instr.orderHead, Instr.payload, bytes16, d.size_eq]

theorem Laws.PayloadLength.settingsRead (p : Port) (t : Byte) (pg : Nat) :
    Laws.PayloadLength.Statement (.settingsRead p t pg) := by
  simp [Laws.PayloadLength.Statement, Laws.PayloadLength.allowed, Instr.orderHead, Instr.payload, bytes16]

theorem Laws.PayloadLength.restart (p : Port) (t : Byte) :
    Laws.PayloadLength.Statement (.restart p t) := by
  simp [Laws.PayloadLength.Statement, Laws.PayloadLength.allowed, Instr.orderHead, Instr.payload]

theorem Laws.PayloadLength.operateCompletion (b : BusId) :
    Laws.PayloadLength.Statement (.operateCompletion b) :=
  ⟨rfl, rfl⟩

theorem Laws.PayloadLength.switchCompletion (b : BusId) :
    Laws.PayloadLength.Statement (.switchCompletion b) :=
  ⟨rfl, rfl⟩

theorem Laws.PayloadLength.releaseCompletion (b : BusId) :
    Laws.PayloadLength.Statement (.releaseCompletion b) :=
  ⟨rfl, rfl⟩

theorem Laws.PayloadLength.waitDeadlineExpiry (l : LineId) :
    Laws.PayloadLength.Statement (.waitDeadlineExpiry l) :=
  ⟨rfl, rfl⟩

theorem Laws.PayloadLength.supervisionTimerExpiry :
    Laws.PayloadLength.Statement .supervisionTimerExpiry :=
  ⟨rfl, rfl⟩

theorem Laws.PayloadLength.graceExpiry (b : BusId) :
    Laws.PayloadLength.Statement (.graceExpiry b) :=
  ⟨rfl, rfl⟩

theorem Laws.PayloadLength.warmUpEnd (u : MuId) :
    Laws.PayloadLength.Statement (.warmUpEnd u) :=
  ⟨rfl, rfl⟩

theorem Laws.PayloadLength.standbyDelayExpiry (u : MuId) :
    Laws.PayloadLength.Statement (.standbyDelayExpiry u) :=
  ⟨rfl, rfl⟩

theorem Laws.PayloadLength.headSetUpEnd (u : MuId) :
    Laws.PayloadLength.Statement (.headSetUpEnd u) :=
  ⟨rfl, rfl⟩

theorem Laws.PayloadLength.settleEnd (u : MuId) (q : Nat) (v : Bool) :
    Laws.PayloadLength.Statement (.settleEnd u q v) :=
  ⟨rfl, rfl⟩

theorem Laws.PayloadLength.sampleArrival (u : MuId) (r : Int) :
    Laws.PayloadLength.Statement (.sampleArrival u r) :=
  ⟨rfl, rfl⟩

theorem Laws.PayloadLength.dischargeEnd (u : MuId) :
    Laws.PayloadLength.Statement (.dischargeEnd u) :=
  ⟨rfl, rfl⟩

theorem Laws.PayloadLength.pacingTimerExpiry :
    Laws.PayloadLength.Statement .pacingTimerExpiry :=
  ⟨rfl, rfl⟩

theorem Laws.PayloadLength.passEnd :
    Laws.PayloadLength.Statement .passEnd :=
  ⟨rfl, rfl⟩

theorem Laws.PayloadLength.clockAdvance :
    Laws.PayloadLength.Statement .clockAdvance :=
  ⟨rfl, rfl⟩

theorem Laws.PayloadLength.slotWriteCompletion :
    Laws.PayloadLength.Statement .slotWriteCompletion :=
  ⟨rfl, rfl⟩

theorem Laws.PayloadLength.settingsWriteCompletion :
    Laws.PayloadLength.Statement .settingsWriteCompletion :=
  ⟨rfl, rfl⟩

theorem Laws.PayloadLength.accessQuiet :
    Laws.PayloadLength.Statement .accessQuiet :=
  ⟨rfl, rfl⟩

theorem Laws.PayloadLength.drainEnd :
    Laws.PayloadLength.Statement .drainEnd :=
  ⟨rfl, rfl⟩

theorem Laws.PayloadLength.autoloadPageRead :
    Laws.PayloadLength.Statement .autoloadPageRead :=
  ⟨rfl, rfl⟩

theorem Laws.PayloadLength.autoloadCompletion :
    Laws.PayloadLength.Statement .autoloadCompletion :=
  ⟨rfl, rfl⟩

theorem Laws.PayloadLength.returnToMark (p : Port) :
    Laws.PayloadLength.Statement (.returnToMark p) :=
  ⟨rfl, rfl⟩

end Sys2Proof
end

