-- ==== Sys2Proof/Laws/Steady.lean ====
section
/-!
SUPPORT. What the claims' words leave alone: a scan (R31), a start attempt (R154, R155), a derivation of the sweep state
(R153) and a restoration (R52) touch neither the time, nor the configuration, nor the store, nor a lapse in hand.
-/

set_option Elab.async false

namespace Sys2Proof.Machine

/-- Two states with one time, configuration, store, supervision and lapse in hand. -/
structure State.Steady (s t : State) : Prop where
  now : t.now = s.now
  config : t.config = s.config
  store : t.store = s.store
  supervised : t.supervised = s.supervised
  supTimer : t.supTimer = s.supTimer
  lapse : t.lapseInHand = s.lapseInHand

theorem State.Steady.refl (s : State) : s.Steady s := ⟨rfl, rfl, rfl, rfl, rfl, rfl⟩

theorem State.Steady.trans {s t u : State} (h : s.Steady t) (k : t.Steady u) : s.Steady u :=
  ⟨k.now.trans h.now, k.config.trans h.config, k.store.trans h.store, k.supervised.trans h.supervised,
    k.supTimer.trans h.supTimer, k.lapse.trans h.lapse⟩

theorem State.granted_steady (s : State) (q : Request) (b : BusId) (u : Option MuId) : s.Steady (s.granted q b u) := by
  unfold State.granted; cases u <;> exact ⟨rfl, rfl, rfl, rfl, rfl, rfl⟩

theorem State.unqueued_steady (s : State) (l : LineId) : s.Steady (s.unqueued l) := ⟨rfl, rfl, rfl, rfl, rfl, rfl⟩

theorem ScanWalk.steady {es : List WaitEntry} {s t : State} (h : ScanWalk es s t) : s.Steady t := by
  induction h with
  | ends => exact .refl _
  | grants e es s t b u _ _ _ _ ih =>
    exact ((State.unqueued_steady s e.req.line).trans (State.granted_steady _ _ _ _)).trans ih
  | leaves e es s t _ _ ih => exact ih

theorem State.Scans.steady {s t : State} (h : s.Scans t) : s.Steady t := ScanWalk.steady h

theorem State.pushNotice_steady (s : State) (p : Port) (b : ReportBody) : s.Steady (s.pushNotice p b) := by
  unfold State.pushNotice; split <;> exact ⟨rfl, rfl, rfl, rfl, rfl, rfl⟩

theorem State.passEnded_steady (s : State) : s.Steady s.passEnded :=
  (s.pushNotice_steady .m (.sweepPass s.sweep.pass s.sweep.tested s.sweep.skipped s.sweep.faulted)).trans
    ⟨rfl, rfl, rfl, rfl, rfl, rfl⟩

theorem State.sweepStarted_steady (s : State) (l : LineId) (b : BusId) (u : MuId) : s.Steady (s.sweepStarted l b u) :=
  (s.granted_steady ⟨.rs, .test s.sweep.testNumber, l, .mu, some s.sweepCfg.programme⟩ b (some u)).trans
    ⟨rfl, rfl, rfl, rfl, rfl, rfl⟩

theorem State.Attempts.steady {s t : State} (h : s.Attempts t) : s.Steady t := by
  cases h with
  | retest xs ys l b u =>
    refine State.Steady.trans ?_ (State.sweepStarted_steady _ l b u)
    exact ⟨rfl, rfl, rfl, rfl, rfl, rfl⟩
  | rests => exact ⟨rfl, rfl, rfl, rfl, rfl, rfl⟩
  | cursor l b u =>
    refine State.Steady.trans ?_ (State.sweepStarted_steady _ l b u)
    exact ⟨rfl, rfl, rfl, rfl, rfl, rfl⟩
  | closes t _ _ _ _ ht =>
    have k : s.Steady t := by rw [ht]; exact ⟨rfl, rfl, rfl, rfl, rfl, rfl⟩
    clear ht
    refine k.trans ?_
    split
    · exact t.passEnded_steady.trans ⟨rfl, rfl, rfl, rfl, rfl, rfl⟩
    · exact ⟨rfl, rfl, rfl, rfl, rfl, rfl⟩

theorem State.Triggered.steady {s t : State} (h : s.Triggered t) : s.Steady t := by
  cases h with
  | passed => exact .refl _
  | attempted _ _ h => exact h.steady

theorem State.ScansAndTells.steady {s t : State} (h : s.ScansAndTells t) : s.Steady t := by
  obtain ⟨u, h₁, h₂⟩ := h
  exact h₁.steady.trans h₂.steady

theorem State.Derived.steady {s t : State} (h : s.Derived t) : s.Steady t := by
  obtain ⟨st, _, h₁, h₂⟩ := h
  by_cases hc : st = .active ∧ s.sweep.lastState ≠ .active
  · exact State.Steady.trans (t := s.seen st) ⟨rfl, rfl, rfl, rfl, rfl, rfl⟩ (h₁ hc).steady
  · rw [h₂ hc]; exact ⟨rfl, rfl, rfl, rfl, rfl, rfl⟩

/-- A steady change leaves a running part settled (R172, R174). -/
theorem State.Steady.settled {s t : State} (h : s.Steady t) (hs : s.Settled) (hr : s.store.phase = .running) : t.Settled where
  noLapse := h.lapse ▸ hs.noLapse
  notQuiet := fun hp => by rw [h.store, hr] at hp; cases hp
  serviceIdle := h.store ▸ hs.serviceIdle
  notDrained := h.store ▸ hs.notDrained

theorem foldl_enqueue_steady (bs : List ReportBody) : ∀ s : State,
    s.Steady (bs.foldl (fun t r => t.enqueue .x none r) s) := by
  induction bs with
  | nil => intro s; exact .refl _
  | cons b bs ih => intro s; exact State.Steady.trans (t := s.enqueue .x none b) ⟨rfl, rfl, rfl, rfl, rfl, rfl⟩ (ih _)

/-- A restoration leaves X supervised with its timer running, and the store as it was (R52). -/
theorem State.Restores.restored {s t : State} (h : s.Restores t) :
    t.supervised = true ∧ t.supTimer = some (t.now + 10000 * t.config.interval) ∧ t.store = s.store
      ∧ t.lapseInHand = s.lapseInHand := by
  obtain ⟨bl, w, _, _, _, _, h₅, h₆⟩ := h
  have notices : ∀ x : State, x.Steady (x.noticeAll .supervisionRestored) := fun x => ⟨rfl, rfl, rfl, rfl, rfl, rfl⟩
  have k := ((foldl_enqueue_steady _ _).trans (notices _)).trans (h₅.steady.trans h₆.steady)
  refine ⟨k.supervised.trans rfl, ?_, k.store.trans rfl, k.lapse.trans rfl⟩
  rw [k.supTimer, k.now, k.config]; rfl

end Sys2Proof.Machine
end

