-- ==== Sys2Proof/Tests/Slice0.lean ====
section
/-!
SUPPORT. Tests: ill-formed commands refused, frames written out from section 10.6, single steps of the worked sequences
of the manual with the manual's own figures, and for the statements of Certificates/Slice0 a state and operands that meet
the hypotheses of each of their clauses, with an outcome of each relation that a clause speaks through.
-/

namespace Sys2Proof.Tests

open Sys2Proof Sys2Proof.Machine

set_option Elab.async false

/-! ## Well-formed commands: one ill-formed command for each check -/

/-- R173: a page said to fail its check must fail it. -/
theorem test_wf_por : Instr.wf (.por (.failing (Tab.replicate 32 0) 65535)) = false := by decide +kernel

/-- FFh is the code of no programme, so 255 is none. -/
theorem test_wf_seize : Instr.wf (.seize (.desk 0) 0 40 1 (some 255)) = false
    ∧ Instr.wf (.seize (.desk 0) 0 65536 1 none) = false ∧ Instr.wf (.seize (.desk 0) 0 40 256 none) = false := by
  decide

/-- Two-byte fields. -/
theorem test_wf_words : Instr.wf (.cancelWait .m 0 65536) = false ∧ Instr.wf (.demandTest .m 0 65536 0) = false
    ∧ Instr.wf (.lineState .x 0 65536 0) = false ∧ Instr.wf (.lineStateIdleRange .x 0 65536 0) = false
    ∧ Instr.wf (.lineStateIdleRange .x 0 0 65536) = false ∧ Instr.wf (.intrude .x 0 65536) = false
    ∧ Instr.wf (.intrudeCancel .x 0 65536) = false ∧ Instr.wf (.queryLine .m 0 65536) = false
    ∧ Instr.wf (.ticketHand .m 0 65536 0) = false ∧ Instr.wf (.ticketHand .m 0 0 65536) = false
    ∧ Instr.wf (.ticketClear .m 0 65536) = false ∧ Instr.wf (.ticketPurge .m 0 65536) = false
    ∧ Instr.wf (.queryTicket .m 0 (.byNumber 65536)) = false ∧ Instr.wf (.queryTicket .m 0 (.byLine 65536 0)) = false
    ∧ Instr.wf (.ticketNote (.desk 0) 0 65536 0) = false ∧ Instr.wf (.ticketNote (.desk 0) 0 0 65536) = false
    ∧ Instr.wf (.setClock .m 0 65536 0 0 0) = false ∧ Instr.wf (.settingsRead .m 0 65536) = false
    ∧ Instr.wf (.settingsWrite .m 0 65536 (Tab.replicate 32 0)) = false
    ∧ Instr.wf (.sweepSet .m 0 65536 0 0 0 0 0) = false ∧ Instr.wf (.sweepSet .m 0 0 65536 0 0 0 0) = false
    ∧ Instr.wf (.sweepSet .m 0 0 0 65536 0 0 0) = false ∧ Instr.wf (.sweepSet .m 0 0 0 0 65536 0 0) = false
    ∧ Instr.wf (.sweepSet .m 0 0 0 0 0 0 65536) = false := by
  decide

/-- One-byte fields. -/
theorem test_wf_bytes : Instr.wf (.demandTest .m 0 0 256) = false ∧ Instr.wf (.terminate (.desk 0) 0 256 0) = false
    ∧ Instr.wf (.terminate (.desk 0) 0 0 256) = false ∧ Instr.wf (.release (.desk 0) 0 256) = false
    ∧ Instr.wf (.run (.desk 0) 0 256 0 none) = false ∧ Instr.wf (.run (.desk 0) 0 0 256 none) = false
    ∧ Instr.wf (.run (.desk 0) 0 0 0 (some 256)) = false ∧ Instr.wf (.abort (.desk 0) 0 256) = false
    ∧ Instr.wf (.keep (.desk 0) 0 256) = false ∧ Instr.wf (.lineState .x 0 0 256) = false
    ∧ Instr.wf (.queryBus .m 0 256) = false ∧ Instr.wf (.queryMu .m 0 256) = false
    ∧ Instr.wf (.queryTicket .m 0 (.byLine 0 256)) = false ∧ Instr.wf (.ticketList .m 0 256) = false
    ∧ Instr.wf (.setClock .m 0 0 256 0 0) = false ∧ Instr.wf (.setClock .m 0 0 0 256 0) = false
    ∧ Instr.wf (.setClock .m 0 0 0 0 256) = false ∧ Instr.wf (.sweepSet .m 0 0 0 0 0 256 0) = false
    ∧ Instr.wf (.querySweep .m 0 256 none) = false ∧ Instr.wf (.querySweep .m 0 1 (some 256)) = false := by
  decide

/-- R101: the meter reads at most 500,000 nC, and stands there when it saturated. -/
theorem test_wf_settleEnd : Instr.wf (.settleEnd 0 500001 false) = false ∧ Instr.wf (.settleEnd 0 499999 true) = false
    ∧ Instr.wf (.settleEnd 0 500000 true) = true ∧ Instr.wf (.settleEnd 0 500000 false) = true := by
  decide

/-! ## Frames of section 10.6, byte by byte -/

/-- SEIZE of line 40 with MU and no programme, tag 11h: A5h, length 6, kind 01h, tag, 0028h, 01h, FFh, and the check that
brings the sum from the length byte on to 0 modulo 256 (6 + 1 + 17 + 40 + 1 + 255 = 320, and C0h = 192 more is 512). -/
theorem test_frame_seize : (Instr.seize (.desk 0) 0x11 40 1 none).frame
    = some [0xA5, 0x06, 0x01, 0x11, 0x00, 0x28, 0x01, 0xFF, 0xC0] := by decide +kernel

/-- QUERY_STATUS has no payload: length 2, kind 1Bh, tag 05h, check DEh. -/
theorem test_frame_queryStatus : (Instr.queryStatus .x 0x05).frame = some [0xA5, 0x02, 0x1B, 0x05, 0xDE] := by
  decide +kernel

/-- Orders on a held bus (kinds 03h to 07h). -/
theorem test_decode_bus_orders :
    decodeOrder (.desk 1) 9 0x03 [2, 1] = some (.terminate (.desk 1) 9 2 1)
    ∧ decodeOrder (.desk 1) 9 0x04 [2] = some (.release (.desk 1) 9 2)
    ∧ decodeOrder (.desk 1) 9 0x05 [2, 15] = some (.run (.desk 1) 9 2 15 none)
    ∧ decodeOrder (.desk 1) 9 0x05 [2, 15, 0] = some (.run (.desk 1) 9 2 15 (some 0))
    ∧ decodeOrder (.desk 1) 9 0x06 [2] = some (.abort (.desk 1) 9 2)
    ∧ decodeOrder (.desk 1) 9 0x07 [2] = some (.keep (.desk 1) 9 2)
    ∧ decodeOrder .m 9 0x02 [7, 0xFF] = some (.cancelWait .m 9 2047) := by decide +kernel

/-- Orders from the exchange and queries (kinds 10h to 1Bh). -/
theorem test_decode_exchange_orders :
    decodeOrder .x 9 0x10 [4, 0x4C, 1] = some (.lineState .x 9 1100 1)
    ∧ decodeOrder .x 9 0x11 [0, 0, 7, 0xFF] = some (.lineStateIdleRange .x 9 0 2047)
    ∧ decodeOrder .x 9 0x13 [4, 0x4C] = some (.intrudeCancel .x 9 1100)
    ∧ decodeOrder .x 9 0x14 [] = some (.supervise .x 9)
    ∧ decodeOrder .m 9 0x18 [2, 3] = some (.queryLine .m 9 515)
    ∧ decodeOrder .m 9 0x19 [3] = some (.queryBus .m 9 3)
    ∧ decodeOrder .m 9 0x1A [1] = some (.queryMu .m 9 1) := by decide +kernel

/-- Ticket orders (kinds 20h to 26h). -/
theorem test_decode_ticket_orders :
    decodeOrder .m 9 0x20 [] = some (.ticketNext .m 9)
    ∧ decodeOrder .m 9 0x21 [3, 0x2C, 0, 77] = some (.ticketHand .m 9 812 77)
    ∧ decodeOrder .m 9 0x22 [3, 0x2C] = some (.ticketClear .m 9 812)
    ∧ decodeOrder .m 9 0x23 [3, 0x2C] = some (.ticketPurge .m 9 812)
    ∧ decodeOrder .m 9 0x24 [3, 0x2C] = some (.queryTicket .m 9 (.byNumber 812))
    ∧ decodeOrder .m 9 0x25 [255] = some (.ticketList .m 9 255)
    ∧ decodeOrder (.desk 2) 9 0x26 [3, 0x2C, 1, 2] = some (.ticketNote (.desk 2) 9 812 258) := by decide +kernel

/-- Orders on the clock, the sweep, the settings and the part (kinds 31h to 3Ah). -/
theorem test_decode_centre_orders :
    decodeOrder .m 9 0x31 [0, 60, 1, 44, 3, 0xE8, 3, 0xEF, 0, 0, 5] = some (.sweepSet .m 9 60 300 1000 1007 0 5)
    ∧ decodeOrder .m 9 0x32 [] = some (.sweepEnable .m 9) ∧ decodeOrder .m 9 0x33 [] = some (.sweepDisable .m 9)
    ∧ decodeOrder .m 9 0x34 [] = some (.sweepHold .m 9) ∧ decodeOrder .m 9 0x35 [] = some (.sweepResume .m 9)
    ∧ decodeOrder .m 9 0x36 [] = some (.sweepNewPass .m 9)
    ∧ decodeOrder .m 9 0x37 [1] = some (.querySweep .m 9 1 none)
    ∧ decodeOrder .m 9 0x37 [1, 16] = some (.querySweep .m 9 1 (some 16))
    ∧ decodeOrder .m 9 0x38 (1 :: 105 :: List.replicate 32 0)
      = some (.settingsWrite .m 9 361 (Tab.replicate 32 0))
    ∧ decodeOrder .m 9 0x39 [0, 105] = some (.settingsRead .m 9 105)
    ∧ decodeOrder .m 9 0x3A [] = some (.restart .m 9) := by decide +kernel

/-! ## Arithmetic: the worked cases of chapter 5 -/

/-- 5.2: the means of the table, N = 4. -/
theorem test_mean : [13800, 13801, 13802, 13798, -13800, -13798, -13801].map (fun x => meanOf x 4)
    = [3450, 3450, 3451, 3450, -3450, -3449, -3450] := by decide

/-- 5.3: the three worked AC voltages. -/
theorem test_rms : (([100, -100, 100, -100].foldl Accum.add {}).rms = 100)
    ∧ (([300, 500, 300, 100].foldl Accum.add {}).rms = 141) ∧ (([1, 2].foldl Accum.add {}).rms = 0) := by
  decide +kernel

/-- 5.4: insulation with foreign voltage, negative source, stepped up, stepped down, open, short, the limit. -/
theorem test_resistance :
    resistance 100000 (resInputs 120 3450 100) = ⟨50840, false, false⟩
    ∧ resistance 100000 (resInputs (-80) (-5210) (-100)) = ⟨107098, false, false⟩
    ∧ resistance 1000000 (resInputs 20 7700 100) = ⟨3339130, false, false⟩
    ∧ resistance 10000 (resInputs 0 1973 100) = ⟨2458, false, false⟩
    ∧ resistance 1000000 (resInputs 15 9998 100) = ⟨1000000000, true, false⟩
    ∧ resistance 10000 (resInputs 310 305 50) = ⟨0, false, true⟩
    ∧ resistance 1000000 (resInputs 0 11990 120) = ⟨1000000000, true, false⟩
    ∧ resistance 100000 (resInputs 10200 10150 100) = ⟨1000000000, true, false⟩ := by decide +kernel

/-- 5.4: the range tests of the worked cases. -/
theorem test_rangeTest : rangeTest (resInputs 120 3450 100) .r100k = none
    ∧ rangeTest (resInputs 20 9710 100) .r100k = some .r1m ∧ rangeTest (resInputs 0 240 100) .r100k = some .r10k
    ∧ rangeTest (resInputs 310 305 50) .r100k = some .r10k := by decide

/-- 5.5: capacitance and distance. -/
theorem test_capacitance : capacitance 13750 50 = 275 ∧ distanceOf 275 50 = 5500 ∧ distanceOf 275 45 = 6111
    ∧ capacitance 500000 50 = 10000 ∧ distanceOf 10000 50 = 99999 ∧ distanceLimited 10000 50 = true := by decide

/-- 4.4: RES stored with −4 V, settle 5 ms and 40 samples runs at −10 V, 10 ms, 32 samples. -/
theorem test_clamps : snapStep ⟨.res, 0, -4, .auto, 5, 40⟩ = ⟨.res, .ab, -10, .auto, 10, 32⟩ := by decide +kernel

/-- 5.4 and 2.8: 50,840 Ω is MARGINAL by the default limits; |mean| 9120 is HAZARD. -/
theorem test_verdicts : judgeStep {} .res 50840 = .marginal ∧ judgePrecheck {} 9120 0 false = .hazard
    ∧ judgePrecheck {} 7999 (-7999) false = .pass ∧ judgePrecheck {} 0 (-8000) false = .hazard := by decide

/-- R165: the check of 32 zero bytes is 65535; an array never written reads FFh everywhere, and its pages are bad. -/
theorem test_page_check : pageCheck (Tab.replicate 32 0) = 65535 ∧ pageGood blankPage.data blankPage.check = false := by
  decide +kernel

/-- R72: after POR the standard line test stands in programme 0, eight steps, and no other programme has any. -/
theorem test_default_library : (State.reset.library.get 0).count = 8 ∧ (State.reset.library.get 1).count = 0 := by
  decide +kernel

/-! ## Single steps of the worked sequences -/

/-- The state a command leads to. -/
def after (i : Instr) (s : State) : State :=
  match exec i s with
  | .next t => t
  | .refused _ => State.reset

/-- A part RUNNING, X UNSUPERVISED, nothing written or waiting. -/
def running : State := { State.reset with store := { State.reset.store with phase := .running } }

/-- The same with X SUPERVISED, its timer due at 10 s. -/
def supervised : State := { running with supervised := true, supTimer := some 100000 }

/-- A line's call state. -/
def calls (l : LineId) (c : CallState) (s : State) : State := s.updLine l fun r => { r with callState := c }

/-- A bus with a record, its line on it and blocked. -/
def holding (b : BusId) (l : LineId) (r : BusRec) (s : State) : State :=
  (s.updBus b fun _ => { r with line := some l }).updLine l fun r => { r with onBus := some b, blocked := true }

/-- What stands in a port's queue. -/
def told (p : Port) (s : State) : List ReportBody := (s.port p).queue.map Report.body

/-- A bus HELD by a desk with a termination and perhaps a unit. -/
def heldBy (d : DeskId) (t : Termination) (u : Option MuId) : BusRec :=
  { state := .held, holder := some (.desk d), holderTag := some (.order 1), termination := t, boundMu := u
    talkPair := t == .talk }

/-- A unit ATTACHED to a bus. -/
def attached (b : BusId) : MuRec := { state := .attached, bus := some b }

/-- Reports standing in a queue. -/
def filled (p : Port) (n : Nat) (s : State) : State :=
  s.updPort p fun r => { r with queue := List.replicate n ⟨false, false, 0, .supervisionRestored⟩ }

/-- 2.8 at t = 0: D0 SEIZE line 40, MU: TB0 and MU0; BLOCK 40 to X. -/
theorem test_seize :
    let s := (calls 40 .idle supervised).updMu 0 fun m => { m with state := .ready }
    let t := after (.seize (.desk 0) 0x11 40 1 none) s
    (t.bus 0).state = .operating ∧ (t.bus 0).boundMu = some 0 ∧ (t.mu 0).state = .attached
      ∧ (t.line 40).onBus = some 0 ∧ (t.line 40).blocked = true ∧ told .x t = [.block 40 (some 0)]
      ∧ told (.desk 0) t = [.reply 0x01 .accepted (.bus 0)] := by decide +kernel

/-- 2.8 at t = 20: D1 SEIZE local 3, TALK, is line 515. -/
theorem test_seize_talk :
    let t := after (.seize (.desk 1) 0x12 3 2 none) (calls 515 .idle supervised)
    (t.bus 0).line = some 515 ∧ (t.bus 0).talkPair = true ∧ (t.bus 0).boundMu = none := by decide +kernel

/-- 2.8 at t = 12: BUS_GRANTED to D0 and HELD. -/
theorem test_operateCompletion :
    let s := holding 0 40 { heldBy 0 .mu (some 0) with state := .operating, relayDue := some 120 } supervised
    let t := after (.operateCompletion 0) (s.updMu 0 fun _ => attached 0)
    t.now = 120 ∧ (t.bus 0).state = .held
      ∧ told (.desk 0) t = [.busGranted 0 ⟨40, false⟩ .mu (some 0)] := by decide +kernel

/-- 2.9 at t = 0: DEMAND_TEST 700 with programme 4. -/
theorem test_demandTest :
    let s := { calls 700 .idle supervised with library := supervised.library.set 4 { count := 1 } }
    let t := after (.demandTest .m 0x21 700 4) s
    (t.bus 0).holder = some .mc ∧ (t.bus 0).grantProgramme = some 4 ∧ (t.mu 0).state = .warming := by decide +kernel

/-- 2.9 at t = 5: LINE_STATE BUSY on an MC hold in OPERATING: release pending LINE_BUSY. -/
theorem test_lineState :
    let s := holding 2 700 { state := .operating, holder := some .mc, holderTag := some (.order 0x21) } supervised
    let t := after (.lineState .x 0x31 700 1) s
    (t.bus 2).state = .operating ∧ (t.bus 2).releasePending = some .lineBusy ∧ (t.line 700).callState = .busy := by
  decide +kernel

/-- 2.9 at t = 22: UNBLOCK 700, then INTRUDE_ANSWER GRANTED to X; BUS_RELEASED LINE_BUSY to M; FREE. -/
theorem test_releaseCompletion :
    let s := holding 2 700
      { state := .releasing, holder := some .mc, holderTag := some (.order 0x21), releasePending := some .lineBusy
        owed := some .granted, intrudeTag := some 0x32, relayDue := some 220 } supervised
    let t := after (.releaseCompletion 2) s
    (t.bus 2).state = .free ∧ (t.line 700).blocked = false
      ∧ told .x t = [.unblock 700 2, .intrudeAnswer .granted]
      ∧ told .m t = [.busReleased (some .lineBusy) 2 ⟨700, false⟩] := by decide +kernel

/-- 3.5 at 0.0: INTRUDE 1100 on D2's TALK: PENDING to 10.0 s, INTRUSION TB1, line 76, grace 10, protected 0. -/
theorem test_intrude :
    let t := after (.intrude .x 31 1100) (holding 1 1100 (heldBy 2 .talk none) supervised)
    (t.bus 1).intrusion = .pending 100000 ∧ told (.desk 2) t = [.intrusion 1 ⟨76, false⟩ 10 false] := by decide +kernel

/-- 3.5 at 3.2: KEEP: KEPT, and DENIED to X. -/
theorem test_keep :
    let s := holding 1 1100 { heldBy 2 .talk none with intrusion := .pending 100000, intrudeTag := some 31 } supervised
    let t := after (.keep (.desk 2) 5 1) s
    (t.bus 1).intrusion = .kept ∧ told .x t = [.intrudeAnswer .denied] := by decide +kernel

/-- R57, R51: a KEEP whose DENIED finds X's queue full: DENIED stands alone, TB0 of MC is RELEASING, M hears of the lapse. -/
theorem test_keep_overflow :
    let s := holding 0 40 { heldBy 0 .none none with holder := some .mc }
      (holding 1 1100 { heldBy 2 .talk none with intrusion := .pending 100000, intrudeTag := some 31 } (filled .x 32 supervised))
    let t := after (.keep (.desk 2) 5 1) s
    told .x t = [.intrudeAnswer .denied] ∧ t.supervised = false ∧ (t.bus 0).state = .releasing ∧ t.lapseInHand = none
      ∧ told .m t = [.supervisionLost .overflow] := by decide +kernel

/-- R20: the last line of D0's window and the first beyond it, the first line of D3's window and the last before it. -/
theorem test_lineFor :
    running.lineFor (.desk 0) 511 = ⟨511, false⟩ ∧ running.lineFor (.desk 0) 512 = ⟨512, true⟩
      ∧ running.lineFor (.desk 3) 1536 = ⟨0, false⟩ ∧ running.lineFor (.desk 3) 1535 = ⟨1535, true⟩ := by decide +kernel

/-- 3.6, first variant: INTRUDE_CANCEL while PENDING: WITHDRAWN to X, INTRUSION_WITHDRAWN to D0. -/
theorem test_intrudeCancel :
    let s := holding 0 40 { heldBy 0 .mu none with intrusion := .pending 110000, intrudeTag := some 50 } supervised
    let t := after (.intrudeCancel .x 51 40) s
    (t.bus 0).intrusion = .none ∧ told (.desk 0) t = [.intrusionWithdrawn 0 ⟨40, false⟩]
      ∧ told .x t = [.reply 0x13 .accepted .none, .intrudeAnswer .withdrawn] := by decide +kernel

/-- 3.6 at 11.0: the grace runs out in a phase with the source on: INTRUDED, DISCHARGING, DRAINING, GRANTED owed. -/
theorem test_graceExpiry :
    let c : Context :=
      { programme := 0, steps := [], cls := 0, classRec := {}, holder := .desk 0, tag := .order 1, bus := 0, line := 40
        ticket := false, stepIndex := 6, sourceApplied := true, results := [] }
    let s := (holding 0 40 { heldBy 0 .mu (some 0) with intrusion := .pending 110000, intrudeTag := some 50 }
      supervised).updMu 0 fun _ => { attached 0 with state := .measuring, context := some c, source := some 100 }
    let t := after (.graceExpiry 0) s
    (t.bus 0).state = .draining ∧ (t.bus 0).owed = some .granted ∧ (t.mu 0).state = .discharging
      ∧ (t.mu 0).discharge = some 111000 ∧ (t.mu 0).source = none := by decide +kernel

/-- 3.7 at 14.0: SUPERVISE restores: RESYNC_BEGIN, BLOCK 40 TB0, RESYNC_END, then the REPLY. -/
theorem test_supervise :
    told .x (after (.supervise .x 7) (holding 0 40 (heldBy 0 .talk none) running))
      = [.resyncBegin, .block 40 (some 0), .resyncEnd, .reply 0x14 .accepted .none] := by decide +kernel

/-- 3.7 at 10.0: line 515 BUSY becomes UNKNOWN, SUPERVISION_LOST TIMEOUT to D0. -/
theorem test_supervisionTimerExpiry :
    let t := after .supervisionTimerExpiry (calls 515 .busy supervised)
    t.supervised = false ∧ (t.line 515).callState = .unknown ∧ told (.desk 0) t = [.supervisionLost .timeout]
      ∧ told .x t = [] := by decide +kernel

/-- 2.8 at t = 200: RUN programme 0: MEASURING, the precheck's leg A-E, 45 ms of head set-up. -/
theorem test_run :
    let s := (holding 0 40 (heldBy 0 .mu (some 0)) supervised).updMu 0 fun _ => attached 0
    let t := after (.run (.desk 0) 3 0 0 none) s
    (t.mu 0).state = .measuring ∧ ((t.mu 0).context.map fun c => (c.stepIndex, c.phase, c.due, c.steps.length, c.ticket))
      = some (0, .legAe, 450, 8, true) := by decide +kernel

/-- 2.8 at t = 4300: RELEASE with MU0 ATTACHED: RELEASING, MU0 READY with its standby delay of 15 min running. -/
theorem test_release :
    let s := (holding 0 40 (heldBy 0 .mu (some 0)) supervised).updMu 0 fun _ => attached 0
    let t := after (.release (.desk 0) 4 0) { s with now := 43000 }
    (t.bus 0).state = .releasing ∧ (t.bus 0).relayDue = some 43100 ∧ (t.mu 0).state = .ready
      ∧ (t.mu 0).standby = some 9043000 := by decide +kernel

/-- 2.8 at t = 2209: DISCHARGE_END of a HELD bus: ATTACHED. -/
theorem test_dischargeEnd :
    let s := (holding 0 40 (heldBy 0 .mu (some 0)) supervised).updMu 0 fun _ =>
      { attached 0 with state := .discharging, discharge := some 22090, switchPair := some .ab }
    let t := after (.dischargeEnd 0) s
    (t.mu 0).state = .attached ∧ (t.mu 0).switchPair = none ∧ t.now = 22090 := by decide +kernel

/-- R91: a sample beyond ±20000 enters as 20000 and sets the clip flag. -/
theorem test_sampleArrival :
    let c : Context :=
      { programme := 0, steps := [], cls := 0, classRec := {}, holder := .desk 0, tag := .order 1, bus := 0, line := 40
        ticket := false, stepIndex := 0, stage := .sampling, results := [] }
    let s := (holding 0 40 (heldBy 0 .mu (some 0)) supervised).updMu 0 fun _ =>
      { attached 0 with state := .measuring, context := some c }
    ((after (.sampleArrival 0 20001) s).mu 0).context.map Context.acc = some ⟨1, 20000, 400000000, true⟩ := by
  decide +kernel

/-- A ticket of the worked example of 7.4: number 812, line 1210, FOREIGN_DC. -/
def ticket812 : Ticket :=
  ⟨812, 1210, .foreignDc, .major, .opened, .rs, ⟨500, 4200, true⟩, ⟨500, 34200, true⟩, 2, 1180, some .ae, none, 0, none, none, none,
    none⟩

/-- A state with a ticket in a slot. -/
def holds (n : SlotId) (t : Ticket) (s : State) : State := { s with tickets := s.tickets.set n (some t) }

/-- 7.4: M hands ticket 812 to assignee 77; its slot's write begins. -/
theorem test_ticketHand :
    let t := after (.ticketHand .m 9 812 77) (holds 18 ticket812 running)
    ((t.slot 18).map fun x => (x.state, x.assignee)) = some (.handed, some 77)
      ∧ (t.store.inFlight.map fun w => (w.page.val, w.due)) = some (124, 50) := by decide +kernel

/-- 7.4, the last two rows: a second pass in a row clears by AUTO when the clear passes are 2. -/
theorem test_pass_clears :
    let s := holds 18 { ticket812 with state := .handed, repeats := 3, passes := 1 } running
    (((s.applyPass 1210 .foreignDc 2 ⟨502, 42300, true⟩).slot 18).map fun x => (x.state, x.passes, x.clearedBy))
      = some (.cleared, 2, some .auto) := by decide +kernel

/-- 8.7 at 01:00:00: the minute 60 makes the state ACTIVE; 1210 of the retest list is granted, 300 keeps its place. -/
theorem test_clockAdvance :
    let s := { calls 1210 .idle supervised with
      retest := [1210, 300], clock := ⟨600, 3599, true, 10000⟩
      sweep := { State.reset.sweep with enabled := true, cursor := 1000, lastState := .waiting } }
    let t := after .clockAdvance s
    t.sweep.lastState = .active ∧ t.retest = [300] ∧ (t.bus 0).holder = some .rs ∧ (t.bus 0).line = some 1210
      ∧ (t.line 1210).lastRoutine = some 600 ∧ t.sweep.tested = 1 ∧ t.sweep.pacing = some 60000 := by decide +kernel

/-- R149: SET_CLOCK to day 600, 23:59:00. -/
theorem test_setClock : (after (.setClock .m 5 600 23 59 0) running).clock = ⟨600, 86340, true, 10000⟩ := by
  decide +kernel

/-- R167: the first page of an array never written is bad and counts in the configuration area. -/
theorem test_autoloadPageRead :
    let t := after .autoloadPageRead State.reset
    t.store.bad = ⟨1, 0, 0, 0, 0⟩ ∧ t.store.loadIndex = 1 ∧ t.now = 1 := by decide +kernel

/-- R169: a settings write accepted with no page in flight begins at once and takes 5 ms. -/
theorem test_settingsWrite :
    ((after (.settingsWrite .m 6 4 (Tab.replicate 32 0)) running).store.inFlight.map fun w => (w.page.val, w.due))
      = some (4, 50) := by decide +kernel

/-- 10.3: with 24 reports in D1's queue a notice takes an entry; with 25 it is dropped and the marker set. -/
theorem test_notices :
    let body := ReportBody.supervisionRestored
    let s := (filled (.desk 1) 24 running).pushNotice (.desk 1) body
    let t := (filled (.desk 1) 25 running).pushNotice (.desk 1) body
    s.freeEntries (.desk 1) = 7 ∧ (s.port (.desk 1)).lost = false
      ∧ t.freeEntries (.desk 1) = 7 ∧ (t.port (.desk 1)).lost = true := by decide +kernel

/-- R180: QUERY_STATUS reports the marker and the entries free at the order, and clears the marker. -/
theorem test_queryStatus :
    let t := after (.queryStatus (.desk 1) 8) ((filled (.desk 1) 26 running).markLost (.desk 1))
    (t.port (.desk 1)).lost = false ∧ (told (.desk 1) t).getLast? = some (.reply 0x1B .accepted (.status true 6 false false))
      := by decide +kernel

/-- R178: with one entry free an order has no effect but the marker. -/
theorem test_discard :
    let t := after (.queryStatus (.desk 1) 8) (filled (.desk 1) 31 running)
    (t.port (.desk 1)).lost = true ∧ t.freeEntries (.desk 1) = 1 := by decide +kernel

/-- R181: a port reset of D1 empties its queue and clears its marker. -/
theorem test_portReset :
    let t := after (.portReset (.desk 1)) ((filled (.desk 1) 26 running).markLost (.desk 1))
    t.port (.desk 1) = ⟨.hunting, [], false, true⟩ := by decide +kernel

/-- R182: RESTART with nothing held and nothing to write goes through to the autoload. -/
theorem test_restart :
    let t := after (.restart .m 2) supervised
    t.store.phase = .loading ∧ t.store.resetCause = .restart ∧ t.supTimer = none := by decide +kernel

/-- R69: the lowest READY unit is bound before a STANDBY one, which warms up for 1.5 s. -/
theorem test_warmUpEnd :
    let s := (holding 0 40 (heldBy 0 .mu (some 1)) supervised).updMu 1 fun _ =>
      { state := .warming, bus := some 0, warmUp := some 15500 }
    let t := after (.warmUpEnd 1) s
    (t.mu 1).state = .attached ∧ t.now = 15500 := by decide +kernel

/-- The state a step leads to. -/
def stepped (s : State) : State :=
  match step s with
  | .next t => t
  | .refused _ => State.reset

/-- The step takes the front command; the idle part lets 0.1 ms pass (log 2). -/
theorem test_step :
    let t := stepped { running with pending := [.queryStatus .m 1, .passEnd] }
    t.pending = [.passEnd] ∧ (told .m t).length = 1 ∧ (stepped running).now = 1 := by decide +kernel

/-! ## For each statement, a state and operands that meet the hypotheses of each of its clauses

The laws of the records at states in which something stands, and states in which orders are handled. -/

theorem settled_of {s : State} (h₁ : s.lapseInHand = none) (h₂ : s.store = running.store) : s.Settled where
  noLapse := h₁
  notQuiet := by rw [h₂]; intro h; cases h
  serviceIdle := by rw [h₂]; exact .inr (.inr ⟨rfl, by decide +kernel⟩)
  notDrained := by rw [h₂]; intro h; cases h

theorem hears_of {s : State} {p : Port} (h₁ : s.lapseInHand = none) (h₂ : s.store = running.store)
    (h₃ : 2 ≤ s.freeEntries p) : s.Hears p :=
  ⟨settled_of h₁ h₂, by rw [h₂]; rfl, h₃⟩

theorem hears_running (p : Port) : running.Hears p :=
  hears_of rfl rfl (by simp [State.freeEntries, State.port, running, State.reset, queueCapacity])

theorem hears_supervised (p : Port) : supervised.Hears p :=
  hears_of rfl rfl (by simp [State.freeEntries, State.port, supervised, running, State.reset, queueCapacity])

theorem hearsX_supervised : supervised.HearsX := ⟨hears_supervised .x, rfl⟩

/-- Whether a command or a step goes on. -/
def goesOn (o : Answer) : Bool :=
  match o with
  | .next _ => true
  | .refused _ => false

theorem next_of_goesOn {o : Answer} (h : goesOn o = true) : ∃ t, o = .next t := by
  cases o with
  | next t => exact ⟨t, rfl⟩
  | fault f => cases f
  | refused r => cases h

theorem test_witness_StepTakesTheFrontCommand : running.pending = [] := rfl

/-- D0 holds TB0 on line 40 and a RELEASE waits. -/
def oneHold : State :=
  { holding 0 40 (heldBy 0 .talk none) supervised with pending := [.release (.desk 0) 1 0] }

theorem test_witness_BusesAndLinesStayInAgreement : oneHold.BusesAgree ∧ ∃ t, step oneHold = .next t := by
  refine ⟨⟨fun l b => ?_, fun l => ?_⟩, next_of_goesOn (by decide +kernel)⟩
  · simp only [oneHold, holding, State.line, State.bus, State.updLine, State.updBus, Tab.get_set, supervised, running,
      State.reset, Tab.get_replicate, heldBy]
    split <;> split <;> simp_all
  · simp only [oneHold, holding, State.line, State.updLine, State.updBus, Tab.get_set, supervised, running,
      State.reset, Tab.get_replicate]
    split <;> rfl

/-- D3 waits for line 1545, and its deadline's expiry stands in front. -/
def oneWait : State :=
  { supervised.updLine 1545 (waitFlag true) with
    waitQueue := [⟨⟨.desk 3, .order 2, 1545, .mu, none⟩, 301000⟩], pending := [.waitDeadlineExpiry 1545] }

theorem test_witness_WaitQueueStaysLawful : oneWait.WaitsAgree ∧ ∃ t, step oneWait = .next t := by
  refine ⟨⟨by decide, by decide, by decide, ?_, fun l => ?_⟩, next_of_goesOn (by decide +kernel)⟩
  · intro e he
    simp only [oneWait, List.mem_singleton] at he
    subst he
    decide +kernel
  · simp only [oneWait, State.line, State.updLine, waitFlag, Tab.get_set, supervised, running, State.reset,
      Tab.get_replicate]
    split <;> simp_all

theorem test_witness_TicketsListsAndQueuesStayInBounds :
    let s : State := { holds 18 ticket812 (filled .m 32 running) with retest := [1210, 300], pending := [.ticketNext .m 1] }
    s.TicketsInRange ∧ s.RetestBounded ∧ s.QueuesBounded ∧ ∃ t, step s = .next t := by
  refine ⟨⟨fun n t h => ?_, by decide⟩, ⟨by decide, by decide⟩, fun p => ?_, next_of_goesOn (by decide +kernel)⟩
  · simp only [holds, filled, State.slot, State.updPort, Tab.get_set, running, State.reset, Tab.get_replicate] at h
    split at h
    · cases h; exact ⟨by decide, by decide, by decide, by decide, by decide⟩
    · cases h
  · simp only [holds, filled, State.port, State.updPort, Tab.get_set, running, State.reset, Tab.get_replicate]
    split <;> simp

theorem test_witness_OrderPayloadsReadBack :
    (Instr.wf (.settingsWrite .m 9 65535 (Tab.replicate 32 255)) = true
      ∧ Instr.orderHead (.settingsWrite .m 9 65535 (Tab.replicate 32 255)) = some (.m, 9, .settingsWrite))
    ∧ (Instr.wf (.seize (.desk 3) 255 65535 255 (some 254)) = true
      ∧ Instr.orderHead (.seize (.desk 3) 255 65535 255 (some 254)) = some (.desk 3, 255, .seize)) := by decide

theorem test_witness_FrameBytesDoWhatTheOrderDoes :
    Instr.wf (.seize (.desk 0) 0x11 40 1 none) = true
    ∧ Instr.orderHead (.seize (.desk 0) 0x11 40 1 none) = some (.desk 0, 0x11, .seize)
    ∧ (Instr.seize (.desk 0) 0x11 40 1 none).frame = some [0xA5, 0x06, 0x01, 0x11, 0x00, 0x28, 0x01, 0xFF, 0xC0]
    ∧ supervised.Settled ∧ (supervised.port (.desk 0)).assembly = .hunting
    ∧ (supervised.port (.desk 0)).inBreak = false :=
  ⟨by decide, by decide, by decide +kernel, settled_of rfl rfl, rfl, rfl⟩

/-- The line of M at space after its port reset. -/
def broken : State := running.updPort .m fun r => { r with inBreak := true }

/-- A port with a receive assembly. -/
def assembling (a : Assembly) : State := running.updPort .m fun r => { r with assembly := a }

theorem test_witness_ReceiveAssemblyFollowsTheBytes :
    (broken.Settled ∧ (broken.port .m).inBreak = true)
    ∧ (running.Settled ∧ (running.port .m).inBreak = false ∧ (running.port .m).assembly = .hunting)
    ∧ ((assembling .started).Settled ∧ ((assembling .started).port .m).inBreak = false
      ∧ ((assembling .started).port .m).assembly = .started ∧ 8 ≤ (assembling .started).freeEntries .m
      ∧ (2 ≤ (2 : Byte).toNat ∧ (62 : Byte).toNat ≤ 62) ∧ (1 : Byte).toNat < 2 ∧ 62 < (63 : Byte).toNat)
    ∧ (let s := assembling (.assembling 2 [2, 0x1B])
      s.Settled ∧ (s.port .m).inBreak = false ∧ (s.port .m).assembly = .assembling 2 [2, 0x1B] ∧ 2 + 1 < 2 + 2)
    ∧ (let s := assembling (.assembling 2 [2, 0x1B, 5])
      s.Settled ∧ (s.port .m).inBreak = false ∧ (s.port .m).assembly = .assembling 2 [2, 0x1B, 5] ∧ 2 + 2 ≤ 3 + 1
        ∧ ([2, 0x1B, 5] ++ [0xDD] : List Byte).foldl (· + ·) 0 ≠ 0 ∧ 8 ≤ s.freeEntries .m) :=
  ⟨⟨settled_of rfl rfl, rfl⟩, ⟨settled_of rfl rfl, rfl, rfl⟩,
    ⟨settled_of rfl rfl, rfl, rfl, by decide +kernel, by decide, by decide, by decide⟩,
    ⟨settled_of rfl rfl, rfl, rfl, by decide⟩,
    ⟨settled_of rfl rfl, rfl, rfl, by decide, by decide, by decide +kernel⟩⟩

theorem settled_reset (s : State) (h₁ : s.lapseInHand = none) (h₂ : s.store.phase = .loading) : s.Settled where
  noLapse := h₁
  notQuiet := by rw [h₂]; intro h; cases h
  serviceIdle := .inl h₂
  notDrained := by rw [h₂]; intro h; cases h

theorem test_witness_LinksRefuseAndDiscardOrders :
    (let s := filled .x 31 running
     Instr.orderHead (.supervise .x 1) = some (.x, 1, .supervise) ∧ s.Settled ∧ s.freeEntries .x < 2)
    ∧ (let s := filled .m 30 running
      Instr.orderHead (.seize .m 1 40 1 none) = some (.m, 1, .seize) ∧ s.Settled ∧ 2 ≤ s.freeEntries .m
        ∧ Port.m ≠ .x ∧ orderPermits .seize .m = false)
    ∧ (Instr.orderHead (.supervise .x 1) = some (.x, 1, .supervise) ∧ State.reset.Settled ∧ 2 ≤ State.reset.freeEntries .x
      ∧ State.reset.store.phase ≠ .running ∧ orderPermits .supervise .x = true) :=
  ⟨⟨rfl, settled_of rfl rfl, by decide +kernel⟩, ⟨rfl, settled_of rfl rfl, by decide +kernel, by decide, rfl⟩,
    ⟨rfl, settled_reset _ rfl rfl, by decide +kernel, by decide, rfl⟩⟩

theorem test_witness_ReportsJoinTheQueue :
    ((filled .m 31 running).freeEntries .m ≠ 0)
    ∧ ((filled .m 32 running).freeEntries .m = 0 ∧ Port.m ≠ .x)
    ∧ (8 ≤ (filled .m 24 running).freeEntries .m ∧ (filled .m 25 running).freeEntries .m < 8)
    ∧ ((filled .x 32 running).freeEntries .x = 0 ∧ (filled .x 32 running).supervised = false)
    ∧ (let s := filled .x 32 { State.reset with supervised := true }
      s.freeEntries .x = 0 ∧ s.supervised = true ∧ s.store.phase ≠ .running)
    ∧ ((filled .x 32 supervised).freeEntries .x = 0 ∧ (filled .x 32 supervised).supervised = true
      ∧ (filled .x 32 supervised).store.phase = .running) := by decide +kernel

theorem test_witness_PortEventsClearThePort :
    (broken.Settled ∧ (broken.port .m).inBreak = true)
    ∧ (let s := holding 0 40 (heldBy 0 .talk none) running
      s.Settled ∧ (s.port .m).inBreak = false
        ∧ ∀ src, portSource? .m = some src → (∀ b, (s.bus b).holder ≠ some src) ∧ ∀ e ∈ s.waitQueue, e.req.source ≠ src)
    ∧ (running.Settled ∧ (running.port .x).inBreak = false ∧ portSource? .x = none ∧ running.supervised = false)
    ∧ (let s : State := { State.reset with supervised := true }
      s.Settled ∧ (s.port .x).inBreak = false ∧ s.supervised = true ∧ s.store.phase ≠ .running) := by
  refine ⟨⟨settled_of rfl rfl, rfl⟩, ⟨settled_of rfl rfl, rfl, ?_⟩, ⟨settled_of rfl rfl, rfl, rfl, rfl⟩,
    ⟨settled_reset _ rfl rfl, rfl, rfl, by decide⟩⟩
  intro src h
  cases h
  exact ⟨by decide +kernel, by simp [holding, running, State.reset, State.updLine, State.updBus]⟩

theorem test_witness_PorLeavesTheArray :
    State.reset.store.inFlight = none
    ∧ (let w : InFlight := ⟨124, Tab.replicate 32 1, 50⟩;
      { State.reset with store := { State.reset.store with inFlight := some w } }.store.inFlight = some w
        ∧ (125 : PageId) ≠ w.page) := by decide +kernel

/-! ### Queries -/

theorem test_witness_QueryLineReportsTheRecord :
    supervised.Hears (.desk 3) ∧ 511 < (supervised.config.windows.get 3).count
    ∧ (2047 : LineId).val = (supervised.config.windows.get 3).base + 511
    ∧ (supervised.config.windows.get 3).count ≤ 512
    ∧ (supervised.config.windows.get 3).base ≤ (1536 : LineId).val
    ∧ (511 : LineId).val < (supervised.config.windows.get 0).base + (supervised.config.windows.get 0).count
    ∧ (1535 : LineId).val < (supervised.config.windows.get 3).base
    ∧ (supervised.config.windows.get 0).base + (supervised.config.windows.get 0).count ≤ (512 : LineId).val
    ∧ supervised.Hears .m ∧ (2047 : LineId).val = 2047 ∧ 2047 < 2048 ∧ supervised.HearsX :=
  ⟨hears_supervised _, by decide, by decide, by decide, by decide, by decide, by decide, by decide, hears_supervised _, rfl,
    by decide, hearsX_supervised⟩

theorem test_witness_QueryBusReportsTheRecord :
    (Port.m ≠ .x ∧ supervised.Hears .m) ∧ (3 : BusId).val = 3 ∧ 3 < 4 :=
  ⟨⟨by decide, hears_supervised _⟩, rfl, by decide⟩

/-- A programme of D0 on line 40, at its precheck. -/
def precheck : Context :=
  { programme := 0, steps := [⟨.vdc, .ae, 10, .fixed .r10k, 100, 1⟩], cls := 0, classRec := {}, holder := .desk 0
    tag := .order 1, bus := 0, line := 40, ticket := false
    results := [⟨0, .vdc, .ae, .notRun, none, none, false, false, false, false, none, none⟩,
      ⟨1, .vdc, .ae, .notRun, none, none, false, false, false, false, none, none⟩] }

/-- TB0 HELD by D0 on line 40 with MU0 bound, the unit's record given. -/
def onUnit (m : MuRec) : State := (holding 0 40 (heldBy 0 .mu (some 0)) supervised).updMu 0 fun _ => m

/-- The same, MU0 MEASURING with a context. -/
def measuring (c : Context) : State := onUnit { attached 0 with state := .measuring, context := some c }

theorem hears_onUnit (m : MuRec) (p : Port) : (onUnit m).Hears p :=
  hears_of rfl rfl (hears_supervised p).room

theorem test_witness_QueryMuReportsTheUnit :
    (Port.desk 2 ≠ .x ∧ (measuring precheck).Hears (.desk 2)) ∧ (0 : MuId).val = 0
    ∧ ((measuring precheck).mu 0).state = .measuring ∧ ((measuring precheck).mu 0).context = some precheck
    ∧ (1 : MuId).val = 1 ∧ ((measuring precheck).mu 1).state ≠ .measuring ∧ 1 < 2 :=
  ⟨⟨by decide, hears_onUnit _ _⟩, rfl, rfl, rfl, rfl, by decide, by decide⟩

theorem test_witness_QueryStatusReportsAndClearsTheMarker :
    (let s := (filled .m 30 running).markLost .m
     Port.m ≠ .x ∧ s.Hears .m) ∧ supervised.HearsX :=
  ⟨⟨by decide, hears_of rfl rfl (by decide +kernel)⟩, hearsX_supervised⟩

/-- A table with one ticket, in slot 18. -/
def oneTicket (t : Ticket) : State := holds 18 t running

theorem hears_oneTicket (t : Ticket) (p : Port) : (oneTicket t).Hears p :=
  hears_of rfl rfl (hears_running p).room

theorem slot_oneTicket (t : Ticket) (j : SlotId) : (oneTicket t).slot j = if 18 = j then some t else none := by
  simp [oneTicket, holds, State.slot, Tab.get_set, running, State.reset]

theorem slot_running (j : SlotId) : running.slot j = none := by
  simp [State.slot, running, State.reset]

theorem slot_below {t : Ticket} {j : SlotId} (h : j < 18) : (oneTicket t).slot j = none := by
  rw [slot_oneTicket, if_neg (by rintro rfl; exact absurd h (by decide))]

theorem numberAt_oneTicket (t : Ticket) : (oneTicket t).NumberAt t.number 18 t :=
  ⟨by rw [slot_oneTicket, if_pos rfl], rfl, fun j h u hu => by rw [slot_below h] at hu; cases hu⟩

theorem ticketAt_oneTicket (t : Ticket) (h : t.state ≠ .cleared) : (oneTicket t).TicketAt t.line t.cls 18 t :=
  ⟨by rw [slot_oneTicket, if_pos rfl], rfl, rfl, h, fun j h u hu => by rw [slot_below h] at hu; cases hu⟩

theorem test_witness_QueryTicketFindsTheTicket :
    (let s := oneTicket ticket812
     (∀ p, s.Hears p) ∧ s.NumberAt 812 18 ticket812 ∧ s.TicketAt 1210 .foreignDc 18 ticket812
      ∧ ((s.config.windows.get 2).base ≤ 1210 ∧ 1210 < (s.config.windows.get 2).base + (s.config.windows.get 2).count)
      ∧ 1210 < (s.config.windows.get 3).base
      ∧ (s.config.windows.get 1).base + (s.config.windows.get 1).count ≤ 1210)
    ∧ (Port.m ≠ .x ∧ running.Hears .m ∧ ∀ j u, running.slot j = some u → u.number ≠ 812)
    ∧ (2047 < 2048 ∧ 6 < 7 ∧ (1210 : LineId).val = 1210 ∧ FaultClass.openLine.index.val = 6)
    ∧ ∀ j u, running.slot j = some u → ¬ (u.line = 1210 ∧ u.cls = .openLine ∧ u.state ≠ .cleared) :=
  ⟨⟨hears_oneTicket _, numberAt_oneTicket _, ticketAt_oneTicket _ (by decide), by decide +kernel, by decide +kernel,
      by decide +kernel⟩,
    ⟨by decide, hears_running _, fun j u h => by rw [slot_running] at h; cases h⟩, by decide,
    fun j u h => by rw [slot_running] at h; cases h⟩

theorem test_witness_TicketNextNamesTheNeediest : (oneTicket ticket812).Hears .m := hears_oneTicket _ _

theorem test_witness_TicketListWalksTheSlots :
    (oneTicket ticket812).Hears .m ∧ 255 < 256 ∧ 255 ≤ 255 ∧ (oneTicket ticket812).slot 18 = some ticket812 :=
  ⟨hears_oneTicket _ _, by decide, by decide, (numberAt_oneTicket _).1⟩

theorem test_witness_QuerySweepReportsRecordAndList : running.Hears .m ∧ 31 ≤ 31 ∧ 31 < 32 ∧ 1 < 2 :=
  ⟨hears_running _, by decide, by decide, by decide⟩

theorem test_witness_SettingsReadFormsThePage :
    (oneTicket ticket812).Hears .m ∧ (oneTicket ticket812).slot 18 = some ticket812
    ∧ (oneTicket ticket812).slot 17 = none ∧ (2047 : LineId).val = 32 * (63 : Fin 64).val + (31 : Fin 32).val
    ∧ 361 < 362 :=
  ⟨hears_oneTicket _ _, (numberAt_oneTicket _).1, slot_below (by decide), by decide, by decide⟩

/-! ### Requests for a bus -/

/-- Lines 40 and 700 IDLE, X SUPERVISED, both units STANDBY. -/
def idleLines : State := calls 700 .idle (calls 40 .idle supervised)

theorem hears_idleLines (p : Port) : idleLines.Hears p := hears_of rfl rfl (hears_supervised p).room

theorem admitted_idle (src : Source) (l : LineId) (t : Termination) (pr : Option ProgId)
    (h₁ : (idleLines.line l).callState = .idle) (h₂ : (idleLines.line l).onBus = none)
    (h₃ : (idleLines.line l).queued = false) (h₄ : (idleLines.line l).quarantined = false)
    (h₅ : idleLines.countOf src < idleLines.allowance src) (h₆ : pr = none ∨ pr = some 0) :
    idleLines.Admitted ⟨src, .order 1, l, t, pr⟩ where
  offBus := h₂
  notQueued := h₃
  quarantine := fun h => by rw [h₄] at h; cases h
  supervised := fun _ => rfl
  call := .inl h₁
  allowance := h₅
  programme := fun p h => by
    rcases h₆ with rfl | rfl
    · cases h
    · cases h; decide +kernel

theorem needsMet_mu (src : Source) (l : LineId) (pr : Option ProgId) :
    idleLines.NeedsMet ⟨src, .order 1, l, .mu, pr⟩ 0 (some 0) where
  bus := by refine ⟨rfl, ?_⟩; decide +kernel
  unit := .inl ⟨rfl, 0, rfl, .inr (by decide +kernel)⟩
  talk := nofun

theorem test_witness_RequestsAreGranted :
    idleLines.Room .x 1
    ∧ (idleLines.Hears (.desk 0) ∧ idleLines.NamesLine (.desk 0) 40 40
      ∧ (idleLines.Admitted ⟨.desk 0, .order 1, 40, .mu, some 0⟩
        ∧ idleLines.NeedsMet ⟨.desk 0, .order 1, 40, .mu, some 0⟩ 0 (some 0))
      ∧ idleLines.Admitted ⟨.desk 0, .order 1, 40, .talk, none⟩
        ∧ idleLines.NeedsMet ⟨.desk 0, .order 1, 40, .talk, none⟩ 0 none)
    ∧ (idleLines.Hears .m ∧ idleLines.NamesLine .m 700 700
      ∧ idleLines.Admitted ⟨.mc, .order 1, 700, .mu, some 0⟩
      ∧ idleLines.NeedsMet ⟨.mc, .order 1, 700, .mu, some 0⟩ 0 (some 0)) :=
  ⟨Nat.le_of_succ_le (hears_idleLines .x).room,
    ⟨hears_idleLines _, ⟨by decide +kernel, by decide +kernel⟩,
      ⟨admitted_idle _ _ _ _ (by decide +kernel) (by decide +kernel) (by decide +kernel) (by decide +kernel)
        (by decide +kernel) (.inr rfl), needsMet_mu _ _ _⟩,
      admitted_idle _ _ _ _ (by decide +kernel) (by decide +kernel) (by decide +kernel) (by decide +kernel)
        (by decide +kernel) (.inl rfl),
      ⟨by refine ⟨rfl, ?_⟩; decide +kernel, .inr ⟨by decide, rfl⟩, fun _ => by decide +kernel⟩⟩,
    ⟨hears_idleLines _, rfl,
      admitted_idle _ _ _ _ (by decide +kernel) (by decide +kernel) (by decide +kernel) (by decide +kernel)
        (by decide +kernel) (.inr rfl), needsMet_mu _ _ _⟩⟩

/-- Both units bound, and a wait queue of D1's and M's entries. -/
def noUnits (ds ms : List WaitEntry) : State :=
  { idleLines with units := Tab.replicate 2 (attached 3), waitQueue := ds ++ ms }

/-- Entries of a source. -/
def entries (src : Source) (n : Nat) : List WaitEntry :=
  (List.range n).map fun i => ⟨⟨src, .order 1, ⟨900 + i % 100, by omega⟩, .mu, none⟩, 500000⟩

theorem entries_source {src : Source} {n : Nat} {e : WaitEntry} (h : e ∈ entries src n) : e.req.source = src := by
  obtain ⟨i, -, rfl⟩ := List.mem_map.1 h
  rfl

theorem admitted_noUnits {ds ms : List WaitEntry} {q : Request} (h : idleLines.Admitted q)
    (hc : (noUnits ds ms).countOf q.source < (noUnits ds ms).allowance q.source) : (noUnits ds ms).Admitted q :=
  ⟨h.offBus, h.notQueued, h.quarantine, h.supervised, h.call, hc, h.programme⟩

theorem test_witness_RequestsWait :
    (∀ e ∈ entries (.desk 1) 6, ∃ d, e.req.source = .desk d) ∧ (∀ e ∈ entries .mc 1, e.req.source = .mc)
    ∧ (let s := noUnits (entries (.desk 1) 6) (entries .mc 1)
      s.Hears (.desk 0) ∧ s.NamesLine (.desk 0) 40 40 ∧ s.Admitted ⟨.desk 0, .order 1, 40, .mu, none⟩
        ∧ s.NeedsUnmet ⟨.desk 0, .order 1, 40, .mu, none⟩ ∧ s.waitQueue.length < 8
        ∧ s.Hears .m ∧ s.NamesLine .m 700 700 ∧ s.Admitted ⟨.mc, .order 1, 700, .mu, some 0⟩
        ∧ s.NeedsUnmet ⟨.mc, .order 1, 700, .mu, some 0⟩)
    ∧ (let s := noUnits (entries (.desk 1) 7) (entries .mc 1)
      s.Hears (.desk 0) ∧ s.Admitted ⟨.desk 0, .order 1, 40, .mu, none⟩
        ∧ s.NeedsUnmet ⟨.desk 0, .order 1, 40, .mu, none⟩ ∧ 8 ≤ s.waitQueue.length
        ∧ s.Hears .m ∧ s.Admitted ⟨.mc, .order 1, 700, .mu, some 0⟩
        ∧ s.NeedsUnmet ⟨.mc, .order 1, 700, .mu, some 0⟩)
    ∧ (let s : State := { noUnits [] [] with buses := Tab.replicate 4 (heldBy 2 .talk none) }
      s.NeedsUnmet ⟨.desk 0, .order 1, 40, .talk, none⟩) := by
  have hd : idleLines.Admitted ⟨.desk 0, .order 1, 40, .mu, none⟩ :=
    admitted_idle _ _ _ _ (by decide +kernel) (by decide +kernel) (by decide +kernel) (by decide +kernel)
      (by decide +kernel) (.inl rfl)
  have hm : idleLines.Admitted ⟨.mc, .order 1, 700, .mu, some 0⟩ :=
    admitted_idle _ _ _ _ (by decide +kernel) (by decide +kernel) (by decide +kernel) (by decide +kernel)
      (by decide +kernel) (.inr rfl)
  have no : ∀ ds ms u, ((noUnits ds ms).mu u).state ≠ .ready ∧ ((noUnits ds ms).mu u).state ≠ .standby := by
    intro ds ms u
    simp [noUnits, State.mu, attached]
  exact ⟨fun e h => ⟨1, entries_source h⟩, fun e h => entries_source h,
    ⟨hears_of rfl rfl (hears_idleLines _).room, ⟨by decide +kernel, by decide +kernel⟩,
      admitted_noUnits hd (by decide +kernel),
      .inr (.inl ⟨rfl, no _ _⟩), by decide +kernel, hears_of rfl rfl (hears_idleLines _).room, rfl,
      admitted_noUnits hm (by decide +kernel), .inr (.inl ⟨rfl, no _ _⟩)⟩,
    ⟨hears_of rfl rfl (hears_idleLines _).room, admitted_noUnits hd (by decide +kernel), .inr (.inl ⟨rfl, no _ _⟩),
      by decide +kernel, hears_of rfl rfl (hears_idleLines _).room, admitted_noUnits hm (by decide +kernel),
      .inr (.inl ⟨rfl, no _ _⟩)⟩,
    .inl (by decide +kernel)⟩

/-- Each refusal of the admission test, the allowance and the programme, and the parameters. -/
theorem test_witness_RequestsAreRefusedInOrder :
    (idleLines.Hears (.desk 0) ∧ idleLines.NamesLine (.desk 0) 40 40 ∧ (0 ≠ 1 ∧ 0 ≠ 2) ∧ (3 ≠ 1 ∧ 3 ≠ 2) ∧ 15 < 16
      ∧ (idleLines.config.windows.get 0).count ≤ 512 ∧ idleLines.Hears .m ∧ idleLines.NamesLine .m 2047 2047 ∧ 2047 < 2048)
    ∧ ((holding 0 40 (heldBy 0 .talk none) idleLines).line 40).onBus.isSome = true
    ∧ ((idleLines.updLine 40 (waitFlag true)).line 40).queued = true
    ∧ ((idleLines.updLine 40 fun r => { r with quarantined := true }).line 40).quarantined = true
    ∧ (running.supervised = false ∧ (running.line 40).onBus = none)
    ∧ (idleLines.line 2047).callState = .unknown
    ∧ (let s := holding 1 511 (heldBy 0 .mu none) (holding 0 510 (heldBy 0 .talk none) idleLines)
      s.allowance (.desk 0) ≤ s.countOf (.desk 0) ∧ (s.line 40).callState = .idle)
    ∧ (idleLines.library.get 1).count = 0 :=
  ⟨⟨hears_idleLines _, ⟨by decide +kernel, by decide +kernel⟩, by decide, by decide, by decide, by decide +kernel,
      hears_idleLines _, rfl,
      by decide⟩, by decide +kernel, by decide +kernel, by decide +kernel, by decide +kernel, by decide +kernel,
    by decide +kernel, by decide +kernel⟩

theorem test_witness_WaitEntriesEndWithoutAGrant :
    (portSource? (.desk 3) = some (.desk 3) ∧ oneWait.Hears (.desk 3) ∧ oneWait.NamesLine (.desk 3) 9 1545
      ∧ oneWait.Room (.desk 3) 1
      ∧ (let e : WaitEntry := ⟨⟨.desk 3, .order 2, 1545, .mu, none⟩, 301000⟩
        oneWait.waitQueue = [] ++ e :: [] ∧ e.req.line = 1545 ∧ e.req.source = .desk 3 ∧ e.req.tag = .order 2)
      ∧ (oneWait.config.windows.get 3).count ≤ 512)
    ∧ (portSource? .m = some .mc ∧ oneWait.Hears .m ∧ oneWait.NamesLine .m 1545 1545
      ∧ (∀ e ∈ oneWait.waitQueue, e.req.line = 1545 → e.req.source ≠ .mc)
      ∧ (∀ e ∈ oneWait.waitQueue, e.req.line ≠ 1544) ∧ 2047 < 2048) :=
  ⟨⟨rfl, hears_of rfl rfl (by decide +kernel), ⟨by decide +kernel, by decide +kernel⟩, by unfold State.Room; decide +kernel,
      ⟨rfl, rfl, rfl, rfl⟩, by decide +kernel⟩,
    ⟨rfl, hears_of rfl rfl (by decide +kernel), rfl, by decide, by decide, by decide⟩⟩

/-! ### Orders on a held bus -/

theorem only {α : Type} {o : Option α} {a : α} {P : α → Prop} (h₁ : o = some a) (h₂ : P a) : ∀ x, o = some x → P x := by
  intro x h
  rw [h₁] at h
  cases h
  exact h₂

theorem onUnit_unclaimed (m : MuRec) : (onUnit m).Unclaimed := ⟨rfl, rfl⟩

/-- TB0 with a record and line 40. -/
def onBus (r : BusRec) : State := holding 0 40 r supervised

theorem onBus_settled (r : BusRec) : (onBus r).Settled := settled_of rfl rfl

theorem hears_onBus (r : BusRec) (p : Port) : (onBus r).Hears p := hears_of rfl rfl (hears_supervised p).room

theorem test_witness_TerminateSwitchesTheBus :
    (let s := onUnit (attached 0)
     s.Hears (.desk 0) ∧ (s.bus 0).holder = some (.desk 0) ∧ (s.bus 0).state = .held ∧ (s.bus 0).releasePending = none
      ∧ (s.bus 0).boundMu = some 0 ∧ (s.mu 0).state = .attached ∧ s.Unclaimed
      ∧ (∀ l, (s.bus 0).line = some l → (s.line l).quarantined = false)
      ∧ (∀ x, x ≠ 0 → (s.bus x).holder = some (.desk 0) → (s.bus x).talkPair = false)
      ∧ (s.updUnit (some 0) (freedUnit s.now s.config.standby)).ChosenUnit 0)
    ∧ (let s := onBus (heldBy 0 .talk none)
      s.Hears (.desk 0) ∧ (s.bus 0).state = .held ∧ (s.bus 0).boundMu = none
        ∧ (s.updUnit none (freedUnit s.now s.config.standby)).ChosenUnit 0)
    ∧ (3 < 4 ∧ (0 : BusId).val = 0 ∧ 2 < 3 ∧ 2 ≤ 2)
    ∧ (supervised.bus 0).holder ≠ some (.desk 0)
    ∧ ((onBus { heldBy 0 .mu none with state := .operating }).bus 0).state ≠ .held
    ∧ ((onBus { heldBy 0 .mu none with releasePending := some .lineBusy }).bus 0).releasePending ≠ none
    ∧ (((measuring precheck).bus 0).boundMu = some 0 ∧ ((measuring precheck).mu 0).state ≠ .attached)
    ∧ (let s := (onBus (heldBy 0 .talk none)).updLine 40 fun r => { r with quarantined := true }
      (s.bus 0).line = some 40 ∧ (s.line 40).quarantined = true)
    ∧ (let s := holding 1 41 (heldBy 0 .talk none) (onBus (heldBy 0 .none none))
      (s.bus 1).holder = some (.desk 0) ∧ (s.bus 1).talkPair = true ∧ (s.line 40).quarantined = false)
    ∧ (let s : State := { onBus (heldBy 0 .none none) with units := Tab.replicate 2 (attached 3) }
      (s.bus 0).boundMu = none ∧ ∀ u, (s.mu u).state ≠ .ready ∧ (s.mu u).state ≠ .standby) := by
  refine ⟨⟨hears_onUnit _ _, rfl, rfl, rfl, rfl, rfl, onUnit_unclaimed _, only (a := 40) rfl (by decide +kernel),
    by decide +kernel, .inl (by decide +kernel)⟩, ⟨hears_onBus _ _, rfl, rfl, .inr (by decide +kernel)⟩, by decide,
    by decide +kernel, by decide +kernel, by decide +kernel, by decide +kernel, by decide +kernel, by decide +kernel,
    by decide +kernel⟩

theorem test_witness_ReleaseTakesTheDecision :
    (supervised.Hears (.desk 0) ∧ supervised.HolderRefused 0 4 .noSuchBus ∧ supervised.HolderRefused 0 3 .notHolder)
    ∧ ((onBus { heldBy 0 .mu none with state := .releasing }).Hears (.desk 0)
      ∧ ((onBus { heldBy 0 .mu none with state := .releasing }).bus 0).state = .releasing)
    ∧ ((onBus { heldBy 0 .mu none with state := .operating }).Hears (.desk 0)
      ∧ ((onBus { heldBy 0 .mu none with state := .operating }).bus 0).state = .operating
      ∧ ((onBus { heldBy 0 .mu none with state := .operating }).bus 0).releasePending = none)
    ∧ ((onBus (heldBy 0 .talk none)).GivesBack 0 ∧ (onUnit (attached 0)).GivesBack 0
      ∧ ((onUnit (attached 0)).bus 0).holder = some (.desk 0) ∧ ((onUnit (attached 0)).bus 0).state = .held)
    ∧ ((onUnit { attached 0 with state := .discharging }).mu 0).state = .discharging
    ∧ (let c := { precheck with sourceApplied := true }
      ((measuring c).mu 0).state = .measuring ∧ ((measuring c).mu 0).context = some c ∧ c.ticket = false
        ∧ c.holder = .desk 0 ∧ c.sourceApplied = true ∧ ((measuring c).bus 0).boundMu = some 0) :=
  ⟨⟨hears_supervised _, .inl ⟨by decide, rfl⟩, .inr ⟨3, rfl, by decide +kernel, rfl⟩⟩, ⟨hears_onBus _ _, rfl⟩,
    ⟨hears_onBus _ _, rfl, rfl⟩, ⟨.inl rfl, .inr ⟨onUnit_unclaimed _, 0, rfl, .inl rfl⟩, rfl, rfl⟩, rfl,
    rfl, rfl, rfl, rfl, rfl, rfl⟩

theorem test_witness_RunStartsTheProgramme :
    (supervised.Hears (.desk 0) ∧ 3 < 4 ∧ 3 ≤ 3 ∧ 15 < 16 ∧ 15 ≤ 15 ∧ supervised.HolderRefused 0 4 .noSuchBus)
    ∧ ((onBus (heldBy 0 .talk none)).Hears (.desk 0)
      ∧ ((onBus (heldBy 0 .talk none)).bus 0).holder = some (.desk 0)
      ∧ ((onBus (heldBy 0 .talk none)).bus 0).termination ≠ .mu)
    ∧ (let s := onUnit (attached 0)
      s.Hears (.desk 0) ∧ (s.bus 0).holder = some (.desk 0) ∧ (s.bus 0).state = .held ∧ (s.bus 0).releasePending = none
        ∧ (s.bus 0).termination = .mu ∧ (s.bus 0).boundMu = some 0 ∧ (s.bus 0).line = some 40
        ∧ (s.mu 0).state = .attached ∧ (s.library.get 0).count ≠ 0 ∧ (s.library.get 15).count = 0)
    ∧ ((onUnit { attached 0 with state := .warming }).mu 0).state ≠ .attached :=
  ⟨⟨hears_supervised _, by decide, by decide, by decide, by decide, .inl ⟨by decide, rfl⟩⟩,
    ⟨hears_onBus _ _, rfl, by decide +kernel⟩,
    ⟨hears_onUnit _ _, rfl, rfl, rfl, rfl, rfl, rfl, rfl, by decide +kernel, by decide +kernel⟩, by decide +kernel⟩

theorem test_witness_AbortEndsTheProgramme :
    supervised.HolderRefused 0 3 .notHolder
    ∧ ((onUnit (attached 0)).Hears (.desk 0) ∧ ((onUnit (attached 0)).bus 0).holder = some (.desk 0)
      ∧ ∀ u, ((onUnit (attached 0)).bus 0).boundMu = some u → ((onUnit (attached 0)).mu u).state ≠ .measuring)
    ∧ ((measuring precheck).Hears (.desk 0) ∧ ((measuring precheck).bus 0).boundMu = some 0
      ∧ ((measuring precheck).mu 0).state = .measuring ∧ ((measuring precheck).mu 0).context = some precheck
      ∧ precheck.ticket = false ∧ precheck.holder = .desk 0) :=
  ⟨.inr ⟨3, rfl, by decide +kernel, rfl⟩, ⟨hears_onUnit _ _, rfl, by decide +kernel⟩, hears_onUnit _ _, rfl, rfl, rfl,
    rfl, rfl⟩

/-- TB0 HELD by D0 with an intrusion PENDING. -/
def intruded : BusRec := { heldBy 0 .talk none with intrusion := .pending 100000, intrudeTag := some 31 }

theorem test_witness_KeepDeniesTheIntrusion :
    (supervised.Hears (.desk 0) ∧ supervised.HolderRefused 0 4 .noSuchBus)
    ∧ ((onBus { heldBy 0 .talk none with owed := some .granted }).bus 0).owed ≠ none
    ∧ (((onBus (heldBy 0 .talk none)).bus 0).owed = none ∧ ((onBus (heldBy 0 .talk none)).bus 0).intrusion = .none)
    ∧ ((onBus intruded).Hears (.desk 0) ∧ ((onBus intruded).bus 0).owed = none
      ∧ ((onBus intruded).bus 0).intrusion = .pending 100000 ∧ ((onBus intruded).bus 0).line = some 40
      ∧ ((onBus intruded).classes.get ((onBus intruded).line 40).cls).isProtected = false
      ∧ ((onBus intruded).bus 0).intrudeTag = some 31 ∧ (onBus intruded).Room .x 1)
    ∧ (let s := { onBus intruded with classes := (onBus intruded).classes.set 0 { isProtected := true } }
      (s.bus 0).intrusion = .pending 100000 ∧ (s.classes.get (s.line 40).cls).isProtected = true) :=
  ⟨⟨hears_supervised _, .inl ⟨by decide, rfl⟩⟩, by decide +kernel, by decide +kernel,
    ⟨hears_onBus _ _, rfl, rfl, rfl, by decide +kernel, rfl, by unfold State.Room; decide +kernel⟩, by decide +kernel⟩

/-! ### Relay completions and the intrusion grace -/

/-- TB0 with its relays moving for D0, until 12 ms. -/
def moving (st : BusState) (t : Termination) (u : Option MuId) : BusRec :=
  { heldBy 0 t u with state := st, relayDue := some 120 }

/-- TB0 with its relays moving and MU0 ATTACHED to it. -/
def movingUnit (r : BusRec) : State := (onBus r).updMu 0 fun _ => attached 0

theorem test_witness_RelayCompletionsHoldTheBus :
    ((onBus (heldBy 0 .talk none)).Settled ∧ ((onBus (heldBy 0 .talk none)).bus 0).state ≠ .operating
      ∧ ((onBus (heldBy 0 .talk none)).bus 0).state ≠ .switching)
    ∧ (let s := onBus (moving .operating .talk none)
      s.Settled ∧ (s.bus 0).state = .operating ∧ (s.bus 0).relayDue = some 120 ∧ (s.bus 0).line = some 40
        ∧ (s.bus 0).holder = some (.desk 0) ∧ (s.bus 0).holderTag = some (.order 1) ∧ s.HolderRoom (.desk 0)
        ∧ (s.bus 0).releasePending = none ∧ (s.bus 0).grantProgramme = none)
    ∧ (let s := movingUnit { moving .operating .mu (some 0) with grantProgramme := some 0 }
      s.Settled ∧ (s.bus 0).boundMu = some 0 ∧ (s.mu 0).state = .attached ∧ (s.bus 0).grantProgramme = some 0)
    ∧ (let s := movingUnit { moving .operating .mu (some 0) with releasePending := some .lineBusy }
      s.Settled ∧ (s.bus 0).releasePending = some .lineBusy ∧ s.GivesBack 0)
    ∧ (let s := onBus (moving .switching .talk none)
      s.Settled ∧ (s.bus 0).state = .switching ∧ (s.bus 0).relayDue = some 120 ∧ (s.bus 0).line = some 40
        ∧ (s.bus 0).holder = some (.desk 0) ∧ s.Room (.desk 0) 1
        ∧ ((s.bus 0).talkPair = true → (s.bus 0).termination ≠ .talk → s.waitQueue = []) ∧ (s.bus 0).releasePending = none)
    ∧ (let s := movingUnit { moving .switching .mu (some 0) with talkPair := true, releasePending := some .intruded }
      s.Settled ∧ (s.bus 0).talkPair = true ∧ (s.bus 0).termination ≠ .talk ∧ s.waitQueue = []
        ∧ (s.bus 0).releasePending = some .intruded ∧ s.GivesBack 0) := by
  refine ⟨⟨onBus_settled _, by decide +kernel, by decide +kernel⟩,
    ⟨onBus_settled _, rfl, rfl, rfl, rfl, rfl, only (a := Port.desk 0) rfl (by decide +kernel), rfl, rfl⟩,
    ⟨settled_of rfl rfl, rfl, rfl, rfl⟩, ⟨settled_of rfl rfl, rfl, .inr ⟨⟨rfl, rfl⟩, 0, rfl, .inl rfl⟩⟩,
    ⟨onBus_settled _, rfl, rfl, rfl, rfl, by unfold State.Room; decide +kernel, fun _ _ => rfl, rfl⟩,
    ⟨settled_of rfl rfl, rfl, by decide +kernel, rfl, rfl, .inr ⟨⟨rfl, rfl⟩, 0, rfl, .inl rfl⟩⟩⟩

theorem test_witness_ReleaseCompletionFreesTheBus :
    (let s := onBus { moving .releasing .none none with releasePending := some .holder, releaseTag := some 4 }
     s.Settled ∧ s.store.phase = .running ∧ s.Unclaimed ∧ (s.bus 0).state = .releasing ∧ (s.bus 0).relayDue = some 120
      ∧ (s.bus 0).line = some 40 ∧ (s.bus 0).holder = some (.desk 0) ∧ (s.bus 0).holderTag = some (.order 1)
      ∧ s.Room .x 2 ∧ s.HolderRoom (.desk 0) ∧ Source.desk 0 ≠ .rs)
    ∧ (onBus (heldBy 0 .talk none)).Unclaimed ∧ ((onBus (heldBy 0 .talk none)).bus 0).state ≠ .releasing
    ∧ (let s := onBus { moving .releasing .none none with holder := some .rs, holderTag := some (.test 3) }
      s.Settled ∧ s.Unclaimed ∧ (s.bus 0).holder = some .rs ∧ (s.bus 0).holderTag = some (.test 3) ∧ s.HolderRoom .rs
        ∧ s.sweep.closing = false) :=
  ⟨⟨onBus_settled _, rfl, ⟨rfl, rfl⟩, rfl, rfl, rfl, rfl, rfl, by unfold State.Room; decide +kernel,
      only (a := Port.desk 0) rfl (by decide +kernel), by decide⟩, ⟨rfl, rfl⟩, by decide +kernel,
    ⟨onBus_settled _, ⟨rfl, rfl⟩, rfl, rfl, nofun, rfl⟩⟩

theorem test_witness_GraceExpiryReleasesTheBus :
    ((onBus (heldBy 0 .talk none)).Settled ∧ ∀ due, ((onBus (heldBy 0 .talk none)).bus 0).intrusion ≠ .pending due)
    ∧ (let s := onBus { intruded with state := .operating }
      s.Settled ∧ (s.bus 0).intrusion = .pending 100000 ∧ (s.bus 0).releasePending = none ∧ (s.bus 0).state = .operating)
    ∧ ((onBus intruded).Settled ∧ ((onBus intruded).bus 0).state = .held ∧ (onBus intruded).GivesBack 0) :=
  ⟨⟨onBus_settled _, fun _ => nofun⟩, ⟨onBus_settled _, rfl, rfl, rfl⟩, onBus_settled _, rfl, .inl rfl⟩

/-! ### The exchange link -/

theorem hearsX_onBus (r : BusRec) : (onBus r).HearsX := ⟨hears_onBus r .x, rfl⟩

/-- TB0 with a record held by MC. -/
def byMc (r : BusRec) : BusRec := { r with holder := some .mc }

theorem test_witness_LineStateWritesTheCallState :
    (supervised.HearsX ∧ 2047 < 2048 ∧ 2 < 3 ∧ (2047 : LineId).val = 2047)
    ∧ (supervised.waitQueue = [] ∧ (supervised.line 2047).onBus = none ∧ ((calls 40 .busy supervised).line 40).callState = .busy)
    ∧ (let s := onBus (heldBy 0 .talk none)
      s.HearsX ∧ (s.line 40).onBus = some 0 ∧ (s.line 40).callState ≠ .busy ∧ (s.bus 0).holder = some (.desk 0))
    ∧ (let s := onBus (byMc (moving .releasing .none none))
      s.HearsX ∧ (s.bus 0).holder = some .mc ∧ (s.bus 0).state = .releasing)
    ∧ (let s := onBus (byMc { moving .switching .none none with releasePending := some .intruded })
      s.HearsX ∧ (s.bus 0).state = .switching ∧ (s.bus 0).releasePending ≠ none)
    ∧ (let s := onBus (byMc (moving .operating .none none))
      s.HearsX ∧ (s.bus 0).state = .operating ∧ (s.bus 0).releasePending = none)
    ∧ (let s := onBus (byMc (heldBy 0 .none none))
      s.HearsX ∧ (s.line 40).onBus = some 0 ∧ (s.line 40).callState ≠ .ringing ∧ (s.bus 0).holder = some .mc
        ∧ (s.bus 0).state = .held ∧ s.GivesBack 0) :=
  ⟨⟨hearsX_supervised, by decide, by decide, rfl⟩, by decide +kernel, ⟨hearsX_onBus _, by decide +kernel⟩,
    ⟨hearsX_onBus _, by decide +kernel⟩, ⟨hearsX_onBus _, by decide +kernel⟩, ⟨hearsX_onBus _, by decide +kernel⟩,
    hearsX_onBus _, by decide +kernel, by decide +kernel, rfl, rfl, .inl rfl⟩

theorem test_witness_IdleRangeTouchesUnknownLinesOnly :
    supervised.HearsX ∧ 2047 < 2048 ∧ 1 < 2 ∧ (2047 ≤ 2047 ∧ 0 ≤ 2047 ∧ supervised.waitQueue = [])
    ∧ ((calls 40 .busy oneWait).HearsX ∧ 40 ≤ 40
      ∧ ∀ l : LineId, 40 ≤ l.val → l.val ≤ 40 → ((calls 40 .busy oneWait).line l).callState ≠ .unknown) := by
  refine ⟨hearsX_supervised, by decide, by decide, ⟨by decide, by decide, rfl⟩,
    ⟨hears_of rfl rfl (by decide +kernel), rfl⟩, by decide, fun l h₁ h₂ => ?_⟩
  obtain rfl : l = 40 := Fin.ext (le_antisymm h₂ h₁)
  decide +kernel

theorem test_witness_IntrudeTakesTheFirstCase :
    (supervised.HearsX ∧ 2047 < 2048 ∧ (2047 : LineId).val = 2047 ∧ (supervised.line 2047).onBus = none)
    ∧ (∀ o ∈ [none, some Owed.granted, some .withdrawn],
      let s := onBus { moving .releasing .none none with owed := o }
      s.HearsX ∧ (s.line 40).onBus = some 0 ∧ (s.bus 0).state = .releasing ∧ (s.bus 0).owed = o)
    ∧ (let s := onBus (byMc (moving .operating .none none))
      s.HearsX ∧ (s.bus 0).holder = some .mc ∧ (s.bus 0).intrusion = .none ∧ (s.bus 0).releasePending = none
        ∧ (s.bus 0).state = .operating)
    ∧ ((onBus (byMc (heldBy 0 .none none))).HearsX ∧ (onBus (byMc (heldBy 0 .none none))).GivesBack 0)
    ∧ (∀ i ∈ [Intrusion.none, .pending 100000, .kept],
      let s := onBus { heldBy 0 .talk none with intrusion := i }
      s.HearsX ∧ (s.line 40).onBus = some 0 ∧ (s.bus 0).holder = some (.desk 0) ∧ (s.bus 0).state ≠ .draining
        ∧ (s.bus 0).state ≠ .releasing ∧ (s.bus 0).releasePending = none ∧ s.Room (.desk 0) 8
        ∧ (s.bus 0).intrusion = i) := by
  refine ⟨⟨hearsX_supervised, by decide, rfl, by decide +kernel⟩, fun o _ => ⟨hearsX_onBus _,
      show ((onBus (heldBy 0 .talk none)).line 40).onBus = some 0 by decide +kernel, rfl, rfl⟩,
    ⟨hearsX_onBus _, rfl, rfl, rfl, rfl⟩, ⟨hearsX_onBus _, .inl rfl⟩, fun i _ => ?_⟩
  refine ⟨hearsX_onBus _, ?_, rfl, nofun, nofun, rfl, ?_, rfl⟩
  · exact show ((onBus (heldBy 0 .talk none)).line 40).onBus = some 0 by decide +kernel
  · exact show 8 ≤ (onBus (heldBy 0 .talk none)).freeEntries (.desk 0) by decide +kernel

theorem test_witness_IntrudeCancelWithdraws :
    (supervised.HearsX ∧ 2047 < 2048 ∧ (2047 : LineId).val = 2047 ∧ (supervised.line 2047).onBus = none)
    ∧ ((onBus intruded).HearsX ∧ ((onBus intruded).line 40).onBus = some 0
      ∧ ((onBus intruded).bus 0).intrusion = .pending 100000 ∧ ((onBus intruded).bus 0).holder = some (.desk 0)
      ∧ (onBus intruded).Room (.desk 0) 8)
    ∧ (∀ o ∈ [none, some Owed.granted],
      let s := onBus { heldBy 0 .talk none with owed := o }
      s.HearsX ∧ (∀ due, (s.bus 0).intrusion ≠ .pending due) ∧ (s.bus 0).owed = o) :=
  ⟨⟨hearsX_supervised, by decide, rfl, by decide +kernel⟩,
    ⟨hearsX_onBus _, by decide +kernel, rfl, rfl, by unfold State.Room; decide +kernel⟩,
    fun _ _ => ⟨hearsX_onBus _, fun _ => nofun, rfl⟩⟩

theorem test_witness_SuperviseRestoresSupervision :
    (supervised.Hears .x ∧ supervised.supervised = true)
    ∧ (let s := holding 0 40 (heldBy 0 .talk none) running
      let blocked : List (LineId × Option BusId) := [(40, some 0)]
      s.Hears .x ∧ s.supervised = false ∧ s.Unclaimed ∧ blocked.Pairwise (fun x y => x.1 < y.1)
        ∧ (∀ l o, (l, o) ∈ blocked ↔ (s.line l).blocked = true ∧ (s.line l).onBus = o)
        ∧ s.Room .x (blocked.length + 3) ∧ ∀ p, p ≠ .x → s.Room p 8) := by
  refine ⟨⟨hears_supervised _, rfl⟩, hears_of rfl rfl (by decide +kernel), rfl, ⟨rfl, rfl⟩, by simp, fun l o => ?_,
    by unfold State.Room; decide +kernel, fun p _ => ?_⟩
  · simp only [holding, State.line, State.updLine, State.updBus, Tab.get_set, running, State.reset, Tab.get_replicate]
    split
    · subst_vars; simp [eq_comm]
    · rename_i h
      simpa [eq_comm] using fun e => absurd e.symm h
  · simp [State.Room, State.freeEntries, State.port, holding, State.updLine, State.updBus, running, State.reset,
      queueCapacity]

theorem test_witness_SupervisionTimerExpiryLapses :
    (running.Settled ∧ running.supTimer = none)
    ∧ (let s := onBus (heldBy 0 .talk none)
      s.Settled ∧ s.supTimer = some 100000 ∧ s.sweep.enabled = false
        ∧ (∀ b, (s.bus b).holder ≠ some .mc ∧ (s.bus b).holder ≠ some .rs) ∧ ∀ p, p ≠ .x → s.Room p 8) := by
  refine ⟨⟨settled_of rfl rfl, rfl⟩, onBus_settled _, rfl, rfl, by decide +kernel, fun p _ => ?_⟩
  simp [State.Room, State.freeEntries, State.port, onBus, holding, State.updLine, State.updBus, supervised, running,
    State.reset, queueCapacity]

/-! ### Tickets -/

/-- A state from one with a ticket table in which only slot 18 is full. -/
theorem slot18 {s : State} {t : Ticket} (h : ∀ j, s.slot j = if 18 = j then some t else none) {j : SlotId} {u : Ticket}
    (hj : s.slot j = some u) : j = 18 ∧ u = t := by
  rw [h] at hj
  split at hj
  · cases hj; exact ⟨by symm; assumption, rfl⟩
  · cases hj

theorem alarm_oneTicket (t : Ticket) : (oneTicket t).AlarmWithout 18 false := by
  constructor
  · nofun
  · rintro (⟨j, u, h, hs, -⟩ | ⟨l, h⟩)
    · exact absurd (slot18 (slot_oneTicket t) hs).1 h
    · simp [oneTicket, holds, State.line, running, State.reset] at h

theorem room_oneTicket (t : Ticket) (p : Port) : (oneTicket t).Room p 8 := by
  simp [State.Room, State.freeEntries, State.port, oneTicket, holds, running, State.reset, queueCapacity]

theorem test_witness_TicketHandPurgeAndNoteChangeTheSlot :
    (running.Hears .m ∧ ∀ j u, running.slot j = some u → u.number ≠ 0)
    ∧ ((oneTicket ticket812).Hears .m ∧ (oneTicket ticket812).NumberAt 812 18 ticket812 ∧ ticket812.state = .opened
      ∧ ticket812.state ≠ .cleared ∧ (oneTicket ticket812).AlarmWithout 18 false)
    ∧ (let t := { ticket812 with state := .cleared }
      (oneTicket t).Hears .m ∧ (oneTicket t).NumberAt 812 18 t ∧ t.state ≠ .opened ∧ t.state = .cleared)
    ∧ ((oneTicket ticket812).Hears (.desk 2) ∧ (oneTicket ticket812).Hears (.desk 0) ∧ (oneTicket ticket812).Room .m 8
      ∧ (oneTicket ticket812).inWindow 2 1210 = true ∧ (oneTicket ticket812).inWindow 0 1210 = false) :=
  ⟨⟨hears_running _, fun j u h => by rw [slot_running] at h; cases h⟩,
    ⟨hears_oneTicket _ _, numberAt_oneTicket _, rfl, by decide, alarm_oneTicket _⟩,
    ⟨hears_oneTicket _ _, numberAt_oneTicket { ticket812 with state := .cleared }, by decide, rfl⟩,
    hears_oneTicket _ _, hears_oneTicket _ _, room_oneTicket _ _, by decide +kernel, by decide +kernel⟩

/-- Ticket 812 as a HAZARD ticket, its line quarantined. -/
def hazard812 : Ticket := { ticket812 with cls := .hazard, severity := .critical }

/-- The table with it. -/
def quarantined : State := (oneTicket hazard812).updLine 1210 fun r => { r with quarantined := true }

theorem slot_quarantined (j : SlotId) : quarantined.slot j = if 18 = j then some hazard812 else none := by
  simp [quarantined, oneTicket, holds, State.slot, State.updLine, Tab.get_set, running, State.reset]

theorem numberAt_quarantined : quarantined.NumberAt 812 18 hazard812 :=
  ⟨by rw [slot_quarantined, if_pos rfl], rfl, fun j h u hu => by
    rw [(slot18 slot_quarantined hu).1] at h; exact absurd h (by decide)⟩

theorem test_witness_TicketClearEndsTheTicket :
    ((oneTicket ticket812).NumberAt 812 18 ticket812 ∧ (oneTicket ticket812).AlarmWithout 18 false
      ∧ ticket812.cls ≠ .hazard ∧ (oneTicket ticket812).Hears .m ∧ ticket812.state ≠ .cleared
      ∧ (oneTicket ticket812).Hears (.desk 2) ∧ (oneTicket ticket812).Room .m 8
      ∧ (oneTicket ticket812).inWindow 2 1210 = true ∧ (oneTicket ticket812).inWindow 3 1210 = false)
    ∧ (let t := { ticket812 with state := .cleared }
      (oneTicket t).NumberAt 812 18 t ∧ (oneTicket t).AlarmWithout 18 false ∧ t.state = .cleared)
    ∧ (quarantined.NumberAt 812 18 hazard812 ∧ quarantined.AlarmWithout 18 false ∧ quarantined.Unclaimed
      ∧ (quarantined.line 1210).quarantined = true ∧ quarantined.Hears .m
      ∧ ∀ j u, j ≠ 18 → quarantined.slot j = some u → ¬ (u.line = 1210 ∧ u.cls = .hazard ∧ u.state ≠ .cleared)) := by
  refine ⟨⟨numberAt_oneTicket _, alarm_oneTicket _, by decide, hears_oneTicket _ _, by decide, hears_oneTicket _ _,
      room_oneTicket _ _, by decide +kernel, by decide +kernel⟩,
    ⟨numberAt_oneTicket { ticket812 with state := .cleared }, alarm_oneTicket _, rfl⟩,
    numberAt_quarantined, ?_, ⟨rfl, rfl⟩, by decide +kernel, hears_of rfl rfl (by decide +kernel), ?_⟩
  · constructor
    · nofun
    · rintro (⟨j, u, h, hs, -⟩ | ⟨l, h⟩)
      · exact absurd (slot18 slot_quarantined hs).1 h
      · simp only [quarantined, oneTicket, holds, State.line, State.updLine, running, State.reset, Tab.get_set,
          Tab.get_replicate] at h
        split at h <;> simp at h
  · intro j u h hs
    exact absurd (slot18 slot_quarantined hs).1 h

theorem test_witness_UnheldNumbersAreRefused :
    ((∀ p, running.Hears p) ∧ ∀ j u, running.slot j = some u → u.number ≠ 812)
    ∧ ((∀ p, (oneTicket ticket812).Hears p) ∧ ∀ j u, (oneTicket ticket812).slot j = some u → u.number ≠ 813)
    ∧ (let t := { ticket812 with state := .cleared }
      (∀ p, (oneTicket t).Hears p) ∧ (oneTicket t).NumberAt 812 18 t ∧ (oneTicket t).inWindow 2 1210 = true) :=
  ⟨⟨hears_running, fun j u h => by rw [slot_running] at h; cases h⟩,
    ⟨hears_oneTicket _, fun j u h => by
      rw [slot_oneTicket] at h
      split at h
      · cases h; decide
      · cases h⟩,
    hears_oneTicket _, numberAt_oneTicket { ticket812 with state := .cleared }, by decide +kernel⟩

/-- A table full of OPEN MAJOR tickets of other lines. -/
def fullTable : State := { running with tickets := Tab.replicate 256 (some ticket812) }

theorem test_witness_FailedAndPassedClassesChangeTheTable :
    ((oneTicket ticket812).Room .m 8 ∧ (oneTicket ticket812).TicketAt 1210 .foreignDc 18 ticket812)
    ∧ ((∀ k t, (oneTicket ticket812).slot k = some t → ¬ (t.line = 1211 ∧ t.cls = .hazard ∧ t.state ≠ .cleared))
      ∧ (oneTicket ticket812).slot 0 = none ∧ (∀ j < (0 : SlotId), (oneTicket ticket812).slot j ≠ none)
      ∧ 1 ≤ (oneTicket ticket812).counter ∧ (oneTicket ticket812).counter ≤ 65535
      ∧ ∀ j t, (oneTicket ticket812).slot j = some t → t.number ≠ ((oneTicket ticket812).counter - 1 + 0) % 65535 + 1)
    ∧ (let s := { oneTicket ticket812 with counter := 812 }
      ∃ j t, s.slot j = some t ∧ t.number = (s.counter - 1 + 0) % 65535 + 1)
    ∧ (fullTable.Room .m 8
      ∧ (∀ k t, fullTable.slot k = some t → ¬ (t.line = 1211 ∧ t.cls = .hazard ∧ t.state ≠ .cleared))
      ∧ (∀ k, ∃ t, fullTable.slot k = some t ∧ t.state ≠ .cleared)
      ∧ ∀ k t, fullTable.slot k = some t → ¬ (t.state = .opened ∧ t.severity = .minor))
    ∧ (ticket812.passes ≤ 7 ∧ min (ticket812.passes + 1) 7 < 2 ∧ 2 ≠ 0
      ∧ (let t := { ticket812 with passes := 1 }
        (oneTicket t).TicketAt 1210 .foreignDc 18 t ∧ t.passes ≤ 7 ∧ 2 ≤ min (t.passes + 1) 7)
      ∧ min (7 + 1) 7 ≤ 7) := by
  have one : ∀ {k t}, (oneTicket ticket812).slot k = some t → t = ticket812 := fun h => (slot18 (slot_oneTicket _) h).2
  have full : ∀ {k t}, fullTable.slot k = some t → t = ticket812 := by
    intro k t h
    simp [fullTable, State.slot] at h
    exact h.symm
  refine ⟨⟨room_oneTicket _ _, ticketAt_oneTicket _ (by decide)⟩,
    ⟨fun k t h => by rw [one h]; decide, slot_below (by decide), nofun, by decide, by decide,
      fun j t h => by rw [one h]; decide⟩,
    ⟨18, ticket812, (numberAt_oneTicket ticket812).1, by decide⟩,
    ⟨?_, fun k t h => by rw [full h]; decide, fun k => ⟨ticket812, by simp [fullTable, State.slot], by decide⟩,
      fun k t h => by rw [full h]; decide⟩,
    by decide, by decide, by decide,
    ⟨ticketAt_oneTicket { ticket812 with passes := 1 } (by decide), by decide, by decide⟩, by decide⟩
  simp [State.Room, State.freeEntries, State.port, fullTable, running, State.reset, queueCapacity]

/-! ### The clock, the sweep, the settings, the part -/

/-- A supervised part with an enabled sweep, a valid clock, and line 1000 IDLE. -/
def sweeping (w : SweepRec) : State :=
  { calls 1000 .idle supervised with
    sweep := { w with enabled := true }, clock := ⟨600, 3600, true, 10000⟩
    sweepCfg := { first := 1000, last := 1007 } }

theorem sweepIs_active (w : SweepRec) (h : w.mcHold = false) : (sweeping w).SweepIs .active :=
  .inr (.inr (.inr ⟨rfl, h, rfl, .inr ⟨rfl, .inl (by simp [sweeping]), rfl⟩⟩))

theorem mayStart_sweeping : (sweeping {}).MayStart :=
  ⟨rfl, sweepIs_active _ rfl, rfl, rfl, by decide +kernel, by decide +kernel, by decide +kernel, by decide +kernel⟩

theorem mayStart (w : SweepRec) (h₁ : w.mcHold = false) (h₂ : w.pacing = none) (h₃ : w.closing = false) :
    (sweeping w).MayStart :=
  let m := mayStart_sweeping
  ⟨rfl, sweepIs_active w h₁, h₂, h₃, m.allowance, m.busReserve, m.muReserve, m.programme⟩

theorem sweepTakes_sweeping : (sweeping {}).SweepTakes 1000 :=
  ⟨by decide +kernel, by decide +kernel, by decide +kernel, by decide +kernel, rfl, by decide +kernel⟩

theorem sweepTakes_1000 (w : SweepRec) (r : List LineId) : ({ sweeping w with retest := r } : State).SweepTakes 1000 :=
  let m := sweepTakes_sweeping
  ⟨m.swept, m.offBus, m.notQueued, m.notQuarantined, m.supervised, m.idle⟩

theorem onlyBus_sweeping : (sweeping {}).LowestFree 0 ∧ (sweeping {}).ChosenUnit 0 ∧ 1 ≤ (sweeping {}).freeEntries .x :=
  ⟨⟨by decide +kernel, by decide +kernel⟩, .inr ⟨by decide +kernel, by decide +kernel, by decide +kernel⟩,
    by decide +kernel⟩

theorem onlyBus (w : SweepRec) (r : List LineId) :
    ({ sweeping w with retest := r } : State).LowestFree 0 ∧ ({ sweeping w with retest := r } : State).ChosenUnit 0
    ∧ 1 ≤ ({ sweeping w with retest := r } : State).freeEntries .x :=
  onlyBus_sweeping

/-- A start attempt from the cursor, at line 1000, and one from the retest list, past a line that is not IDLE. -/
theorem test_witness_attempts :
    (∃ t, (sweeping {}).Attempts t)
    ∧ (∃ t, State.Attempts { sweeping {} with retest := [300, 1000] } t)
    ∧ (∃ t, State.Attempts { sweeping { rest := true } with retest := [300] } t)
    ∧ ∃ t, (sweeping { cursor := 1008 }).Attempts t := by
  have no300 : ∀ s : State, (s.line 300).callState = .unknown → ¬ s.SweepTakes 300 := fun s h k => by
    have := k.idle; rw [h] at this; cases this
  refine ⟨⟨_, .cursor 1000 0 0 nofun rfl (by decide +kernel) (by decide +kernel) (sweepTakes_1000 _ _) ?_ ?_
      (onlyBus {} []).1 (onlyBus {} []).2.1 (onlyBus {} []).2.2⟩,
    ⟨_, .retest [300] [] 1000 0 0 rfl ?_ (sweepTakes_1000 _ _) (onlyBus {} _).1 (onlyBus {} _).2.1 (onlyBus {} _).2.2⟩,
    ⟨_, .rests ?_ rfl⟩,
    ⟨_, .closes _ nofun rfl (by decide) ?_ rfl⟩⟩
  · intro d h
    rw [show ((sweeping {}).line 1000).lastRoutine = none by decide +kernel] at h
    cases h
  · intro k h₁ h₂
    exact absurd (Fin.lt_def.1 h₂) (Nat.not_lt.2 h₁)
  · intro k hk
    simp only [List.mem_singleton] at hk
    subst hk
    exact no300 _ (by decide +kernel)
  · intro k hk
    simp only [List.mem_singleton] at hk
    subst hk
    exact no300 _ (by decide +kernel)
  · intro k h₁ h₂
    exact absurd (le_trans h₁ h₂) (by decide)

theorem off_derived (s : State) (h : s.sweep.enabled = false) : s.Derived (s.seen .off) :=
  ⟨.off, .inl ⟨h, rfl⟩, fun e => absurd e.1 (by decide), fun _ => rfl⟩

theorem test_witness_ClockAndSweepOrdersDeriveTheState :
    (running.Hears .m ∧ 65535 < 65536 ∧ 23 < 24 ∧ 59 < 60 ∧ (65535 ≤ 65535 ∧ 23 ≤ 23 ∧ 59 ≤ 59))
    ∧ (∀ w : SweepRec, w.enabled = false → State.Derived { running with sweep := w } (State.seen { running with sweep := w } .off))
    ∧ (∃ t, (sweeping {}).Attempts t ∧ (sweeping {}).Triggered t ∧ (sweeping {}).Hears .m)
    ∧ (∃ t, (sweeping {}).Derived t) ∧ ∃ t, (sweeping { mcHold := true }).Derived t := by
  have seen_eq : (sweeping {}).seen .active = sweeping { lastState := .active } := rfl
  obtain ⟨⟨t, ht⟩, -⟩ := test_witness_attempts
  refine ⟨⟨hears_running _, by decide, by decide, by decide, by decide, by decide, by decide⟩,
    fun w h => off_derived _ h, ⟨t, ht, .attempted t (mayStart _ rfl rfl rfl) ht, hears_of rfl rfl (by decide +kernel)⟩,
    ?_, ⟨_, .held, .inr (.inl ⟨rfl, rfl, rfl⟩), fun e => absurd e.1 (by decide), fun _ => rfl⟩⟩
  have h : ∃ t, (sweeping { lastState := .active }).Attempts t := by
    refine ⟨_, .cursor 1000 0 0 nofun rfl (by decide +kernel) (by decide +kernel) (sweepTakes_1000 _ _) ?_ ?_
      (onlyBus _ []).1 (onlyBus _ []).2.1 (onlyBus _ []).2.2⟩
    · intro d h
      rw [show ((sweeping { lastState := .active }).line 1000).lastRoutine = none by decide +kernel] at h
      cases h
    · intro k h₁ h₂
      exact absurd (Fin.lt_def.1 h₂) (Nat.not_lt.2 h₁)
  obtain ⟨t, ht⟩ := h
  exact ⟨t, .active, sweepIs_active _ rfl, fun _ => seen_eq ▸ .attempted t (mayStart _ rfl rfl rfl) ht,
    fun n => absurd ⟨rfl, by decide⟩ n⟩

/-- A settings write waiting behind its own page in flight. -/
def writing (p : PageId) : State :=
  { running with store := { running.store with
      settingsWrite := some ⟨p, Tab.replicate 32 0, 6⟩, inFlight := some ⟨p, Tab.replicate 32 0, 50⟩ } }

theorem settled_writing (p : PageId) : (writing p).Settled where
  noLapse := rfl
  notQuiet := nofun
  serviceIdle := .inr (.inl rfl)
  notDrained := nofun

theorem test_witness_SettingsWritesBecomePending :
    (running.Hears .m ∧ 361 < 362 ∧ (106 ≤ 106 ∧ 106 ≤ 361) ∧ 361 ≤ 361 ∧ ((105 : PageId).val = 105 ∧ 105 < 106)
      ∧ running.store.settingsWrite = none ∧ 65535 < 65536 ∧ 255 < 256)
    ∧ ((writing 4).Hears .m ∧ (writing 4).store.settingsWrite ≠ none) :=
  ⟨⟨hears_running _, by decide, by decide, by decide, by decide, rfl, by decide, by decide⟩,
    ⟨settled_writing _, rfl, by decide +kernel⟩, nofun⟩

theorem test_witness_RestartQuiescesThePart :
    (let s := onBus (moving .operating .talk none)
     s.Hears .m ∧ s.waitQueue = [] ∧ (∀ b, (s.bus b).state ≠ .held) ∧ ∃ b, (s.bus b).state ≠ .free)
    ∧ ((∀ b, (running.bus b).state = .free) ∧ running.store.inFlight = none)
    ∧ ((writing 4).Hears .m ∧ (∀ b, ((writing 4).bus b).state = .free) ∧ (writing 4).store.inFlight ≠ none) := by
  refine ⟨⟨hears_onBus _ _, rfl, by decide +kernel, by decide +kernel⟩, ⟨by decide +kernel, rfl⟩,
    ⟨settled_writing _, rfl, by decide +kernel⟩, by decide +kernel, nofun⟩

/-! ### The measuring units -/

/-- TB0 DRAINING while MU0 discharges. -/
def draining : State :=
  (onBus { heldBy 0 .mu (some 0) with state := .draining, releasePending := some .holder }).updMu 0 fun _ =>
    { attached 0 with state := .discharging, discharge := some 22090, switchPair := some .ab }

theorem onUnit_settled (m : MuRec) : (onUnit m).Settled := settled_of rfl rfl

theorem test_witness_UnitTimersMoveTheUnit :
    ((onUnit (attached 0)).Settled ∧ ((onUnit (attached 0)).mu 0).state ≠ .warming
      ∧ ((onUnit (attached 0)).mu 0).state ≠ .ready ∧ ((onUnit (attached 0)).mu 0).state ≠ .discharging)
    ∧ (let s := onUnit { attached 0 with state := .warming, warmUp := some 15000 }
      s.Settled ∧ (s.mu 0).state = .warming ∧ (s.mu 0).warmUp = some 15000 ∧ (s.mu 0).bus = some 0
        ∧ (s.bus 0).grantProgramme = none)
    ∧ (let s := (onBus { heldBy 0 .mu (some 0) with grantProgramme := some 0 }).updMu 0 fun _ =>
        { attached 0 with state := .warming, warmUp := some 15000 }
      s.Settled ∧ (s.mu 0).state = .warming ∧ (s.bus 0).state = .held ∧ (s.bus 0).boundMu = some 0
        ∧ (s.bus 0).grantProgramme = some 0 ∧ (s.bus 0).line = some 40 ∧ (s.bus 0).holder = some (.desk 0)
        ∧ (s.bus 0).holderTag = some (.order 1))
    ∧ (let s := running.updMu 1 fun _ => { state := .ready, standby := some 9000000 }
      (s.mu 1).state = .ready ∧ (s.mu 1).standby = some 9000000)
    ∧ (let s := onUnit { attached 0 with state := .discharging, discharge := some 22090 }
      s.Settled ∧ (s.mu 0).discharge = some 22090 ∧ (s.mu 0).bus = some 0 ∧ (s.bus 0).state ≠ .draining)
    ∧ (draining.Settled ∧ (draining.mu 0).state = .discharging ∧ (draining.mu 0).bus = some 0
      ∧ (draining.bus 0).state = .draining ∧ (draining.bus 0).boundMu = some 0 ∧ draining.Unclaimed) :=
  ⟨⟨onUnit_settled _, by decide +kernel, by decide +kernel, by decide +kernel⟩, ⟨onUnit_settled _, rfl, rfl, rfl, rfl⟩,
    ⟨settled_of rfl rfl, rfl, rfl, rfl, rfl, rfl, rfl, rfl⟩, ⟨rfl, rfl⟩, ⟨onUnit_settled _, rfl, rfl, by decide +kernel⟩,
    ⟨settled_of rfl rfl, rfl, rfl, rfl, rfl, ⟨rfl, rfl⟩⟩⟩

/-- The record by which the precheck's leg A-E runs. -/
def legRecord : SnapStep := ⟨.vdc, .ae, 10, .fixed .r10k, 20, 4⟩

/-- A programme of one step, at that step. -/
def atStep (x : SnapStep) (ph : Phase) (g : Stage) (a : Accum) : Context :=
  { precheck with steps := [x], stepIndex := 1, phase := ph, stage := g, acc := a }

/-- A RES step, range AUTO, +100 V, one sample. -/
def resAuto : SnapStep := ⟨.res, .be, 100, .auto, 100, 1⟩

/-- A VDC step of one sample. -/
def vdcOne : SnapStep := ⟨.vdc, .ae, 10, .fixed .r10k, 100, 1⟩

/-- A CAP step at +50 V. -/
def capStep : SnapStep := ⟨.cap, .ab, 50, .fixed .r10k, 200, 16⟩

theorem measures (c : Context) (g : Stage) (h : c.stage = g) : (measuring c).Measures 0 g c := ⟨rfl, rfl, h⟩

theorem runs_leg (c : Context) (h : c.stepIndex = 0) (h' : c.phase ≠ .legBe) : c.Runs legRecord :=
  .inl ⟨h, rfl, by rw [if_neg h']; rfl, rfl, rfl⟩

theorem runs_step (x : SnapStep) (ph : Phase) (g : Stage) (a : Accum) : (atStep x ph g a).Runs x :=
  .inr ⟨Nat.le_refl 1, rfl⟩

theorem test_witness_PhasePartsFollowOneAnother :
    ((onUnit (attached 0)).Settled ∧ ∀ g c, ¬ (onUnit (attached 0)).Measures 0 g c)
    ∧ (precheck.Runs legRecord ∧ (measuring precheck).Measures 0 .setUp precheck)
    ∧ (let c := { precheck with stage := .settle }
      c.Runs legRecord ∧ (measuring c).Settled ∧ (measuring c).Measures 0 .settle c ∧ legRecord.kind ≠ .cap)
    ∧ (let c := { precheck with stage := .sampling, acc := ⟨2, 0, 0, false⟩ }
      c.Runs legRecord ∧ (measuring c).Settled ∧ (measuring c).Measures 0 .sampling c
        ∧ c.acc.count + 1 < legRecord.samples) :=
  ⟨⟨onUnit_settled _, fun g c h => nomatch (show (onUnit (attached 0)).mu 0 = attached 0 from rfl) ▸ h.1⟩,
    ⟨runs_leg _ rfl nofun, measures _ _ rfl⟩,
    ⟨runs_leg _ rfl nofun, onUnit_settled _, measures _ _ rfl, nofun⟩,
    ⟨runs_leg _ rfl nofun, onUnit_settled _, measures _ _ rfl, by decide⟩⟩

theorem test_witness_LastSamplesBeginTheNextPhase :
    (let c := { precheck with stage := .sampling, acc := ⟨3, 0, 0, false⟩ }
     (measuring c).Settled ∧ (measuring c).Measures 0 .sampling c ∧ c.Runs legRecord ∧ legRecord.samples ≤ c.acc.count + 1
      ∧ c.stepIndex = 0 ∧ c.phase = .legAe)
    ∧ (let c := atStep resAuto .f .sampling {}
      (measuring c).Settled ∧ (measuring c).Measures 0 .sampling c ∧ c.Runs resAuto ∧ resAuto.samples ≤ c.acc.count + 1
        ∧ 1 ≤ c.stepIndex ∧ c.phase = .f ∧ resAuto.kind = .res ∧ (c.acc.add 20).clip = false)
    ∧ (let c := { atStep resAuto .m .sampling {} with vf := some 20 }
      (measuring c).Settled ∧ (measuring c).Measures 0 .sampling c ∧ c.Runs resAuto ∧ resAuto.samples ≤ c.acc.count + 1
        ∧ 1 ≤ c.stepIndex ∧ c.phase = .m ∧ resAuto.range = .auto ∧ (c.acc.add 9710).clip = false ∧ c.vf = some 20
        ∧ rangeTest (resInputs 20 (c.acc.add 9710).mean resAuto.source) c.range = some .r1m) :=
  ⟨⟨onUnit_settled _, measures _ _ rfl, runs_leg _ rfl nofun, by decide, rfl, rfl⟩,
    ⟨onUnit_settled _, measures _ _ rfl, runs_step _ _ _ _, by decide, by decide, rfl, rfl, by decide⟩,
    ⟨onUnit_settled _, measures _ _ rfl, .inr ⟨Nat.le_refl 1, rfl⟩, by decide, by decide, rfl, rfl, by decide, rfl,
      by decide⟩⟩

/-- A hold of MC, its programme at a step. -/
def byMcMeasuring (c : Context) : State :=
  (onBus (byMc (heldBy 0 .mu (some 0)))).updMu 0 fun _ => { attached 0 with state := .measuring, context := some c }

theorem noticeRoom_measuring (c : Context) (src : Source) : (measuring c).NoticeRoom src := fun p _ => by
  simp [State.freeEntries, State.port, measuring, onUnit, holding, State.updLine, State.updBus, State.updMu, supervised,
    running, State.reset, queueCapacity]

theorem noticeRoom_byMc (c : Context) (src : Source) : (byMcMeasuring c).NoticeRoom src := fun p _ => by
  simp [State.freeEntries, State.port, byMcMeasuring, onBus, holding, State.updLine, State.updBus, State.updMu, supervised,
    running, State.reset, queueCapacity]

theorem test_witness_StepsComplete :
    (let c := { precheck with phase := .legBe, stage := .sampling, acc := ⟨3, 0, 0, false⟩, legAe := some (0, false) }
     (measuring c).Settled ∧ c.Runs { legRecord with pair := .be } ∧ (measuring c).Measures 0 .sampling c ∧ 4 ≤ c.acc.count + 1
      ∧ (∃ r, StepEnds c { legRecord with pair := .be } (c.acc.add 0) r ∧ r.verdict ≠ some .hazard)
      ∧ (∃ r, StepEnds c { legRecord with pair := .be } (c.acc.add 32001) r ∧ r.verdict = some .hazard)
      ∧ (measuring c).NoticeRoom c.holder ∧ c.steps[c.stepIndex]? = some vdcOne ∧ c.ticket = false)
    ∧ (let c := atStep vdcOne .single .sampling {}
      (measuring c).Settled ∧ c.Runs vdcOne ∧ (measuring c).Measures 0 .sampling c ∧ vdcOne.samples ≤ c.acc.count + 1
        ∧ (∃ r, StepEnds c vdcOne (c.acc.add 0) r ∧ r.verdict ≠ some .hazard)
        ∧ (measuring c).NoticeRoom c.holder ∧ c.stepIndex = c.steps.length ∧ c.ticket = false ∧ c.holder = .desk 0)
    ∧ (let c := atStep capStep .single .settle {}
      (measuring c).Settled ∧ c.Runs capStep ∧ (measuring c).Measures 0 .settle c ∧ capStep.kind = .cap)
    ∧ (∀ on : Bool,
      let c := { atStep vdcOne .single .sampling {} with holder := .mc, sourceApplied := on }
      (byMcMeasuring c).Settled ∧ c.Runs vdcOne ∧ (byMcMeasuring c).Measures 0 .sampling c
        ∧ (byMcMeasuring c).NoticeRoom c.holder ∧ c.holder = .mc ∧ ((byMcMeasuring c).bus c.bus).state = .held
        ∧ ((byMcMeasuring c).bus c.bus).boundMu = some 0 ∧ c.sourceApplied = on ∧ (byMcMeasuring c).Unclaimed) :=
  ⟨⟨onUnit_settled _, .inl ⟨rfl, rfl, rfl, rfl, rfl⟩, measures _ _ rfl, by decide,
      ⟨_, .precheck 0 false rfl rfl rfl, by decide⟩, ⟨_, .precheck 0 false rfl rfl rfl, by decide⟩,
      noticeRoom_measuring _ _, rfl, rfl⟩,
    ⟨onUnit_settled _, runs_step _ _ _ _, measures _ _ rfl, by decide, ⟨_, .vdc (by decide) rfl rfl (by decide), by decide⟩,
      noticeRoom_measuring _ _, rfl, rfl, rfl⟩,
    ⟨onUnit_settled _, runs_step _ _ _ _, measures _ _ rfl, rfl⟩,
    fun on => ⟨settled_of rfl rfl, .inr ⟨Nat.le_refl 1, rfl⟩, ⟨rfl, rfl, rfl⟩, noticeRoom_byMc _ _, rfl, rfl, rfl, rfl,
      ⟨rfl, rfl⟩⟩⟩

theorem test_witness_stepEnds :
    (∃ r, StepEnds (atStep resAuto .m .sampling {}) resAuto (Accum.add {} 20001) r)
    ∧ (∃ r, StepEnds (atStep { vdcOne with kind := .vac } .single .sampling {}) { vdcOne with kind := .vac }
        (Accum.add {} 100) r)
    ∧ (∃ r, StepEnds { atStep resAuto .mAgain .sampling {} with vf := some 20 } resAuto (Accum.add {} 7700) r)
    ∧ ∃ r, StepEnds { atStep resAuto .m .sampling {} with vf := some 120 } resAuto (Accum.add {} 3450) r :=
  ⟨⟨_, .clipped (by decide) nofun nofun (by decide)⟩, ⟨_, .vac (by decide) rfl rfl (by decide)⟩,
    ⟨_, .res 20 _ (by decide) rfl (by decide) rfl (.inl rfl) rfl⟩,
    ⟨_, .res 120 _ (by decide) rfl (by decide) rfl (.inr ⟨rfl, .inr (by decide)⟩) rfl⟩⟩

/-! ### The sweep's events, the clock, the store -/

theorem test_witness_SweepEventsTakeTheirAttempts :
    (running.Settled ∧ running.sweep.pacing = none ∧ running.sweep.closing = false)
    ∧ (let s := sweeping { pacing := some 50000, mcHold := true }
      s.Settled ∧ s.sweep.pacing = some 50000
        ∧ ∃ t, State.Triggered { s with now := max s.now 50000, sweep := { s.sweep with pacing := none } } t)
    ∧ (∃ t, (sweeping {}).Triggered t)
    ∧ (let s := { running with sweep := { closing := true }, rsTests := [⟨0, 40, 3, 41⟩] }
      s.Settled ∧ s.rsTests ≠ [])
    ∧ (let s := { running with sweep := { closing := true } }
      s.Settled ∧ s.sweep.closing = true ∧ s.rsTests = []) := by
  obtain ⟨⟨t, ht⟩, -⟩ := test_witness_attempts
  refine ⟨⟨settled_of rfl rfl, rfl, rfl⟩, ⟨settled_of rfl rfl, rfl, ?_⟩, ⟨t, .attempted t (mayStart _ rfl rfl rfl) ht⟩,
    ⟨settled_of rfl rfl, nofun⟩, ⟨settled_of rfl rfl, rfl, rfl⟩⟩
  refine ⟨_, .passed fun m => ?_⟩
  rcases m.active with ⟨e, _⟩ | ⟨_, _, e⟩ | ⟨_, e, _⟩ | ⟨_, e, _⟩
  · cases e
  · cases e
  · cases e
  · cases e

theorem test_witness_ClockCountsTheSeconds :
    (running.Settled ∧ running.clock.valid = false)
    ∧ (∀ x ∈ [86339, 86398], let s := { running with clock := ⟨600, x, true, 10000⟩ }
      s.Settled ∧ s.clock.valid = true ∧ s.clock.second < 86399)
    ∧ ((86398 + 1) / 60 = 86398 / 60 ∧ (86339 + 1) / 60 ≠ 86339 / 60)
    ∧ (let s := { running with clock := ⟨65535, 86399, true, 10000⟩ }
      s.Settled ∧ s.clock.second = 86399 ∧ s.Derived (s.seen .off)) :=
  ⟨⟨settled_of rfl rfl, rfl⟩, fun x h => ⟨settled_of rfl rfl, rfl, by revert x; decide⟩, by decide,
    ⟨settled_of rfl rfl, rfl, off_derived _ rfl⟩⟩

/-- A page in flight, the store in a phase. -/
def inFlight (ph : StorePhase) (p : PageId) : State :=
  { running with store := { running.store with phase := ph, inFlight := some ⟨p, Tab.replicate 32 0, 50⟩ } }

theorem settled_inFlight (ph : StorePhase) (p : PageId) (h : ph ≠ .quiescing) : (inFlight ph p).Settled where
  noLapse := rfl
  notQuiet := fun e => absurd e h
  serviceIdle := .inr (.inl rfl)
  notDrained := fun _ => .inr (.inl rfl)

theorem written_idle (ph : StorePhase) (p : PageId) (w : InFlight) :
    ((inFlight ph p).written w).Chooses ((inFlight ph p).written w) :=
  .idle rfl fun k => by simp [inFlight, State.written, running, State.reset]

theorem loaded_store (s : State) (p : PageId) (d : PageData) (q : Port) (tag : Option Byte) (body : ReportBody) :
    ((s.loadShadow p d).enqueue q tag body).store = s.store ∧ ((s.loadShadow p d).enqueue q tag body).sweep = s.sweep := by
  unfold State.loadShadow
  split <;> simp [State.loadMap]

theorem loaded_idle (p : PageId) :
    let w : InFlight := ⟨p, Tab.replicate 32 0, 50⟩
    let loaded := (((writing p).written w).loadShadow w.page w.data).enqueue .m (some 6) (.writeDone w.page)
    let s : State := { loaded with store := { loaded.store with settingsWrite := none } }
    loaded.store = ((writing p).written w).store → s.Chooses s := by
  intro w loaded s h
  refine .idle rfl fun k => ?_
  simp only [s, h]
  simp [writing, State.written, running, State.reset]

theorem test_witness_PageWritesComplete :
    ((running.Settled ∧ running.store.inFlight = none) ∧ ((writing 105).Settled ∧ (105 : PageId).val < 106))
    ∧ (let w : InFlight := ⟨106, Tab.replicate 32 0, 50⟩
      (inFlight .running 106).Settled ∧ (inFlight .running 106).store.inFlight = some w ∧ 106 ≤ w.page.val
        ∧ ((inFlight .running 106).written w).Chooses ((inFlight .running 106).written w)
        ∧ (inFlight .running 106).store.phase ≠ .draining
        ∧ (inFlight .draining 106).Settled ∧ (inFlight .draining 106).store.phase = .draining
        ∧ ((inFlight .draining 106).written w).Chooses ((inFlight .draining 106).written w)
        ∧ ((inFlight .draining 106).written w).store.inFlight = none)
    ∧ (∀ p ∈ [74, 105, 2, 73, 1, 0], ∃ w q t, (writing p).Settled ∧ (writing p).store.inFlight = some w ∧ w.page = p
      ∧ w.page.val < 106 ∧ (writing p).store.settingsWrite = some q ∧ (writing p).store.phase = .running
      ∧ (writing p).Room .m 1 ∧ (writing p).waitQueue = []
      ∧ (let loaded := (((writing p).written w).loadShadow w.page w.data).enqueue .m (some q.tag) (.writeDone w.page)
        State.Chooses { loaded with store := { loaded.store with settingsWrite := none } } t
          ∧ t.sweep.enabled = false))
    ∧ (∀ t : State, t.sweep.enabled = false → ∃ t₁ t₂, t.Derived t₁ ∧ t₁.Triggered t₂) := by
  refine ⟨⟨⟨settled_of rfl rfl, rfl⟩, settled_writing _, by decide⟩,
    ⟨settled_inFlight _ _ nofun, rfl, by decide, written_idle _ _ _, nofun, settled_inFlight _ _ nofun, rfl,
      written_idle _ _ _, rfl⟩, ?_, ?_⟩
  · intro p hp
    have hp' : p.val < 106 := by
      simp only [List.mem_cons, List.not_mem_nil, or_false] at hp
      rcases hp with rfl | rfl | rfl | rfl | rfl | rfl <;> decide
    refine ⟨⟨p, Tab.replicate 32 0, 50⟩, ⟨p, Tab.replicate 32 0, 6⟩, _, settled_writing p, rfl, rfl, hp', rfl, rfl, ?_, rfl,
      loaded_idle p (loaded_store _ _ _ _ _ _).1, ?_⟩
    · simp [State.Room, State.freeEntries, State.port, writing, running, State.reset, queueCapacity]
    · exact congrArg SweepRec.enabled (loaded_store _ _ _ .m (some 6) (.writeDone p)).2
  · intro t h
    refine ⟨_, _, off_derived t h, .passed fun m => ?_⟩
    rcases m.active with ⟨_, e⟩ | ⟨_, _, e⟩ | ⟨_, _, _, e⟩ | ⟨e, _⟩
    · cases e
    · cases e
    · cases e
    · rw [show (t.seen .off).sweep.enabled = t.sweep.enabled from rfl, h] at e; cases e

/-- Access not yet quiet, or the store draining, with nothing waiting. -/
def inPhase (ph : StorePhase) : State := { running with store := { running.store with phase := ph } }

theorem test_witness_RestartPhasesFollow :
    running.Settled
    ∧ ((inPhase .quiescing).lapseInHand = none ∧ (∀ b, ((inPhase .quiescing).bus b).state = .free)
      ∧ (inPhase .quiescing).store.inFlight = none ∧ (inPhase .draining).Chooses (inPhase .draining)
      ∧ (inFlight .quiescing 106).store.inFlight ≠ none)
    ∧ ((inPhase .draining).store.settingsWrite = none ∧ ∀ k, (inPhase .draining).store.dirty.get k = false) :=
  have clean : ∀ k, (inPhase .draining).store.dirty.get k = false := fun k => by simp [inPhase, running, State.reset]
  ⟨settled_of rfl rfl, ⟨rfl, by decide +kernel, rfl, .idle rfl clean, nofun⟩, rfl, clean⟩

/-- LOADING, with a page of the array given and the read standing at it. -/
def reading (p : PageId) (g : Page) : State :=
  { State.reset with store := { State.reset.store with loadIndex := p.val, array := State.reset.store.array.set p g } }

theorem test_witness_AutoloadReadsThePages :
    (running.store.phase ≠ .loading ∧ 362 ≤ 362)
    ∧ (∀ p : PageId, (reading p ⟨Tab.replicate 32 0, 65535⟩).store.phase = .loading
      ∧ (reading p ⟨Tab.replicate 32 0, 65535⟩).store.loadIndex = p.val
      ∧ (let g := (reading p ⟨Tab.replicate 32 0, 65535⟩).store.array.get p
        g.check.toNat + (g.data.items.map BitVec.toNat).sum = 65535 ∧ ∀ i, g.data.get i = 0))
    ∧ (let g : Page := ⟨Tab.replicate 32 1, 65503⟩
      ((reading 106 g).store.array.get 106).data.get 31 ≠ 0
        ∧ ((reading 106 g).store.array.get 106).check.toNat
          + (((reading 106 g).store.array.get 106).data.items.map BitVec.toNat).sum = 65535)
    ∧ (∀ p, (State.reset.store.array.get p).check.toNat
      + ((State.reset.store.array.get p).data.items.map BitVec.toNat).sum ≠ 65535)
    ∧ ((105 : PageId).val < 106 ∧ (361 : PageId).val = 106 + (255 : SlotId).val ∧ (9 : PageId).val = 2 + (7 : ClassId).val
      ∧ (73 : PageId).val = 10 + (63 : Fin 64).val ∧ (74 : PageId).val = 74 + 2 * (0 : ProgId).val
      ∧ (105 : PageId).val = 75 + 2 * (15 : ProgId).val ∧ 106 ≤ (106 : PageId).val
      ∧ (2047 : LineId).val / 32 = (63 : Fin 64).val ∧ (2047 : LineId).val / 32 ≠ (0 : Fin 64).val) := by
  refine ⟨⟨nofun, by decide⟩, fun p => ⟨rfl, rfl, ?_⟩, by decide +kernel, fun p => ?_, by decide⟩
  · simp only [reading, Tab.get_set_self, Tab.get_replicate]
    exact ⟨by decide +kernel, fun _ => trivial⟩
  · simp only [State.reset, Tab.get_replicate]
    decide +kernel

/-- Every page read, nothing kept for the examination or one ticket. -/
def loaded (image : List (SlotId × PageData)) : State :=
  { State.reset with store := { State.reset.store with loadIndex := 362, image := image } }

/-- The page of ticket 812. -/
def page812 : PageData := slotPage (some ticket812)

/-- What that page tells of ticket 812: all but the pair of its last value. -/
def record812 : Ticket := { ticket812 with pair := none }

/-- R147, R113: a restart reloads ticket 812 with the pair it had, the table as it stood before. -/
theorem test_reload_keeps_pair :
    let t := after .autoloadCompletion { loaded [(18, page812)] with tickets := (Tab.replicate 256 none).set 18 (some ticket812) }
    t.slot 18 = some ticket812 ∧ t.counter = 813 ∧ t.store.phase = .running := by decide +kernel

theorem examine_none : (examine [] (Tab.replicate 256 false)).tickets = Tab.replicate 256 none := rfl

theorem test_witness_AutoloadCompletionStartsThePart :
    (running.Settled ∧ running.store.phase ≠ .loading ∧ State.reset.store.loadIndex ≠ 362)
    ∧ ((loaded []).Settled ∧ (loaded []).store.phase = .loading ∧ (loaded []).store.loadIndex = 362
      ∧ (loaded []).lapseOwed = none ∧ (∀ p, 1 ≤ (loaded []).freeEntries p) ∧ (loaded []).store.inFlight = none
      ∧ (let e := examine (loaded []).store.image (loaded []).store.dirty
        (∀ l, ∃ q, (loaded []).lines.get l = { (loaded []).line l with quarantined := q }
          ∧ (q = true ↔ ((loaded []).line l).pendingMask.get 0 = true
            ∨ ∃ n x, e.tickets.get n = some x ∧ x.line = l ∧ x.cls = .hazard ∧ x.state ≠ .cleared))
        ∧ (false = true ↔ (∃ n x, e.tickets.get n = some x ∧ x.severity = .critical ∧ x.state = .opened)
          ∨ ∃ l, ((loaded []).line l).pendingMask.get 0 = true)
        ∧ (∀ n, e.tickets.get n = none)))
    ∧ (let e := examine (loaded [(18, page812)]).store.image (loaded [(18, page812)]).store.dirty
      e.tickets.get 18 = some record812 ∧ ∀ n x, e.tickets.get n = some x → x.number ≤ 812)
    ∧ ((18, page812) ∈ [(18, page812), (19, page812)]
      ∧ (examine [(18, page812), (19, page812)] (Tab.replicate 256 false)).tickets.get 19 = none
      ∧ (examine [(18, page812), (19, slotPage (some { ticket812 with number := 813, cls := .openLine }))]
          (Tab.replicate 256 false)).tickets.get 19 ≠ none)
    ∧ (∀ s : State, s.TableLoaded s.loadTickets.tickets)
    ∧ ∀ s : State, s.sweep.enabled = false → s.SweepIs .off := by
  have line : ∀ l, (loaded []).line l = {} := fun l => by simp [loaded, State.line, State.reset]
  have slot : ∀ n, (examine (loaded []).store.image (loaded []).store.dirty).tickets.get n = none := fun n => by
    show (Tab.replicate 256 (none : Option Ticket)).get n = none
    simp
  have load : loadTicket page812 = some record812 := by decide +kernel
  refine ⟨⟨settled_of rfl rfl, nofun, by decide⟩,
    ⟨settled_reset _ rfl rfl, rfl, rfl, rfl, fun p => ?_, rfl, fun l => ⟨false, ?_⟩, ?_, slot⟩, ⟨by decide +kernel, ?_⟩,
    ⟨by decide +kernel, by decide +kernel, by decide +kernel⟩, State.tableLoaded, fun s h => .inl ⟨h, rfl⟩⟩
  · simp [State.freeEntries, State.port, loaded, State.reset, queueCapacity]
  · refine ⟨?_, nofun, ?_⟩
    · show (loaded []).line l = _
      rw [line]
    · rintro (h | ⟨n, x, h, -⟩)
      · rw [line] at h; simp at h
      · rw [slot] at h; cases h
  · refine ⟨nofun, ?_⟩
    rintro (⟨n, x, h, -⟩ | ⟨l, h⟩)
    · rw [slot] at h; cases h
    · rw [line] at h; simp at h
  · intro n x h
    have e : (examine (loaded [(18, page812)]).store.image (loaded [(18, page812)]).store.dirty).tickets
        = (Tab.replicate 256 none).set 18 (some record812) := by decide +kernel
    rw [e, Tab.get_set] at h
    split at h
    · cases h; decide
    · simp at h

/-! ### Arithmetic and verdicts -/

theorem test_witness_IntegerRootIsExact : 400000000 ≤ 400000000 ∧ 20000 * 20000 ≤ 400000000 := by decide

theorem test_witness_ResultsAreWorkedExactly :
    (let a : Accum := ⟨1, -20000, 400000000, false⟩
     1 ≤ a.count ∧ -20000 * (a.count : Int) ≤ a.sum ∧ a.sum ≤ 20000 * a.count
      ∧ ((a.sumSq / a.count : Nat) : Int) - a.mean * a.mean ≤ 0)
    ∧ (let a : Accum := ⟨4, 1200, 440000, false⟩
      1 ≤ a.count ∧ ((a.sumSq / a.count : Nat) : Int) - a.mean * a.mean = 20000 ∧ (20000 : Int) ≤ 400000000
        ∧ ((141 : Nat) : Int) * 141 ≤ 20000 ∧ (20000 : Int) < (141 + 1) * (141 + 1))
    ∧ ((0 : Int) ≤ 0 ∧ (-1 : Int) < 0)
    ∧ ((resInputs 15 9998 100).den ≤ 2 ∧ 2 < (resInputs 310 305 50).den ∧ (resInputs 310 305 50).num ≤ 0)
    ∧ (let i := resInputs 120 3450 100
      2 < i.den ∧ 0 < i.num ∧ ((50840 : Nat) : Int) * i.den ≤ (100000 : Nat) * i.num + i.den / 2
        ∧ (100000 : Nat) * i.num + i.den / 2 < ((50840 : Nat) + 1 : Int) * i.den)
    ∧ ((resInputs 20 9710 100).den < (resInputs 20 9710 100).vs / 20
      ∧ (resInputs 0 240 100).vs / 20 ≤ (resInputs 0 240 100).den ∧ (resInputs 0 240 100).num < (resInputs 0 240 100).vs / 20
      ∧ (resInputs 120 3450 100).vs / 20 ≤ (resInputs 120 3450 100).num)
    ∧ (500000 ≤ 500000 ∧ 10 ≤ (-10 : Int).natAbs ∧ (120 : Int).natAbs ≤ 120)
    ∧ (1 ≤ 45 ∧ 6111 * 45 ≤ 275 * 1000 + 45 / 2 ∧ 275 * 1000 + 45 / 2 < (6111 + 1) * 45 ∧ 6111 ≤ 99999)
    ∧ (200000 * 50 ≤ 10000 * 1000 + 50 / 2 ∧ 10000 * 1000 + 50 / 2 < (200000 + 1) * 50 ∧ 99999 < 200000) := by
  decide +kernel

/-- A DONE step of a kind on a pair with a verdict and a value. -/
def doneStep (i : Nat) (k : StepKind) (p : Pair) (v : Verdict) (x : Int) : StepResult :=
  { index := i, kind := k, pair := p, status := .done, value := some x, verdict := some v }

/-- R116's second example, R113: VAC on AE at FAULT and on BE at MARGINAL fail at MAJOR with the BE step's value and pair; a
clipped RES step gives a HAZARD value without a pair. -/
theorem test_failure_pair :
    failureOf .foreignAc [doneStep 1 .vac .ae .fault 900, doneStep 2 .vac .be .marginal 400] = some ⟨.major, 400, some .be, none⟩
    ∧ failureOf .hazard [{ doneStep 6 .res .ae .hazard 20000 with clip := true }] = some ⟨.critical, 20000, none, none⟩ := by
  decide

theorem test_witness_VerdictsFollowTheClass :
    judgePrecheck {} 7999 0 false ≠ .hazard
    ∧ ((doneStep 0 .vdc .ae .hazard 9120).index = 0 ∧ (doneStep 6 .res .ae .fault 50).index ≠ 0
      ∧ (doneStep 6 .res .ae .fault 50).clip = false ∧ (doneStep 6 .res .ae .fault 50).pair = .ae)
    ∧ (let rs := [doneStep 1 .vdc .ae .fault 1180, doneStep 2 .vdc .be .pass 0]
      (∀ r ∈ rs, r.status = .done → r.verdict ≠ none)
        ∧ (∃ xs ys r, rs = xs ++ r :: ys ∧ r.status = .done ∧ stepClass r = .foreignDc ∧ r.verdict ≠ some .pass
          ∧ ∀ y ∈ ys, ¬ (y.status = .done ∧ stepClass y = .foreignDc ∧ y.verdict ≠ some .pass))
        ∧ ∀ r ∈ rs, ¬ (r.status = .done ∧ stepClass r = .openLine ∧ r.verdict ≠ some .pass)) :=
  ⟨by decide, by decide, by decide, ⟨[], [doneStep 2 .vdc .be .pass 0], doneStep 1 .vdc .ae .fault 1180, rfl, by decide⟩,
    by decide⟩

/-! ## The relations of the claims have an outcome -/

theorem exists_lowest {n : Nat} {p : Fin n → Prop} (h : ∃ k, p k) : ∃ k, p k ∧ ∀ j < k, ¬ p j := by
  obtain ⟨k, hk, hm⟩ := (wellFounded_lt : WellFounded ((· < ·) : Fin n → Fin n → Prop)).has_min {k | p k} h
  exact ⟨k, hk, fun j hj hp => hm j hp hj⟩

theorem chooses_total (s : State) : ∃ t, s.Chooses t := by
  cases h : s.store.settingsWrite with
  | some q => exact ⟨_, .settings q h⟩
  | none =>
    have dirty : ∀ j, ¬ s.store.dirty.get j = true → s.store.dirty.get j = false := fun j => by simp
    by_cases h₁ : ∃ k, s.store.lastSlot < k ∧ s.store.dirty.get k = true
    · obtain ⟨k, ⟨hk, hd⟩, hl⟩ := exists_lowest h₁
      exact ⟨_, .slot k h ⟨hd, .inl ⟨hk, fun j hj hjk => dirty j fun e => hl j hjk ⟨hj, e⟩⟩⟩⟩
    · by_cases h₂ : ∃ k, s.store.dirty.get k = true
      · obtain ⟨k, hd, hl⟩ := exists_lowest h₂
        exact ⟨_, .slot k h ⟨hd, .inr ⟨not_lt.1 fun hk => h₁ ⟨k, hk, hd⟩, fun j hj => dirty j fun e => h₁ ⟨j, hj, e⟩,
          fun j hj => dirty j (hl j hj)⟩⟩⟩
      · exact ⟨_, .idle h fun k => dirty k fun e => h₂ ⟨k, e⟩⟩

/-- An event ends in some state unless X's queue overflowed in it. -/
theorem ends_total {s : State} (h : s.lapseInHand = none) : ∃ e, s.EventEnds e := by
  have first : ∃ q : State, (s.store.phase = .quiescing ∧ (∀ b, (s.bus b).state = .free)
        ∧ q = { s with store := { s.store with phase := .draining } })
      ∨ (¬ (s.store.phase = .quiescing ∧ ∀ b, (s.bus b).state = .free) ∧ q = s) := by
    by_cases c : s.store.phase = .quiescing ∧ ∀ b, (s.bus b).state = .free
    · exact ⟨_, .inl ⟨c.1, c.2, rfl⟩⟩
    · exact ⟨_, .inr ⟨c, rfl⟩⟩
  obtain ⟨q, hq⟩ := first
  have second : ∃ w : State, (q.store.phase ≠ .loading ∧ q.store.inFlight = none ∧ q.Chooses w)
      ∨ ((q.store.phase = .loading ∨ q.store.inFlight ≠ none) ∧ w = q) := by
    by_cases c : q.store.phase ≠ .loading ∧ q.store.inFlight = none
    · obtain ⟨w, hw⟩ := chooses_total q
      exact ⟨w, .inl ⟨c.1, c.2, hw⟩⟩
    · exact ⟨q, .inr ⟨by simpa [or_iff_not_imp_left] using c, rfl⟩⟩
  obtain ⟨w, hw⟩ := second
  by_cases c : w.store.phase = .draining ∧ w.store.settingsWrite = none ∧ w.store.inFlight = none
      ∧ ∀ k, w.store.dirty.get k = false
  · exact ⟨_, h, q, w, hq, hw, .inl ⟨c.1, c.2.1, c.2.2.1, c.2.2.2, rfl⟩⟩
  · exact ⟨_, h, q, w, hq, hw, .inr ⟨c, rfl⟩⟩

theorem triggered_off {s : State} (h : s.sweep.enabled = false) : s.Triggered s :=
  .passed fun m => by
    have := State.sweepIs_iff.1 m.active
    simp [State.sweepState, h] at this

/-- A scan of one waiting request that is granted. -/
theorem scans_one {s : State} {e : WaitEntry} {b : BusId} {u : Option MuId} (hw : s.waitQueue = [e])
    (ha : s.ScanAdmits e.req) (hn : s.NeedsMet e.req b u) (hx : 1 ≤ s.freeEntries .x) :
    s.Scans ((s.unqueued e.req.line).granted e.req b u) := by
  unfold State.Scans
  rw [hw]
  exact .grants e [] s _ b u ha hn hx (.ends _)

/-- A quarantine evaluated where nobody waits and the sweep is disabled: the store and X's lapse as before. -/
theorem settles_total {s : State} (l : LineId) (h : s.Unclaimed) :
    ∃ t, s.QuarantineSettles l t ∧ t.store = s.store ∧ t.lapseInHand = s.lapseInHand := by
  by_cases c : (s.line l).quarantined = true
  · by_cases d : s.CarriesHazard l
    · exact ⟨s, .stands ⟨fun _ => d, fun _ => c⟩, rfl, rfl⟩
    · exact ⟨_, .lifts _ c d (State.Unclaimed.tells ⟨h.noWaits, h.sweepOff⟩), rfl, rfl⟩
  · by_cases d : s.CarriesHazard l
    · exact ⟨_, .sets (by simpa using c) d, rfl, rfl⟩
    · exact ⟨s, .stands ⟨fun e => absurd e c, fun e => absurd e d⟩, rfl, rfl⟩

/-- ALM evaluated. -/
theorem alarm_total (s : State) : ∃ a : Bool, a = true ↔ s.Alarmed := by
  by_cases h : s.Alarmed
  · exact ⟨true, by simpa using h⟩
  · exact ⟨false, by simpa using h⟩

/-- Classes of an outcome none of which failed or passed. -/
theorem classes_untouched {o : OutcomeIn} (s : State) {cs : List FaultClass}
    (h : ∀ c ∈ cs, failureOf c o.results = none ∧ passedIn c o.cause o.results = false) : ClassesTaken o cs s s := by
  induction cs with
  | nil => exact .ends s
  | cons c cs ih =>
    exact .takes c cs s s s (.untouched (h c List.mem_cons_self).1 (h c List.mem_cons_self).2)
      (ih fun x hx => h x (List.mem_cons_of_mem _ hx))

/-- Supervision restored where no line is blocked, nobody waits and the sweep is disabled. -/
theorem restores_total {s : State} (h : s.Unclaimed) (hb : ∀ l, (s.line l).blocked = false)
    (hx : 2 ≤ s.freeEntries .x) (hp : ∀ p, p ≠ .x → 8 ≤ s.freeEntries p) :
    ∃ t, s.Restores t ∧ t.freeEntries .x = s.freeEntries .x - 2 := by
  refine ⟨_, ⟨[], _, .nil, fun l o => by simp [hb], by simp, hp, .of_empty ?_, off_derived _ ?_⟩, ?_⟩
  · exact h.noWaits
  · exact h.sweepOff
  · have big : ¬ s.freeEntries .x < 2 := by omega
    have seen : ∀ (x : State) (st : SweepState), (x.seen st).freeEntries .x = x.freeEntries .x := fun _ _ => rfl
    simp [seen, State.noticeAll, State.freeEntries_enqueue, big]
    simp [State.freeEntries, State.port, State.updPort, Nat.sub_sub]

/-! ## The general clauses: states and operands that meet their hypotheses -/

theorem unit_cases (u : MuId) : u = 0 ∨ u = 1 := by revert u; decide

theorem test_witness_UnitsAndContextsStayInAgreement :
    let s : State := { measuring precheck with pending := [.abort (.desk 0) 1 0] }
    s.UnitsAgree ∧ s.ContextsFit ∧ ∃ t, step s = .next t := by
  have fits : precheck.Fits := ⟨by decide, by decide⟩
  refine ⟨⟨by decide +kernel, by decide +kernel, by decide +kernel, by decide +kernel, by decide +kernel, nofun⟩, ?_,
    next_of_goesOn (by decide +kernel)⟩
  intro u c h
  rcases unit_cases u with rfl | rfl
  · cases h; exact fits
  · cases h

/-- A HAZARD ticket on a quarantined line, and a ticket of another class on it. -/
def twoTickets : State := holds 19 { ticket812 with number := 813 } quarantined

theorem slot_twoTickets (n : SlotId) : twoTickets.slot n =
    if 19 = n then some { ticket812 with number := 813 } else if 18 = n then some hazard812 else none := by
  rw [← slot_quarantined]
  simp [twoTickets, holds, State.slot, Tab.get_set]

theorem two {n : SlotId} {t : Ticket} (h : twoTickets.slot n = some t) :
    n = 19 ∧ t = { ticket812 with number := 813 } ∨ n = 18 ∧ t = hazard812 := by
  rw [slot_twoTickets] at h
  split at h
  · cases h; exact .inl ⟨by symm; assumption, rfl⟩
  · split at h
    · cases h; exact .inr ⟨by symm; assumption, rfl⟩
    · cases h

theorem quarantine_twoTickets : twoTickets.QuarantineAgrees := by
  intro l
  have hl : twoTickets.line l = if 1210 = l then { quarantined := true } else {} := by
    simp [twoTickets, quarantined, oneTicket, holds, State.line, State.updLine, Tab.get_set, running, State.reset]
  by_cases e : 1210 = l
  · subst e
    exact ⟨fun _ => .inl ⟨18, hazard812, by decide +kernel, by decide⟩, fun _ => by rw [hl]; rfl⟩
  · rw [State.CarriesHazard, hl, if_neg e]
    simp only [Bool.false_eq_true, false_iff, not_or]
    refine ⟨?_, by decide⟩
    rintro ⟨n, t, h, h₁, -⟩
    rcases two h with ⟨-, rfl⟩ | ⟨-, rfl⟩ <;> exact e h₁

theorem test_witness_TicketsStayApart :
    let s : State := { twoTickets with pending := [.ticketClear .m 1 812] }
    s.TicketsInRange ∧ s.ContextsFit ∧ s.TicketsApart ∧ s.QuarantineAgrees ∧ ∃ t, step s = .next t := by
  refine ⟨⟨fun n t h => ?_, by decide⟩, fun u c h => ?_, ⟨fun n m t u h k => ?_, fun n m t u h k => ?_, fun n t h => ?_⟩,
    quarantine_twoTickets, next_of_goesOn (by decide +kernel)⟩
  · rcases two h with ⟨-, rfl⟩ | ⟨-, rfl⟩ <;> exact ⟨by decide, by decide, by decide, by decide, by decide⟩
  · rcases unit_cases u with rfl | rfl <;> cases h
  · rcases two h with ⟨rfl, rfl⟩ | ⟨rfl, rfl⟩ <;> rcases two k with ⟨rfl, rfl⟩ | ⟨rfl, rfl⟩ <;> decide
  · rcases two h with ⟨rfl, rfl⟩ | ⟨rfl, rfl⟩ <;> rcases two k with ⟨rfl, rfl⟩ | ⟨rfl, rfl⟩ <;> decide
  · rcases two h with ⟨rfl, rfl⟩ | ⟨rfl, rfl⟩ <;> decide

/-- A port with a receive assembly, on a state. -/
def gathers (p : Port) (a : Assembly) (s : State) : State := s.updPort p fun r => { r with assembly := a }

theorem no_kind {code : Byte} {n : Nat} (h : ∀ k ∈ OrderKind.all, k.code = code → n ∉ payloadLengths k) (k : OrderKind) :
    k.code = code → n ∉ payloadLengths k := h k (by cases k <;> decide)

theorem test_witness_FramesThatSpellNoOrder :
    (let s := gathers .m (.assembling 2 [2, 0x40, 5]) running
     s.Settled ∧ (s.port .m).inBreak = false ∧ (s.port .m).assembly = .assembling 2 [2, 0x40, 5] ∧ 2 + 2 ≤ 3 + 1
        ∧ [2, 0x40, 5] ++ [0xB9] = (2 :: 0x40 :: 5 :: [0xB9] : List Byte)
        ∧ ([2, 0x40, 5] ++ [0xB9] : List Byte).foldl (· + ·) 0 = 0
        ∧ (∀ k : OrderKind, k.code = 0x40 → ([0xB9] : List Byte).dropLast.length ∉ payloadLengths k)
        ∧ 2 ≤ s.freeEntries .m ∧ Port.m ≠ .x)
    ∧ (gathers .m (.assembling 2 [2, 0x40, 5]) (filled .m 31 running)).freeEntries .m < 2
    ∧ (let a : Assembly := .assembling 3 [3, 0x14, 5, 0]
      ([3, 0x14, 5, 0] ++ [0xE4] : List Byte).foldl (· + ·) 0 = 0
      ∧ (∀ k : OrderKind, k.code = 0x14 → ([0, 0xE4] : List Byte).dropLast.length ∉ payloadLengths k)
      ∧ ((gathers .x a supervised).Settled ∧ ((gathers .x a supervised).port .x).inBreak = false
        ∧ ((gathers .x a supervised).port .x).assembly = a ∧ 2 ≤ (gathers .x a supervised).freeEntries .x
        ∧ (gathers .x a supervised).store.phase = .running ∧ (gathers .x a supervised).supervised = true)
      ∧ (let s := gathers .x a running
        s.Settled ∧ s.supervised = false ∧ s.store.phase = .running
          ∧ ∃ t e : State, (s.updPort .x fun r => { r with assembly := .hunting }).Restores t ∧ 1 ≤ t.freeEntries .x
            ∧ (t.enqueue .x (some 5) (.reply 0x14 .badOrder .none)).EventEnds e)) := by
  refine ⟨⟨settled_of rfl rfl, rfl, rfl, by decide, rfl, by decide, no_kind (by decide),
      by decide +kernel, nofun⟩, by decide +kernel,
    by decide, no_kind (by decide),
    ⟨settled_of rfl rfl, rfl, rfl, by decide +kernel, rfl, rfl⟩, settled_of rfl rfl, rfl, rfl, ?_⟩
  obtain ⟨t, ht, hx⟩ := restores_total
    (s := (gathers .x (.assembling 3 [3, 0x14, 5, 0]) running).updPort .x fun r => { r with assembly := .hunting })
    ⟨rfl, rfl⟩ (fun l => by simp [gathers, State.updPort, State.line, running, State.reset]) (by decide +kernel)
    (fun p _ => by
      simp [State.freeEntries, State.port, gathers, State.updPort, Tab.get_set, running, State.reset, queueCapacity])
  obtain ⟨e, he⟩ := ends_total (s := t.enqueue .x (some 5) (.reply 0x14 .badOrder .none)) ht.restored.2.2.2
  exact ⟨t, e, ht, by rw [hx]; decide +kernel, he⟩

/-- Desk 3 holds TB0 on line 1600 and waits for line 1545. -/
def holdsAndWaits : State := holding 0 1600 { heldBy 3 .talk none with holder := some (.desk 3) } oneWait

theorem settled_holdsAndWaits : holdsAndWaits.Settled := settled_of rfl rfl

theorem test_witness_PortResetsEndTheHoldings :
    (holdsAndWaits.Settled ∧ (holdsAndWaits.port (.desk 3)).inBreak = false ∧ portSource? (.desk 3) = some (.desk 3)
      ∧ holdsAndWaits.WaitsAgree
      ∧ ∃ (ls : Tab LineRec 2048) (t e : State),
        (∀ l, ls.get l = if ∃ w ∈ holdsAndWaits.waitQueue, w.req.source = .desk 3 ∧ w.req.line = l
          then waitFlag false (holdsAndWaits.line l) else holdsAndWaits.line l)
        ∧ State.ReleasesAll
          { holdsAndWaits.updPort (.desk 3) fun _ => ⟨.hunting, [], false, true⟩ with
            waitQueue := holdsAndWaits.waitQueue.filter fun w => w.req.source != .desk 3, lines := ls }
          (fun r => r.holder = some (.desk 3)) .portReset t ∧ t.EventEnds e)
    ∧ (let s := onBus { heldBy 0 .none none with holder := some .mc }
      s.Settled ∧ (s.port .x).inBreak = false ∧ s.supervised = true ∧ s.store.phase = .running) := by
  refine ⟨⟨settled_holdsAndWaits, rfl, rfl, ⟨by decide, by decide, by decide, ?_, fun l => ?_⟩,
    holdsAndWaits.lines.set 1545 (waitFlag false (holdsAndWaits.line 1545)), ?_⟩, ⟨onBus_settled _, rfl, rfl, rfl⟩⟩
  · intro e he
    simp only [holdsAndWaits, holding, State.updBus, State.updLine, oneWait, List.mem_singleton] at he
    subst he
    decide +kernel
  · simp only [holdsAndWaits, holding, oneWait, State.line, State.updLine, State.updBus, waitFlag, Tab.get_set,
      supervised, running, State.reset, Tab.get_replicate]
    split
    · subst_vars; simp
    · split <;> simp_all
  · have hl : ∀ l, (holdsAndWaits.lines.set 1545 (waitFlag false (holdsAndWaits.line 1545))).get l
        = if ∃ w ∈ holdsAndWaits.waitQueue, w.req.source = .desk 3 ∧ w.req.line = l
          then waitFlag false (holdsAndWaits.line l) else holdsAndWaits.line l := fun l => by
      rw [Tab.get_set, show holdsAndWaits.waitQueue = [⟨⟨.desk 3, .order 2, 1545, .mu, none⟩, 301000⟩] from rfl]
      by_cases h : 1545 = l
      · subst h; simp
      · simp [h, State.line]
    obtain ⟨e, he⟩ := ends_total (s := State.givenBack
      { holdsAndWaits.updPort (.desk 3) fun _ => ⟨.hunting, [], false, true⟩ with
        waitQueue := holdsAndWaits.waitQueue.filter fun w => w.req.source != .desk 3
        lines := holdsAndWaits.lines.set 1545 (waitFlag false (holdsAndWaits.line 1545)) } 0 .portReset) rfl
    exact ⟨_, e, hl, .takes 0 _ _ _ _ rfl (.unitless rfl rfl)
      (.passes 1 _ _ _ nofun (.passes 2 _ _ _ nofun (.passes 3 _ _ _ nofun (.ends _)))), he⟩

theorem test_witness_QueryTicketByADeskLine :
    (let s := oneTicket ticket812
     s.Hears (.desk 2) ∧ s.NamesLine (.desk 2) 186 1210 ∧ s.TicketAt 1210 .foreignDc 18 ticket812
        ∧ classCode .foreignDc = 1)
    ∧ (running.Hears (.desk 2) ∧ running.NamesLine (.desk 2) 186 1210
      ∧ (∀ j u, running.slot j = some u → ¬ (u.line = 1210 ∧ u.cls = .foreignDc ∧ u.state ≠ .cleared))
      ∧ (running.config.windows.get 2).count ≤ 512
      ∧ 511 < (running.config.windows.get 2).count ∧ (running.config.windows.get 2).base + 511 ≤ 2047 ∧ 6 < 7) :=
  ⟨⟨hears_oneTicket _ _, ⟨by decide +kernel, by decide +kernel⟩, ticketAt_oneTicket _ (by decide), rfl⟩,
    hears_running _, ⟨by decide +kernel, by decide +kernel⟩, fun j u h => (by rw [slot_running] at h; cases h),
    by decide +kernel, by decide +kernel, by decide +kernel, by decide⟩

/-- Desk 3's request for line 1545, waiting. -/
def request : WaitEntry := ⟨⟨.desk 3, .order 2, 1545, .mu, none⟩, 301000⟩

/-- A state with that request alone in the wait queue. -/
def awaiting (s : State) : State := { s.updLine 1545 (waitFlag true) with waitQueue := [request] }

theorem hears_awaiting {s : State} {p : Port} (h₁ : s.lapseInHand = none) (h₂ : s.store = running.store)
    (h₃ : 2 ≤ s.freeEntries p) : (awaiting s).Hears p := hears_of h₁ h₂ h₃

theorem admits_request {s : State} (h₁ : s.store.phase = .running) (h₂ : (s.line 1545).onBus = none)
    (h₃ : (s.line 1545).quarantined = false) (h₄ : (s.line 1545).callState = .unknown)
    (h₅ : s.countOf (.desk 3) ≤ s.allowance (.desk 3)) : s.ScanAdmits request.req where
  running := h₁
  offBus := h₂
  quarantine := fun h => by rw [show request.req.line = 1545 from rfl, h₃] at h; cases h
  supervised := nofun
  call := .inr ⟨h₄, rfl⟩
  allowance := h₅

/-- A scan that grants the waiting request, RSS told. -/
theorem tells_request {s : State} {b : BusId} {u : MuId} (hw : s.waitQueue = [request]) (ha : s.ScanAdmits request.req)
    (hb : s.LowestFree b) (hu : s.ChosenUnit u) (hx : 1 ≤ s.freeEntries .x) (hs : s.sweep.enabled = false) :
    ∃ t, s.Scans t ∧ s.ScansAndTells t ∧ t.lapseInHand = s.lapseInHand :=
  have scan := scans_one hw ha ⟨hb, .inl ⟨rfl, u, rfl, hu⟩, nofun⟩ hx
  ⟨_, scan, ⟨_, scan, triggered_off hs⟩, rfl⟩

/-- A programme's end without a ticketed outcome, its holder a desk or MC with room for the report. -/
theorem ends_unticketed {s : State} {u : MuId} {c : Context} {cause : EndCause} (h₁ : c.holder ≠ .rs)
    (h₂ : s.HolderRoom c.holder) (h₃ : c.ticket = false) : s.ProgrammeEnds u c cause (s.ended u c cause) :=
  ⟨_, .inl ⟨h₁, h₂, rfl⟩, .inl ⟨h₃, rfl⟩⟩

theorem test_witness_TerminateFreesAUnit :
    let s := awaiting (onUnit (attached 0))
    s.Hears (.desk 0) ∧ (s.bus 0).holder = some (.desk 0) ∧ (s.bus 0).state = .held ∧ (s.bus 0).releasePending = none
    ∧ (s.bus 0).boundMu = some 0 ∧ (s.mu 0).state = .attached
    ∧ ∃ w e : State,
      State.ScansAndTells ((((s.answered (.desk 0) 1 .terminate .accepted .none).updUnit (some 0)
        (freedUnit s.now s.config.standby)).updUnit none (boundUnit s.now 0)).updBus 0
          (switchingRecord (s.now + 10 * s.config.switch) 1 .none none)) w ∧ w.EventEnds e := by
  refine ⟨hears_awaiting rfl rfl (hears_onUnit _ _).room, rfl, rfl, rfl, rfl, rfl, ?_⟩
  let s := awaiting (onUnit (attached 0))
  obtain ⟨w, -, hw, hl⟩ := tells_request (b := 1) (u := 0)
    (s := (((s.answered (.desk 0) 1 .terminate .accepted .none).updUnit (some 0)
      (freedUnit s.now s.config.standby)).updUnit none (boundUnit s.now 0)).updBus 0
        (switchingRecord (s.now + 10 * s.config.switch) 1 .none none)) rfl
    (admits_request rfl (by decide +kernel) (by decide +kernel) (by decide +kernel) (by decide +kernel))
    ⟨by decide +kernel, by decide +kernel⟩ (.inl ⟨by decide +kernel, by decide +kernel⟩) (by decide +kernel) rfl
  obtain ⟨e, he⟩ := ends_total (hl.trans rfl)
  exact ⟨w, e, hw, he⟩

/-- An order ACCEPTED for D0, the release tag noted. -/
def tagged (s : State) : State :=
  (s.answered (.desk 0) 9 .release .accepted .none).updBus 0 fun r => { r with releaseTag := some 9 }

/-- The precheck with its outcome to be applied, its source applied. -/
def ticketed : Context := { precheck with ticket := true, sourceApplied := true }

theorem test_witness_ReleaseEndsTheProgramme :
    (let s := measuring precheck
     s.Hears (.desk 0) ∧ (s.bus 0).holder = some (.desk 0) ∧ (s.bus 0).releasePending = none ∧ (s.bus 0).state = .held
      ∧ ∃ t e : State, (tagged s).Releases 0 .holder t ∧ t.EventEnds e)
    ∧ (let s := measuring ticketed
      s.Hears (.desk 0) ∧ (s.bus 0).releasePending = none ∧ (s.bus 0).state = .held
        ∧ ∃ t e : State, (tagged s).Releases 0 .holder t ∧ t.EventEnds e)
    ∧ (let s := awaiting (onUnit (attached 0))
      s.Hears (.desk 0) ∧ (s.bus 0).releasePending = none ∧ (s.bus 0).state = .held
        ∧ ∃ t e : State, (tagged s).Releases 0 .holder t ∧ t.EventEnds e) := by
  refine ⟨⟨hears_onUnit _ _, rfl, rfl, rfl, ?_⟩, ⟨hears_onUnit _ _, rfl, rfl, ?_⟩,
    hears_awaiting rfl rfl (hears_onUnit _ _).room, rfl, rfl, ?_⟩
  · obtain ⟨e, he⟩ := ends_total (s := State.updBus (State.updMu (State.ended ((tagged (measuring precheck)).updBus 0
      (decidedRecord .holder)) 0 precheck .aborted) 0 (freedUnit 0 15)) 0 (drainedRecord 100)) rfl
    exact ⟨_, e, .endsReleasing 0 precheck .aborted _ _ rfl rfl rfl rfl rfl rfl
      (ends_unticketed nofun (only (a := Port.desk 0) rfl (by decide +kernel)) rfl)
      (State.Unclaimed.tells ⟨rfl, rfl⟩), he⟩
  · obtain ⟨a, ha⟩ := alarm_total (State.ended ((tagged (measuring ticketed)).updBus 0 (decidedRecord .holder)) 0 ticketed
      .aborted)
    obtain ⟨e, he⟩ := ends_total (s := State.updBus { State.ended ((tagged (measuring ticketed)).updBus 0
      (decidedRecord .holder)) 0 ticketed .aborted with alm := a } 0 fun r =>
        { r with state := .draining, relayDue := none }) rfl
    exact ⟨_, e, .endsDraining 0 ticketed .aborted _ rfl rfl rfl rfl rfl rfl
      ⟨_, .inl ⟨nofun, only (a := Port.desk 0) rfl (by decide +kernel), rfl⟩,
        .inr ⟨rfl, _, classes_untouched _ (by decide), .inr ⟨rfl, a, ha, rfl⟩⟩⟩, he⟩
  · obtain ⟨t, -, ht, hl⟩ := tells_request (b := 1) (u := 0)
      (s := (tagged (awaiting (onUnit (attached 0)))).givenBack 0 .holder) rfl
      (admits_request rfl (by decide +kernel) (by decide +kernel) (by decide +kernel) (by decide +kernel))
      ⟨by decide +kernel, by decide +kernel⟩ (.inl ⟨by decide +kernel, by decide +kernel⟩) (by decide +kernel) rfl
    obtain ⟨e, he⟩ := ends_total (hl.trans rfl)
    exact ⟨t, e, .unbinds 0 t rfl rfl (.inl rfl) ht, he⟩

/-- A programme aborted in its second step, its first one a FAULT of class FOREIGN_DC; its outcome is to be applied. -/
def oneFault : Context :=
  { ticketed with
    steps := [vdcOne, vdcOne], stepIndex := 2, phase := .single
    results := [⟨0, .vdc, .ae, .done, some 0, none, false, false, false, false, some .pass, none⟩,
      ⟨1, .vdc, .ae, .done, some 9000, none, false, false, false, false, some .fault, none⟩,
      ⟨2, .vdc, .ae, .notRun, none, none, false, false, false, false, none, none⟩] }

theorem test_witness_AbortTakesTheOutcome :
    let s := measuring oneFault
    s.Hears (.desk 0) ∧ (s.bus 0).holder = some (.desk 0) ∧ (s.bus 0).boundMu = some 0 ∧ (s.mu 0).state = .measuring
    ∧ (s.mu 0).context = some oneFault ∧ oneFault.holder = .desk 0
    ∧ ∃ t e : State, (s.answered (.desk 0) 1 .abort .accepted .none).ProgrammeEnds 0 oneFault .aborted t ∧ t.EventEnds e := by
  refine ⟨hears_onUnit _ _, rfl, rfl, rfl, rfl, rfl, ?_⟩
  let told := ((measuring oneFault).answered (.desk 0) 1 .abort .accepted .none).ended 0 oneFault .aborted
  let failed := told.applyFailure 40 .foreignDc ⟨.major, 9000, some .ae, none⟩ (.desk 0) ⟨0, 0, false⟩
  obtain ⟨a, ha⟩ := alarm_total failed
  obtain ⟨e, he⟩ := ends_total (s := { failed with alm := a }) (by decide +kernel : failed.lapseInHand = none)
  refine ⟨_, e, ⟨told, .inl ⟨nofun, only (a := Port.desk 0) rfl (by decide +kernel), rfl⟩, .inr ⟨rfl, failed, ?_,
    .inr ⟨by decide +kernel, a, ha, rfl⟩⟩⟩, he⟩
  exact .takes .hazard _ _ _ _ (.untouched (by decide) (by decide))
    (.takes .foreignDc _ _ failed _ (.failed ⟨.major, 9000, some .ae, none⟩ _ (by decide) (.inr ⟨nofun, rfl⟩))
      (classes_untouched _ (by decide)))

/-- BUS_GRANTED told to D0 on a bus whose release is pending, another request waiting. -/
def grantedTold : State :=
  let s := awaiting (movingUnit { moving .operating .mu (some 0) with releasePending := some .lineBusy })
  ({ s with now := max s.now 120 }.updBus 0 fun r => { r with relayDue := none }).tellHolder (.desk 0) (some 1) fun p =>
    .busGranted 0 (s.lineFor p 40) .mu (some 0)

/-- A bus switched away from TALK, perhaps with a release pending, another request waiting. -/
def leavesTalk (o : Option Cause) : State :=
  awaiting (movingUnit { moving .switching .mu (some 0) with talkPair := true, releasePending := o })

/-- TERMINATION_DONE told to D0 for it. -/
def switchedTold (o : Option Cause) : State :=
  ({ leavesTalk o with now := max (leavesTalk o).now 120 }.updBus 0 fun r =>
    { r with relayDue := none, terminateTag := none, talkPair := false }).enqueue (.desk 0) none
      (.terminationDone 0 ((leavesTalk o).lineFor (.desk 0) 40) .mu (some 0))

theorem test_witness_RelayCompletionsReleaseAndScan :
    (let s := awaiting (movingUnit { moving .operating .mu (some 0) with releasePending := some .lineBusy })
     s.Settled ∧ (s.bus 0).state = .operating ∧ (s.bus 0).relayDue = some 120 ∧ (s.bus 0).line = some 40
      ∧ (s.bus 0).holder = some (.desk 0) ∧ (s.bus 0).holderTag = some (.order 1) ∧ s.HolderRoom (.desk 0)
      ∧ (s.bus 0).releasePending = some .lineBusy ∧ (s.bus 0).boundMu = some 0 ∧ (s.mu 0).state = .attached
      ∧ ∃ t e : State, (grantedTold.givenBack 0 .lineBusy).ScansAndTells t ∧ t.EventEnds e)
    ∧ (∀ o, (leavesTalk o).Settled ∧ ((leavesTalk o).bus 0).state = .switching ∧ ((leavesTalk o).bus 0).relayDue = some 120
      ∧ ((leavesTalk o).bus 0).line = some 40 ∧ ((leavesTalk o).bus 0).holder = some (.desk 0)
      ∧ (leavesTalk o).Room (.desk 0) 1 ∧ ((leavesTalk o).bus 0).talkPair = true ∧ ((leavesTalk o).bus 0).termination ≠ .talk
      ∧ ((leavesTalk o).bus 0).boundMu = some 0 ∧ ((leavesTalk o).mu 0).state = .attached
      ∧ ((leavesTalk o).bus 0).releasePending = o)
    ∧ (∃ w e : State, (switchedTold none).Scans w ∧ (w.updBus 0 fun r => { r with state := .held }).EventEnds e)
    ∧ ∃ w t e : State, (switchedTold (some .intruded)).Scans w ∧ (w.givenBack 0 .intruded).ScansAndTells t
      ∧ t.EventEnds e := by
  have room : ∀ o, (leavesTalk o).Room (.desk 0) 1 := fun o =>
    show 1 ≤ supervised.freeEntries (.desk 0) by decide +kernel
  refine ⟨⟨settled_of rfl rfl, rfl, rfl, rfl, rfl, rfl, only (a := Port.desk 0) rfl (by decide +kernel), rfl, rfl, rfl, ?_⟩,
    fun o => ⟨settled_of rfl rfl, rfl, rfl, rfl, rfl, room o, rfl, nofun, rfl, rfl, rfl⟩, ?_, ?_⟩
  · obtain ⟨t, -, ht, hl⟩ := tells_request (b := 1) (u := 0) (s := grantedTold.givenBack 0 .lineBusy) rfl
      (admits_request rfl (by decide +kernel) (by decide +kernel) (by decide +kernel) (by decide +kernel))
      ⟨by decide +kernel, by decide +kernel⟩ (.inl ⟨by decide +kernel, by decide +kernel⟩) (by decide +kernel) rfl
    obtain ⟨e, he⟩ := ends_total (hl.trans rfl)
    exact ⟨t, e, ht, he⟩
  · have scan : (switchedTold none).Scans (((switchedTold none).unqueued 1545).granted request.req 1 (some 1)) :=
      scans_one (e := request) rfl
        (admits_request rfl (by decide +kernel) (by decide +kernel) (by decide +kernel) (by decide +kernel))
        ⟨⟨by decide +kernel, by decide +kernel⟩,
          .inl ⟨rfl, 1, rfl, .inr ⟨by decide +kernel, by decide +kernel, by decide +kernel⟩⟩, nofun⟩ (by decide +kernel)
    obtain ⟨e, he⟩ := ends_total (s := (((switchedTold none).unqueued 1545).granted request.req 1 (some 1)).updBus 0 fun r =>
      { r with state := .held }) rfl
    exact ⟨_, e, scan, he⟩
  · have scan : (switchedTold (some .intruded)).Scans
        (((switchedTold (some .intruded)).unqueued 1545).granted request.req 1 (some 1)) :=
      scans_one (e := request) rfl
        (admits_request rfl (by decide +kernel) (by decide +kernel) (by decide +kernel) (by decide +kernel))
        ⟨⟨by decide +kernel, by decide +kernel⟩,
          .inl ⟨rfl, 1, rfl, .inr ⟨by decide +kernel, by decide +kernel, by decide +kernel⟩⟩, nofun⟩ (by decide +kernel)
    obtain ⟨e, he⟩ := ends_total
      (s := (((switchedTold (some .intruded)).unqueued 1545).granted request.req 1 (some 1)).givenBack 0 .intruded) rfl
    exact ⟨_, _, e, scan, State.Unclaimed.tells ⟨rfl, rfl⟩, he⟩

/-- D0's bus at the end of its release, another request waiting. -/
def leaving : State := awaiting (onBus { moving .releasing .none none with releasePending := some .holder, releaseTag := some 4 })

/-- What follows the end of its release before the scan. -/
def gone : State :=
  ((({ leaving with now := max leaving.now 120 }.updLine 40 fun r => { r with onBus := none, blocked := false }).enqueue
    .x none (.unblock 40 0)).tellHolder (.desk 0) (some 4) fun p =>
      .busReleased (some .holder) 0 (leaving.lineFor p 40)).updBus 0 fun _ => {}

/-- The last RS test's bus at the end of its release in a restart, the pass closing. -/
def lastTest : State :=
  { onBus { moving .releasing .none none with holder := some .rs, holderTag := some (.test 3), releasePending := some .restart }
      with
    store := { running.store with phase := .quiescing }, sweep := { closing := true }, rsTests := [⟨0, 40, 3, 41⟩] }

/-- What follows the end of its release before the scan: the pass ended. -/
def passClosed : State :=
  (State.passEnded
    { ({ lastTest with now := max lastTest.now 120 }.updLine 40 fun r => { r with onBus := none, blocked := false }).enqueue
      .x none (.unblock 40 0) with rsTests := lastTest.rsTests.filter fun t => t.bus != 0 }).updBus 0 fun _ => {}

theorem test_witness_ReleaseCompletionScans :
    (leaving.Settled ∧ (leaving.bus 0).state = .releasing ∧ (leaving.bus 0).relayDue = some 120
      ∧ (leaving.bus 0).line = some 40 ∧ (leaving.bus 0).holder = some (.desk 0)
      ∧ (leaving.bus 0).holderTag = some (.order 1) ∧ leaving.Room .x 2 ∧ leaving.HolderRoom (.desk 0)
      ∧ ∃ t e : State, gone.ScansAndTells t ∧ t.EventEnds e)
    ∧ (lastTest.Settled ∧ (lastTest.bus 0).state = .releasing ∧ (lastTest.bus 0).holder = some .rs
      ∧ (lastTest.bus 0).holderTag = some (.test 3) ∧ lastTest.Room .x 2 ∧ lastTest.HolderRoom .rs
      ∧ lastTest.sweep.closing = true ∧ (lastTest.rsTests.filter fun t => t.bus != 0) = []
      ∧ ∃ t e : State, passClosed.ScansAndTells t ∧ t.EventEnds e) := by
  refine ⟨⟨settled_of rfl rfl, rfl, rfl, rfl, rfl, rfl, ?_, only (a := Port.desk 0) rfl (by decide +kernel), ?_⟩,
    ⟨rfl, fun _ => ⟨0, by decide +kernel⟩, .inr (.inr ⟨rfl, by decide +kernel⟩), nofun⟩, rfl, rfl, rfl, ?_, nofun, rfl, rfl, ?_⟩
  · unfold State.Room; decide +kernel
  · obtain ⟨t, -, ht, hl⟩ := tells_request (b := 0) (u := 0) (s := gone) rfl
      (admits_request rfl (by decide +kernel) (by decide +kernel) (by decide +kernel) (by decide +kernel))
      ⟨by decide +kernel, by decide +kernel⟩ (.inr ⟨by decide +kernel, by decide +kernel, by decide +kernel⟩)
      (by decide +kernel) rfl
    obtain ⟨e, he⟩ := ends_total (hl.trans rfl)
    exact ⟨t, e, ht, he⟩
  · unfold State.Room; decide +kernel
  · obtain ⟨e, he⟩ := ends_total (s := passClosed) rfl
    exact ⟨_, e, State.Unclaimed.tells ⟨rfl, rfl⟩, he⟩

/-- A bus with a unit, its record given, MU0 MEASURING with a context. -/
def measured (r : BusRec) (c : Context) : State :=
  (onBus { r with boundMu := some 0 }).updMu 0 fun _ => { attached 0 with state := .measuring, context := some c }

/-- The precheck's source applied, no ticketing. -/
def sourced : Context := { precheck with sourceApplied := true }

/-- A release decision on a bus whose programme has applied its source. -/
theorem drains_measured {k : Cause} {e : EndCause} {s : State} (c : Context) (h₁ : (s.bus 0).state = .held)
    (h₂ : (s.bus 0).boundMu = some 0) (h₃ : (s.mu 0).state = .measuring) (h₄ : (s.mu 0).context = some c)
    (h₅ : matchingEnd k = some e) (h₆ : c.sourceApplied = true) (h₇ : c.holder ≠ .rs)
    (h₈ : (s.updBus 0 (decidedRecord k)).HolderRoom c.holder) (h₉ : c.ticket = false) :
    ∃ t, s.Releases 0 k t ∧ t = (((s.updBus 0 (decidedRecord k)).ended 0 c e).updBus 0 fun r =>
      { r with state := .draining, relayDue := none }) :=
  ⟨_, .endsDraining 0 c e _ h₁ h₂ h₃ h₄ h₅ h₆ (ends_unticketed h₇ h₈ h₉), rfl⟩

theorem test_witness_GraceExpiryEndsTheProgramme :
    let s := measured intruded sourced
    s.Settled ∧ (s.bus 0).intrusion = .pending 100000
      ∧ ∃ t e : State, State.Releases { s with now := max s.now 100000 } 0 .intruded t ∧ t.EventEnds e := by
  obtain ⟨t, ht, rfl⟩ := drains_measured (k := .intruded)
    (s := { measured intruded sourced with now := max (measured intruded sourced).now 100000 }) sourced rfl rfl rfl rfl rfl
    rfl nofun (only (a := Port.desk 0) rfl (by decide +kernel)) rfl
  obtain ⟨e, he⟩ := ends_total (s := ((({ measured intruded sourced with
    now := max (measured intruded sourced).now 100000 }.updBus 0 (decidedRecord .intruded)).ended 0 sourced .intruded).updBus
      0 fun r => { r with state := .draining, relayDue := none })) rfl
  exact ⟨settled_of rfl rfl, rfl, _, e, ht, he⟩

/-- What an order of X answered ACCEPTED leaves of a state before its effect. -/
def acceptedX (k : OrderKind) (s : State) : State :=
  { s with supTimer := some (s.now + 10000 * s.config.interval) }.answered .x 1 k .accepted .none

theorem test_witness_LineStateScansAndReleases :
    (let s := awaiting (calls 1545 .busy supervised)
     s.HearsX ∧ (s.line 1545).callState ≠ .idle
      ∧ ∃ t e : State, ((acceptedX .lineState s).updLine 1545 fun r => { r with callState := .idle }).Scans t ∧ t.EventEnds e)
    ∧ (let s := measured (byMc (heldBy 0 .mu (some 0))) { sourced with holder := .mc }
      s.HearsX ∧ (s.line 40).onBus = some 0 ∧ (s.line 40).callState ≠ .busy ∧ (s.bus 0).holder = some .mc
        ∧ ∃ t e : State, ((acceptedX .lineState s).updLine 40 fun r => { r with callState := .busy }).Releases 0 .lineBusy t
          ∧ t.EventEnds e) := by
  refine ⟨⟨⟨hears_awaiting rfl rfl (by decide +kernel), rfl⟩, by decide +kernel, ?_⟩,
    ⟨hears_of rfl rfl (by decide +kernel), rfl⟩, by decide +kernel, by decide +kernel, rfl, ?_⟩
  · have admits : State.ScanAdmits ((acceptedX .lineState (awaiting (calls 1545 .busy supervised))).updLine 1545 fun r =>
        { r with callState := .idle }) request.req :=
      ⟨rfl, by decide +kernel, fun h => absurd h (by decide +kernel), nofun, .inl (by decide +kernel), by decide +kernel⟩
    have scan := scans_one (e := request) (b := 0) (u := some 0) rfl admits
      ⟨⟨by decide +kernel, by decide +kernel⟩,
        .inl ⟨rfl, 0, rfl, .inr ⟨by decide +kernel, by decide +kernel, by decide +kernel⟩⟩, nofun⟩ (by decide +kernel)
    obtain ⟨e, he⟩ := ends_total (s := State.granted (State.unqueued ((acceptedX .lineState
      (awaiting (calls 1545 .busy supervised))).updLine 1545 fun r => { r with callState := .idle }) 1545) request.req 0
        (some 0)) rfl
    exact ⟨_, e, scan, he⟩
  · let s := measured (byMc (heldBy 0 .mu (some 0))) { sourced with holder := .mc }
    obtain ⟨t, ht, ht'⟩ := drains_measured (k := .lineBusy)
      (s := (acceptedX .lineState s).updLine 40 fun r => { r with callState := .busy }) { sourced with holder := .mc }
      rfl rfl rfl rfl rfl rfl nofun (only (a := Port.m) rfl (by decide +kernel)) rfl
    obtain ⟨e, he⟩ := ends_total (s := t) (by rw [ht']; rfl)
    exact ⟨_, e, ht, he⟩

theorem test_witness_IdleRangeScans :
    let s := awaiting supervised
    s.HearsX ∧ 1545 ≤ 2047 ∧ 1545 ≤ 1545 ∧ (s.line 1545).callState = .unknown
    ∧ ∃ (ls : Tab LineRec 2048) (t e : State),
      (∀ l : LineId, ls.get l = if 1545 ≤ l.val ∧ l.val ≤ 1545 ∧ (s.line l).callState = .unknown
        then { s.line l with callState := .idle } else s.line l)
      ∧ State.Scans { acceptedX .lineStateIdleRange s with lines := ls } t ∧ t.EventEnds e := by
  refine ⟨⟨hears_awaiting rfl rfl (by decide +kernel), rfl⟩, by decide, by decide, by decide +kernel,
    (awaiting supervised).lines.set 1545 { (awaiting supervised).line 1545 with callState := .idle }, ?_⟩
  have admits : State.ScanAdmits { acceptedX .lineStateIdleRange (awaiting supervised) with
      lines := (awaiting supervised).lines.set 1545 { (awaiting supervised).line 1545 with callState := .idle } } request.req :=
    ⟨rfl, by decide +kernel, fun h => absurd h (by decide +kernel), nofun, .inl (by decide +kernel), by decide +kernel⟩
  have scan := scans_one (e := request) (b := 0) (u := some 0) rfl admits
    ⟨⟨by decide +kernel, by decide +kernel⟩,
      .inl ⟨rfl, 0, rfl, .inr ⟨by decide +kernel, by decide +kernel, by decide +kernel⟩⟩, nofun⟩ (by decide +kernel)
  obtain ⟨e, he⟩ := ends_total (s := State.granted (State.unqueued { acceptedX .lineStateIdleRange (awaiting supervised) with
    lines := (awaiting supervised).lines.set 1545 { (awaiting supervised).line 1545 with callState := .idle } } 1545)
      request.req 0 (some 0)) rfl
  refine ⟨_, e, fun l => ?_, scan, he⟩
  rw [Tab.get_set]
  by_cases h : 1545 = l
  · subst h
    rw [if_pos rfl, if_pos ⟨by decide, by decide, by decide +kernel⟩]
  · rw [if_neg h, if_neg fun k => h (Fin.ext (le_antisymm k.1 k.2.1))]; rfl

theorem test_witness_IntrudeEndsTheProgramme :
    let s := measured (byMc (heldBy 0 .mu (some 0))) { sourced with holder := .mc }
    s.HearsX ∧ (s.line 40).onBus = some 0 ∧ (s.bus 0).releasePending = none ∧ (s.bus 0).holder = some .mc
    ∧ (s.bus 0).state ≠ .draining ∧ (s.bus 0).state ≠ .releasing
    ∧ ∃ t e : State, ((acceptedX .intrude s).updBus 0 fun r => { r with owed := some .granted, intrudeTag := some 1 }).Releases 0
      .intruded t ∧ t.EventEnds e := by
  let s := measured (byMc (heldBy 0 .mu (some 0))) { sourced with holder := .mc }
  obtain ⟨t, ht, ht'⟩ := drains_measured (k := .intruded)
    (s := (acceptedX .intrude s).updBus 0 fun r => { r with owed := some .granted, intrudeTag := some 1 })
    { sourced with holder := .mc } rfl rfl rfl rfl rfl rfl nofun (only (a := Port.m) rfl (by decide +kernel)) rfl
  obtain ⟨e, he⟩ := ends_total (s := t) (by rw [ht']; rfl)
  exact ⟨⟨hears_of rfl rfl (by decide +kernel), rfl⟩, by decide +kernel, rfl, rfl, nofun, nofun, _, e, ht, he⟩

theorem room_running (p : Port) : 8 ≤ running.freeEntries p := by
  simp [State.freeEntries, State.port, running, State.reset, queueCapacity]

theorem test_witness_OrdersOfXRestoreSupervision :
    (running.Hears .x ∧ running.supervised = false
      ∧ ∃ t e : State, running.Restores t ∧ 1 ≤ t.freeEntries .x
        ∧ (t.answered .x 7 .supervise .accepted .none).EventEnds e)
    ∧ (Instr.orderHead (.lineState .x 7 40 1) = some (.x, 7, .lineState)
      ∧ ∃ t : State, running.Restores t ∧ 2 ≤ t.freeEntries .x) := by
  obtain ⟨t, ht, hx⟩ := restores_total (s := running) ⟨rfl, rfl⟩
    (fun l => by simp [State.line, running, State.reset]) (by decide +kernel) (fun p _ => room_running p)
  obtain ⟨e, he⟩ := ends_total (s := t.answered .x 7 .supervise .accepted .none) ht.restored.2.2.2
  have room : 2 ≤ t.freeEntries .x := by rw [hx]; decide +kernel
  exact ⟨⟨hears_running _, rfl, t, e, ht, by omega, he⟩, rfl, t, ht, room⟩

/-- Room for a notice at every port but X. -/
theorem notices_fit {s : State} (hd : ∀ d, 8 ≤ s.freeEntries (.desk d)) (hm : 8 ≤ s.freeEntries .m) :
    ∀ p, p ≠ .x → 8 ≤ s.freeEntries p
  | .desk d, _ => hd d
  | .m, _ => hm
  | .x, h => absurd rfl h

/-- D0's SEIZE given on X, with the last room that suffices: X SUPERVISED, and X UNSUPERVISED. -/
theorem test_witness_OrdersNotPermittedOnX :
    Instr.orderHead (.seize .x 7 40 1 none) = some (.x, 7, .seize) ∧ orderPermits .seize .x = false
    ∧ ((filled .x 30 supervised).Hears .x ∧ (filled .x 30 supervised).supervised = true)
    ∧ (filled .x 29 running).Hears .x ∧ (filled .x 29 running).supervised = false
    ∧ ∃ t e : State, (filled .x 29 running).Restores t ∧ 1 ≤ t.freeEntries .x
        ∧ (t.answered .x 7 .seize .notPermitted .none).EventEnds e := by
  obtain ⟨t, ht, hx⟩ := restores_total (s := filled .x 29 running) ⟨rfl, rfl⟩
    (fun l => by simp [filled, State.updPort, State.line, running, State.reset]) (by decide +kernel)
    (notices_fit (by decide +kernel) (by decide +kernel))
  obtain ⟨e, he⟩ := ends_total (s := t.answered .x 7 .seize .notPermitted .none) ht.restored.2.2.2
  exact ⟨rfl, rfl, ⟨hears_of rfl rfl (by decide +kernel), rfl⟩, hears_of rfl rfl (by decide +kernel), rfl, t, e, ht,
    by rw [hx]; decide +kernel, he⟩

/-- A lapse where MC alone holds a bus, TB0, with no unit, every line is UNKNOWN and the sweep is disabled. -/
theorem lapses_of {s : State} (cause : LapseCause) (h₁ : (s.bus 0).holder = some .mc) (h₂ : (s.bus 0).state = .held)
    (h₃ : (s.bus 0).boundMu = none) (h₄ : ∀ b, b ≠ 0 → (s.bus b).holder = none) (h₅ : ∀ l, (s.line l).callState = .unknown)
    (h₆ : ∀ p, p ≠ .x → 8 ≤ s.freeEntries p) (h₇ : s.sweep.enabled = false) :
    ∃ t, s.Lapses cause t ∧ t.store = s.store ∧ t.lapseInHand = s.lapseInHand := by
  let u : State := { s with supervised := false, supTimer := none }
  have e : u.givenBack 0 .unsupervised = u.updBus 0 (releasingRecord (u.now + 10 * u.config.release) .unsupervised) := by
    unfold State.givenBack
    rw [show (u.bus 0).boundMu = none from h₃]
    rfl
  have others : ∀ b, b ≠ 0 → ¬ (((u.givenBack 0 .unsupervised).bus b).holder = some .mc
      ∨ ((u.givenBack 0 .unsupervised).bus b).holder = some .rs) := fun b hb => by
    rw [e, State.bus_updBus, if_neg (Ne.symm hb), show (u.bus b).holder = none from h₄ b hb]
    simp
  have walk : ReleaseWalk (fun r => r.holder = some .mc ∨ r.holder = some .rs) .unsupervised [0, 1, 2, 3] u
      (u.givenBack 0 .unsupervised) :=
    .takes 0 _ _ _ _ (.inl h₁) (.unitless h₂ h₃) (.passes 1 _ _ _ (others 1 (by decide))
      (.passes 2 _ _ _ (others 2 (by decide)) (.passes 3 _ _ _ (others 3 (by decide)) (.ends _))))
  refine ⟨_, ⟨s.lines, fun l => ?_, _, walk, fun p hp => ?_, off_derived _ ?_⟩, ?_, ?_⟩
  · have h := h₅ l
    rw [if_neg (by rw [h]; decide)]
    rfl
  · rw [e]; exact h₆ p hp
  · rw [e]; exact h₇
  · rw [e]; rfl
  · rw [e]; rfl

/-- MC holds TB0. -/
def mcHold : State := onBus (byMc (heldBy 0 .none none))

theorem line_mcHold (l : LineId) : (mcHold.line l).callState = .unknown := by
  simp only [mcHold, onBus, holding, State.line, State.updLine, State.updBus, Tab.get_set, supervised, running,
    State.reset, Tab.get_replicate]
  split <;> rfl

theorem others_mcHold : ∀ b, b ≠ 0 → (mcHold.bus b).holder = none := by decide +kernel

theorem test_witness_LapsesReleaseTheAutomatedHolders :
    (mcHold.Settled ∧ mcHold.supTimer = some 100000
      ∧ ∃ t e : State, State.Lapses { mcHold with now := max mcHold.now 100000 } .timeout t ∧ t.EventEnds e)
    ∧ (mcHold.port .x).inBreak = false ∧ mcHold.supervised = true ∧ mcHold.store.phase = .running
    ∧ ∃ t e : State, State.Lapses (mcHold.updPort .x fun _ => ⟨.hunting, [], false, true⟩) .portReset t ∧ t.EventEnds e := by
  obtain ⟨t, ht, -, hl⟩ := lapses_of (s := { mcHold with now := max mcHold.now 100000 }) .timeout rfl rfl rfl others_mcHold
    line_mcHold (fun p _ => room_running p) rfl
  obtain ⟨e, he⟩ := ends_total (hl.trans rfl)
  obtain ⟨t', ht', -, hl'⟩ := lapses_of (s := mcHold.updPort .x fun _ => ⟨.hunting, [], false, true⟩) .portReset rfl rfl rfl
    others_mcHold line_mcHold (fun p _ => by
      simp [State.freeEntries, State.port, mcHold, onBus, holding, State.updLine, State.updBus, State.updPort, Tab.get_set,
        supervised, running, State.reset, queueCapacity]
      split <;> simp) rfl
  obtain ⟨e', he'⟩ := ends_total (hl'.trans rfl)
  exact ⟨⟨onBus_settled _, rfl, t, e, ht, he⟩, rfl, rfl, rfl, t', e', ht', he'⟩

/-- The second half of a lapse where no automated holder has a bus and the sweep is disabled. -/
theorem lapseEnds_none {s : State} (cause : LapseCause)
    (h₁ : ∀ b, ¬ ((s.bus b).holder = some .mc ∨ (s.bus b).holder = some .rs))
    (h₂ : ∀ p, p ≠ .x → 8 ≤ s.freeEntries p) (h₃ : s.sweep.enabled = false) :
    ∃ t, s.LapseEnds cause t ∧ t.lapseInHand = s.lapseInHand :=
  ⟨_, ⟨_, .passes 0 _ _ _ (h₁ 0) (.passes 1 _ _ _ (h₁ 1) (.passes 2 _ _ _ (h₁ 2) (.passes 3 _ _ _ (h₁ 3) (.ends _)))),
    h₂, off_derived _ h₃⟩, rfl⟩

/-- D0 holds TB0 with an intrusion PENDING, and X's queue is full. -/
def crowded : State := filled .x 32 (onBus intruded)

theorem test_witness_OverflowsLapse :
    (∃ s t e : State, s.lapseInHand = some .overflow ∧ { s with lapseInHand := none }.LapseEnds .overflow t ∧ t.EventEnds e
      ∧ (s.bus 0).holder = some .mc)
    ∧ crowded.Hears (.desk 0) ∧ crowded.supervised = true ∧ crowded.freeEntries .x = 0 ∧ (0 : BusId).val = 0
    ∧ (crowded.bus 0).holder = some (.desk 0) ∧ (crowded.bus 0).owed = none ∧ (crowded.bus 0).intrusion = .pending 100000
    ∧ (crowded.bus 0).line = some 40 ∧ (crowded.classes.get (crowded.line 40).cls).isProtected = false
    ∧ (crowded.bus 0).intrudeTag = some 31 ∧ crowded.LapsedLines crowded.lines
    ∧ (let kept := (crowded.answered (.desk 0) 5 .keep .accepted .none).updBus 0 fun r =>
        { r with intrusion := .kept, intrudeTag := none }
      let alone := kept.updPort .x fun r => { r with queue := [⟨true, true, 31, .intrudeAnswer .denied⟩], lost := true }
      ∃ t e : State, { alone with supervised := false, supTimer := none, lines := crowded.lines }.LapseEnds .overflow t
        ∧ t.EventEnds e) := by
  obtain ⟨t, ⟨ls, -, ht⟩, -, hl⟩ := lapses_of (s := mcHold) .overflow rfl rfl rfl others_mcHold line_mcHold
    (fun p _ => room_running p) rfl
  obtain ⟨e, he⟩ := ends_total (hl.trans rfl)
  obtain ⟨t', ht', hl'⟩ := lapseEnds_none
    (s := { ((crowded.answered (.desk 0) 5 .keep .accepted .none).updBus 0 fun r =>
        { r with intrusion := .kept, intrudeTag := none }).updPort .x fun r =>
          { r with queue := [⟨true, true, 31, .intrudeAnswer .denied⟩], lost := true } with
      supervised := false, supTimer := none, lines := crowded.lines })
    .overflow (by decide +kernel) (notices_fit (by decide +kernel) (by decide +kernel)) rfl
  obtain ⟨e', he'⟩ := ends_total (hl'.trans rfl)
  refine ⟨⟨{ mcHold with supervised := false, supTimer := none, lines := ls, lapseInHand := some .overflow }, t, e, rfl, ht,
    he, rfl⟩, hears_of rfl rfl (by decide +kernel), rfl, by decide +kernel, rfl, rfl, rfl, rfl, rfl, by decide +kernel, rfl,
    fun l => ?_, t', e', ht', he'⟩
  have h : (crowded.line l).callState = .unknown := by
    simp only [crowded, filled, onBus, holding, State.line, State.updLine, State.updBus, State.updPort, Tab.get_set,
      supervised, running, State.reset, Tab.get_replicate]
    split <;> rfl
  rw [if_neg (by rw [h]; decide)]
  rfl

/-- The quarantine evaluated after a HAZARD ticket's clearing, ALM, and the event's end. -/
theorem clears_total {s : State} (h : s.Unclaimed) (hl : s.lapseInHand = none) :
    ∃ (w e : State) (a : Bool), s.AfterClass .hazard 1210 w ∧ (a = true ↔ w.Alarmed) ∧ { w with alm := a }.EventEnds e := by
  obtain ⟨w, hw, -, hl'⟩ := settles_total 1210 h
  obtain ⟨a, ha⟩ := alarm_total w
  obtain ⟨e, he⟩ := ends_total (s := { w with alm := a }) (hl'.trans hl)
  exact ⟨w, e, a, .inl ⟨rfl, hw⟩, ha, he⟩

theorem test_witness_ClearingLiftsTheQuarantine :
    let cleared := fun c => { hazard812 with
      state := .cleared, clearedBy := some c, clearedAt := some ⟨quarantined.clock.day, quarantined.clock.second, false⟩ }
    let byMc := quarantined.answered .m 1 .ticketClear .accepted (.ticket (some ⟨cleared .mc, ⟨1210, false⟩⟩))
    let byDesk := (quarantined.answered (.desk 2) 1 .ticketClear .accepted (.ticket (some ⟨cleared (.desk 2),
      ⟨1210 - (quarantined.config.windows.get 2).base, false⟩⟩))).enqueue .m none (.ticketEvent (.cleared (cleared (.desk 2))))
    (quarantined.NumberAt 812 18 hazard812 ∧ hazard812.state ≠ .cleared ∧ quarantined.Hears .m
      ∧ quarantined.Hears (.desk 2) ∧ quarantined.Room .m 8 ∧ quarantined.inWindow 2 1210 = true)
    ∧ (∃ (w e : State) (a : Bool), (byMc.slotDirty 18 (some (cleared .mc))).AfterClass .hazard 1210 w
      ∧ (a = true ↔ w.Alarmed) ∧ { w with alm := a }.EventEnds e)
    ∧ ∃ (w e : State) (a : Bool), (byDesk.slotDirty 18 (some (cleared (.desk 2)))).AfterClass .hazard 1210 w
      ∧ (a = true ↔ w.Alarmed) ∧ { w with alm := a }.EventEnds e :=
  ⟨⟨numberAt_quarantined, by decide, hears_of rfl rfl (by decide +kernel), hears_of rfl rfl (by decide +kernel),
      by unfold State.Room; decide +kernel, by decide +kernel⟩,
    clears_total ⟨rfl, rfl⟩ rfl, clears_total ⟨rfl, rfl⟩ rfl⟩

/-- A table full of one ticket's copies. -/
def fullOf (t : Ticket) : State := { running with tickets := Tab.replicate 256 (some t) }

theorem slot_fullOf {t u : Ticket} {k : SlotId} (h : (fullOf t).slot k = some u) : u = t := by
  simp [fullOf, State.slot] at h; exact h.symm

theorem oldest_fullOf {t : Ticket} {p : Ticket → Prop} (hp : p t) (ht : ¬ t.firstSeen.Before t.firstSeen) :
    (fullOf t).OldestAt p 0 t :=
  ⟨by simp [fullOf, State.slot], hp, fun j u h _ => by
    rw [slot_fullOf h]; exact ⟨ht, fun k => absurd k (by simp)⟩⟩

theorem test_witness_FullTablesAreTaken :
    (let x := { ticket812 with state := .cleared }
     (fullOf x).OldestAt (fun t => t.state = .cleared) 0 x ∧ (fullOf x).NextNumber 0 1 ∧ (fullOf x).Room .m 9
      ∧ (∀ k, (fullOf x).slot k ≠ none)
      ∧ ∀ k t, (fullOf x).slot k = some t → ¬ (t.line = 1211 ∧ t.cls = .foreignDc ∧ t.state ≠ .cleared))
    ∧ (let x := { ticket812 with severity := .minor }
      (fullOf x).OldestAt (fun t => t.state = .opened ∧ t.severity = .minor) 0 x ∧ (fullOf x).NextNumber 0 1
        ∧ (fullOf x).Room .m 9 ∧ (∀ k t, (fullOf x).slot k = some t → t.state ≠ .cleared)
        ∧ ∀ k t, (fullOf x).slot k = some t → ¬ (t.line = 1211 ∧ t.cls = .hazard ∧ t.state ≠ .cleared))
    ∧ (oneTicket ticket812).NextNumber 0 1 ∧ ({ oneTicket ticket812 with counter := 812 } : State).NextNumber 0 813 := by
  have next : ∀ (x : Ticket), x.number = 812 → (fullOf x).NextNumber 0 1 := fun x hx =>
    ⟨(by decide : 1 ≤ 1), (by decide : 1 ≤ 65535), fun j t _ h => by rw [slot_fullOf h, hx]; decide, 0, by decide, rfl, nofun⟩
  have room : ∀ x, (fullOf x).Room .m 9 := fun x => show 9 ≤ running.freeEntries .m by decide +kernel
  have isFull : ∀ x k, (fullOf x).slot k ≠ none := fun x k => by simp [fullOf, State.slot]
  have at18 : ∀ {j : SlotId} {t : Ticket}, (oneTicket ticket812).slot j = some t → j = 18 ∧ t = ticket812 := fun h =>
    slot18 (slot_oneTicket _) h
  refine ⟨⟨oldest_fullOf (p := fun t => t.state = .cleared) rfl (by unfold Stamp.Before; decide), next _ rfl, room _, isFull _,
      fun k t h => by rw [slot_fullOf h]; decide⟩,
    ⟨oldest_fullOf (p := fun t => t.state = .opened ∧ t.severity = .minor) ⟨rfl, rfl⟩ (by unfold Stamp.Before; decide),
      next _ rfl, room _, fun k t h => by rw [slot_fullOf h]; decide, fun k t h => by rw [slot_fullOf h]; decide⟩,
    ⟨by decide, by decide, fun j t _ h => by rw [(at18 h).2]; decide, 0, by decide, by decide, nofun⟩,
    ⟨by decide, by decide, fun j t _ h => by rw [(at18 h).2]; decide, 1, by decide, by decide, fun h hh => ?_⟩⟩
  obtain rfl : h = 0 := by omega
  exact ⟨18, ticket812, by decide, (numberAt_oneTicket ticket812).1, by decide⟩

/-- A RESTART accepted with D0 holding TB0 and desk 3's request waiting. -/
def quiesced : State :=
  { (awaiting (onBus (heldBy 0 .talk none))).answered .m 2 .restart .accepted .none with
    alm := false, supTimer := none
    store := { (awaiting (onBus (heldBy 0 .talk none))).store with phase := .quiescing, resetCause := .restart } }

theorem test_witness_RestartReleasesAndEndsTheWaits :
    (awaiting (onBus (heldBy 0 .talk none))).Hears .m
    ∧ ∃ t w e : State, quiesced.ReleasesAll (fun r => r.state ≠ .free) .restart t ∧ WaitsEnd .restart t.waitQueue t w
      ∧ w.EventEnds e := by
  refine ⟨hears_awaiting rfl rfl (hears_onBus _ _).room, quiesced.givenBack 0 .restart, ?_⟩
  obtain ⟨e, he⟩ := ends_total (s := ((quiesced.givenBack 0 .restart).unqueued 1545).tellHolder (.desk 3) (some 2) fun p =>
    .waitExpired .restart ((quiesced.givenBack 0 .restart).lineFor p 1545)) rfl
  exact ⟨_, e, .takes 0 _ _ _ _ nofun (.unitless rfl rfl) (.passes 1 _ _ _ (fun h => h rfl) (.passes 2 _ _ _ (fun h => h rfl)
      (.passes 3 _ _ _ (fun h => h rfl) (.ends _)))),
    .takes request [] _ _ (only (a := Port.desk 3) rfl (by decide +kernel)) (.ends _), he⟩

/-- What the end of the discharge leaves of a DRAINING bus, another request waiting. -/
def discharged : State :=
  let s := awaiting draining
  ({ s with now := max s.now 22090 }.updMu 0 fun m => freedUnit (max s.now 22090) s.config.standby
    { m with state := .attached, discharge := none, switchPair := none }).updBus 0
      (drainedRecord (max s.now 22090 + 10 * s.config.release))

theorem test_witness_DischargeEndScans :
    (let s := awaiting draining
     s.Settled ∧ (s.mu 0).state = .discharging ∧ (s.mu 0).discharge = some 22090 ∧ (s.mu 0).bus = some 0
      ∧ (s.bus 0).state = .draining ∧ (s.bus 0).boundMu = some 0)
    ∧ ∃ t e : State, discharged.ScansAndTells t ∧ t.EventEnds e := by
  obtain ⟨t, -, ht, hl⟩ := tells_request (b := 1) (u := 0) (s := discharged) rfl
    (admits_request rfl (by decide +kernel) (by decide +kernel) (by decide +kernel) (by decide +kernel))
    ⟨by decide +kernel, by decide +kernel⟩ (.inl ⟨by decide +kernel, by decide +kernel⟩) (by decide +kernel) rfl
  obtain ⟨e, he⟩ := ends_total (hl.trans rfl)
  exact ⟨⟨settled_of rfl rfl, rfl, rfl, rfl, rfl, rfl⟩, t, e, ht, he⟩

/-- A ticketed programme of a holder, at the last sample of its only step, its source applied. -/
def lastSample (src : Source) : Context :=
  { atStep vdcOne .single .sampling {} with
    holder := src, tag := (if src = .rs then .test 3 else .order 1), ticket := true, sourceApplied := true
    results := [⟨0, .vdc, .ae, .done, some 0, none, false, false, false, false, some .pass, none⟩,
      ⟨1, .vdc, .ae, .notRun, none, none, false, false, false, false, none, none⟩] }

/-- Its result when the sample reads 9000: a FAULT. -/
def lastResult : StepResult := ⟨1, .vdc, .ae, .done, some 9000, none, false, false, false, false, some .fault, none⟩

/-- The results at its end. -/
def lastResults : List StepResult :=
  [⟨0, .vdc, .ae, .done, some 0, none, false, false, false, false, some .pass, none⟩, lastResult]

theorem lastResults_eq (src : Source) :
    resultsAtEnd { lastSample src with results := (lastSample src).results.set 1 lastResult } = lastResults := rfl

/-- A bus of that holder, MU0 MEASURING. -/
def finishing (src : Source) : State :=
  { measured { heldBy 0 .mu (some 0) with holder := some src } (lastSample src) with rsTests := [⟨0, 40, 3, 0⟩] }

/-- The step's completion, and the programme's end told or counted, before its outcome. -/
def finished (src : Source) : State :=
  let s := finishing src
  let c := lastSample src
  let d := { c with results := c.results.set 1 lastResult }
  let told := State.stepDone { s with now := max s.now c.due } 0 c lastResult
  match src with
  | .rs => (told.updMu 0 (unitAtEnd told.now told.config.discharge d)).faultCounted 0 (worstVerdict (resultsAtEnd d))
  | _ => told.ended 0 d .complete

/-- Its outcome: HAZARD passed, FOREIGN_DC failed. -/
def outcomeOf (src : Source) : State :=
  ((finished src).applyPass 40 .hazard 2 ⟨0, 0, false⟩).applyFailure 40 .foreignDc ⟨.major, 9000, some .ae, none⟩ src ⟨0, 0, false⟩

theorem outcome_taken {src : Source} (h : ∀ n, ((finished src).applyPass 40 .hazard 2 ⟨0, 0, false⟩).slot n = none)
    (h₁ : (((finished src).applyPass 40 .hazard 2 ⟨0, 0, false⟩).line 40).quarantined = false)
    (h₂ : (((finished src).applyPass 40 .hazard 2 ⟨0, 0, false⟩).line 40).pendingMask.get 0 = false) (a : Bool)
    (ha : a = true ↔ (outcomeOf src).Alarmed) (h₃ : (outcomeOf src).store.phase = .running) :
    (finished src).OutcomeTaken ⟨src, 40, 2, .complete,
      lastResults, ⟨0, 0, false⟩⟩
      { outcomeOf src with alm := a } := by
  refine ⟨_, ?_, .inr ⟨h₃, a, ha, rfl⟩⟩
  refine .takes .hazard _ _ _ _ (.passed _ ?_ ?_ (.inl ⟨rfl, .stands ?_⟩))
    (.takes .foreignDc _ _ _ _ (.failed ⟨.major, 9000, some .ae, none⟩ _ ?_ (.inr ⟨nofun, rfl⟩)) (classes_untouched _ ?_))
  · exact (by decide : failureOf .hazard lastResults = none)
  · exact (by decide : passedIn .hazard .complete lastResults = true)
  · rw [h₁, State.CarriesHazard, h₂]
    simp only [Bool.false_eq_true, false_iff, or_false]
    rintro ⟨n, t, k, -⟩
    rw [h n] at k; cases k
  · exact (by decide : failureOf .foreignDc lastResults = some ⟨.major, 9000, some .ae, none⟩)
  · exact (by decide : ∀ c ∈ [FaultClass.foreignAc, .lowIrAb, .lowIrAe, .lowIrBe, .openLine],
      failureOf c lastResults = none ∧ passedIn c .complete lastResults = false)

theorem test_witness_ProgrammesEnd : ∀ src ∈ [Source.desk 0, .mc, .rs],
    let s := finishing src
    let c := lastSample src
    let d := { c with results := c.results.set 1 lastResult }
    let told := State.stepDone { s with now := max s.now c.due } 0 c lastResult
    s.Settled ∧ c.Runs vdcOne ∧ s.Measures 0 .sampling c ∧ vdcOne.samples ≤ c.acc.count + 1
    ∧ StepEnds c vdcOne (c.acc.add 9000) lastResult ∧ s.NoticeRoom c.holder ∧ lastResult.verdict ≠ some .hazard
    ∧ c.stepIndex = c.steps.length ∧ c.holder = src
    ∧ ∃ w : State, told.ProgrammeEnds 0 d .complete w ∧ (∃ f, w.EventEnds f)
      ∧ ∃ t f, w.Releases c.bus .programmeDone t ∧ t.EventEnds f := by
  intro src hs
  have ends : StepEnds (lastSample src) vdcOne ((lastSample src).acc.add 9000) lastResult :=
    (by decide : (⟨1, .vdc, .ae, .done, some (Accum.add {} 9000).mean, none, false, false, false, false,
      some (judgeStep {} .vdc (Accum.add {} 9000).mean), none⟩ : StepResult) = lastResult) ▸
      StepEnds.vdc (c := lastSample src) (x := vdcOne) (a := Accum.add {} 9000) (Nat.le_refl 1) rfl rfl (by decide)
  obtain ⟨a, ha⟩ := alarm_total (outcomeOf src)
  have room : 8 ≤ supervised.freeEntries (.desk 0) ∧ 8 ≤ supervised.freeEntries .m := by decide +kernel
  simp only [List.mem_cons, List.not_mem_nil, or_false] at hs
  rcases hs with rfl | rfl | rfl
  · have taken := outcome_taken (src := .desk 0) (by decide +kernel) (by decide +kernel) (by decide +kernel) a ha
      (by decide +kernel)
    have lapse : (outcomeOf (.desk 0)).lapseInHand = none := by decide +kernel
    obtain ⟨f, hf⟩ := ends_total (s := { outcomeOf (.desk 0) with alm := a }) lapse
    obtain ⟨g, hg⟩ := ends_total (s := State.updBus { outcomeOf (.desk 0) with alm := a } 0
      (drainingRecord .programmeDone)) lapse
    exact ⟨settled_of rfl rfl, .inr ⟨Nat.le_refl 1, rfl⟩, ⟨rfl, rfl, rfl⟩, Nat.le_refl 1, ends,
      only (a := Port.desk 0) rfl room.1, nofun, rfl, rfl, _,
      ⟨_, .inl ⟨nofun, only (a := Port.desk 0) rfl (by decide +kernel), rfl⟩, .inr ⟨rfl, taken⟩⟩, ⟨f, hf⟩, _, g,
      .drains 0 (by decide +kernel : ((outcomeOf (.desk 0)).bus 0).state = .held)
        (by decide +kernel : ((outcomeOf (.desk 0)).bus 0).boundMu = some 0)
        (by decide +kernel : ((outcomeOf (.desk 0)).mu 0).state = .discharging), hg⟩
  · have taken := outcome_taken (src := .mc) (by decide +kernel) (by decide +kernel) (by decide +kernel) a ha
      (by decide +kernel)
    have lapse : (outcomeOf (.mc)).lapseInHand = none := by decide +kernel
    obtain ⟨f, hf⟩ := ends_total (s := { outcomeOf (.mc) with alm := a }) lapse
    obtain ⟨g, hg⟩ := ends_total (s := State.updBus { outcomeOf (.mc) with alm := a } 0
      (drainingRecord .programmeDone)) lapse
    exact ⟨settled_of rfl rfl, .inr ⟨Nat.le_refl 1, rfl⟩, ⟨rfl, rfl, rfl⟩, Nat.le_refl 1, ends,
      only (a := Port.m) rfl room.2, nofun, rfl, rfl, _,
      ⟨_, .inl ⟨nofun, only (a := Port.m) rfl (by decide +kernel), rfl⟩, .inr ⟨rfl, taken⟩⟩, ⟨f, hf⟩, _, g,
      .drains 0 (by decide +kernel : ((outcomeOf (.mc)).bus 0).state = .held)
        (by decide +kernel : ((outcomeOf (.mc)).bus 0).boundMu = some 0)
        (by decide +kernel : ((outcomeOf (.mc)).mu 0).state = .discharging), hg⟩
  · have taken := outcome_taken (src := .rs) (by decide +kernel) (by decide +kernel) (by decide +kernel) a ha
      (by decide +kernel)
    have lapse : (outcomeOf (.rs)).lapseInHand = none := by decide +kernel
    obtain ⟨f, hf⟩ := ends_total (s := { outcomeOf (.rs) with alm := a }) lapse
    obtain ⟨g, hg⟩ := ends_total (s := State.updBus { outcomeOf (.rs) with alm := a } 0
      (drainingRecord .programmeDone)) lapse
    exact ⟨settled_of rfl rfl, .inr ⟨Nat.le_refl 1, rfl⟩, ⟨rfl, rfl, rfl⟩, Nat.le_refl 1, ends,
      nofun, nofun, rfl, rfl, _,
      ⟨_, .inr ⟨rfl, rfl⟩, .inr ⟨rfl, taken⟩⟩, ⟨f, hf⟩, _, g,
      .drains 0 (by decide +kernel : ((outcomeOf (.rs)).bus 0).state = .held)
        (by decide +kernel : ((outcomeOf (.rs)).bus 0).boundMu = some 0)
        (by decide +kernel : ((outcomeOf (.rs)).mu 0).state = .discharging), hg⟩

/-- A settings write of page 0 about to end, in a phase of the store. -/
def writingIn (ph : StorePhase) : State := { writing 0 with store := { (writing 0).store with phase := ph } }

/-- Page 0 written, its shadow loaded, WRITE_DONE reported, nothing more to write. -/
def pageZeroLoaded (ph : StorePhase) : State :=
  let w : InFlight := ⟨0, Tab.replicate 32 0, 50⟩
  let loaded := (((writingIn ph).written w).loadShadow w.page w.data).enqueue .m (some 6) (.writeDone w.page)
  { loaded with store := { loaded.store with settingsWrite := none } }

theorem test_witness_PageZeroScansTheWaits : ∀ ph ∈ [StorePhase.running, .draining],
    (writingIn ph).Settled ∧ (writingIn ph).store.inFlight = some ⟨0, Tab.replicate 32 0, 50⟩
    ∧ (writingIn ph).store.settingsWrite = some ⟨0, Tab.replicate 32 0, 6⟩ ∧ (writingIn ph).store.phase = ph
    ∧ ph ≠ .loading ∧ (writingIn ph).Room .m 1 ∧ (pageZeroLoaded ph).Chooses (pageZeroLoaded ph)
    ∧ ∃ t₀ t₁ t₂ e : State, (pageZeroLoaded ph).Scans t₀ ∧ t₀.Derived t₁ ∧ t₁.Triggered t₂ ∧ t₂.EventEnds e := by
  intro ph hph
  have h : ph ≠ .loading ∧ ph ≠ .quiescing := by
    simp only [List.mem_cons, List.not_mem_nil, or_false] at hph
    rcases hph with rfl | rfl <;> decide
  obtain ⟨e, he⟩ := ends_total (s := (pageZeroLoaded ph).seen .off) rfl
  exact ⟨⟨rfl, fun k => absurd k h.2, .inr (.inl rfl), fun _ => .inl rfl⟩, rfl, rfl, rfl, h.1,
    show 1 ≤ running.freeEntries .m by decide +kernel, .idle rfl fun k => show running.store.dirty.get k = false by
      simp [running, State.reset],
    _, _, _, e, .of_empty rfl, off_derived _ rfl, triggered_off rfl, he⟩

/-- A lapse where no automated holder has a bus, every line is UNKNOWN and the sweep is disabled. -/
theorem lapses_none {s : State} (cause : LapseCause) (h₁ : ∀ b, (s.bus b).holder = none)
    (h₂ : ∀ l, (s.line l).callState = .unknown) (h₃ : ∀ p, p ≠ .x → 8 ≤ s.freeEntries p) (h₄ : s.sweep.enabled = false) :
    ∃ t, s.Lapses cause t ∧ t.lapseInHand = s.lapseInHand := by
  obtain ⟨t, ht, hl⟩ := lapseEnds_none (s := { s with supervised := false, supTimer := none }) cause
    (fun b h => by
      have e : (s.bus b).holder = some .mc ∨ (s.bus b).holder = some .rs := h
      simp [h₁] at e) h₃ h₄
  refine ⟨t, ⟨s.lines, fun l => ?_, ht⟩, hl⟩
  rw [if_neg (by rw [h₂]; decide)]
  rfl

/-- Every page read, a lapse owed, X SUPERVISED or not. -/
def owing (sup : Bool) : State := { loaded [] with supervised := sup, lapseOwed := some .portReset }

/-- The part started, the lapse no longer owed. -/
def paid (sup : Bool) : State :=
  let s := owing sup
  let e := examine s.store.image s.store.dirty
  let bad := { s.store.bad with ticket := s.store.bad.ticket + e.discarded }
  let up : State :=
    { s with
      tickets := e.tickets, counter := 1, lines := s.lines, alm := false, draws := s.draws + 1
      units := s.units.map fun m => { m with state := .standby, standby := none }
      linkRate := s.config.rate
      sweep := { s.sweep with
        enabled := s.sweepCfg.startEnabled, pacing := some (s.now + 10000 * s.sweepCfg.pacing)
        cursor := s.sweepCfg.first }
      store := { s.store with phase := .running, lastSlot := 255, dirty := e.dirty, image := [], bad := bad } }
  { [Port.desk 0, .desk 1, .desk 2, .desk 3, .x, .m].foldl
      (fun t p => t.enqueue p none (.start s.store.resetCause bad)) ({ up with supTimer := s.supTimer }.seen .off) with
    lapseOwed := none }

/-- Three gathered pages: ticket 812, its copy, and ticket 813 of another line with a repeat count of 0. -/
def gathered : List (SlotId × PageData) :=
  [(18, page812), (19, page812), (20, slotPage (some { ticket812 with number := 813, line := 1211, repeats := 0 }))]

theorem test_witness_GatheredPagesAreExamined :
    gathered.Pairwise (fun a b => a.1 < b.1)
    ∧ (let e := examine gathered (Tab.replicate 256 false)
      let x := { record812 with number := 813, line := 1211, repeats := 1 }
      ((18, page812) ∈ gathered ∧ loadTicket page812 = some record812 ∧ (∀ m < 18, e.tickets.get m = none)
        ∧ e.tickets.get 18 = some record812 ∧ ¬ CorrectedRecord page812 record812)
      ∧ (e.tickets.get 19 = none ∧ e.discarded = 1 ∧ ∀ d, (21, d) ∉ gathered)
      ∧ ∃ d, (20, d) ∈ gathered ∧ loadTicket d = some x
        ∧ (∀ m < 20, ∀ y, e.tickets.get m = some y → ¬ y.Clashes x) ∧ e.tickets.get 20 = some x ∧ CorrectedRecord d x)
    ∧ ((loaded gathered).ImageOrdered ∧ ∃ t, step (loaded gathered) = .next t)
    ∧ ((loaded gathered).Settled ∧ (∀ b, ((loaded gathered).bus b).state = .free)
      ∧ ∀ p, 1 ≤ (loaded gathered).freeEntries p) := by
  refine ⟨by decide, ⟨⟨by simp [gathered], by decide +kernel, by decide +kernel, by decide +kernel, ?_⟩,
      ⟨by decide +kernel, by decide +kernel, fun d h => ?_⟩,
      _, List.mem_cons_of_mem _ (List.mem_cons_of_mem _ (List.mem_cons_self ..)), by decide +kernel, fun m hm y hy => ?_,
      by decide +kernel, .inl (by decide +kernel)⟩,
    ⟨⟨by decide, by decide⟩, _, rfl⟩, ⟨rfl, nofun, .inl rfl, nofun⟩, fun b => ?_, fun p => ?_⟩
  · rintro (h | ⟨h, -⟩ | ⟨-, h | h⟩ | ⟨-, h | h⟩)
    · revert h; decide +kernel
    · cases h
    · revert h; decide +kernel
    · revert h; decide +kernel
    · revert h; decide +kernel
    · exact h ⟨by decide +kernel, by decide +kernel, by decide +kernel⟩
  · simp [gathered] at h
  · have key : ∀ m : SlotId, m < 20 → (examine gathered (Tab.replicate 256 false)).tickets.get m = none
        ∨ (examine gathered (Tab.replicate 256 false)).tickets.get m = some record812 := by decide +kernel
    rcases key m hm with h | h <;> rw [h] at hy <;> cases hy
    rintro (h | ⟨-, -, h, -⟩) <;> revert h <;> decide
  · simp [loaded, State.bus, State.reset]
  · simp [State.freeEntries, State.port, loaded, State.reset, queueCapacity]

theorem test_witness_OwedLapsesArePaid :
    (∀ sup, (owing sup).Settled ∧ (owing sup).store.phase = .loading ∧ (owing sup).store.loadIndex = 362
      ∧ (owing sup).lapseOwed = some .portReset ∧ (owing sup).supervised = sup ∧ ∀ p, 1 ≤ (owing sup).freeEntries p)
    ∧ (∃ t, (paid false).EventEnds t) ∧ ∃ w t : State, (paid true).Lapses .portReset w ∧ w.EventEnds t := by
  have room : ∀ p, (owing true).freeEntries p = 32 := fun p => by
    simp [State.freeEntries, State.port, owing, loaded, State.reset, queueCapacity]
  obtain ⟨w, hw, hl⟩ := lapses_none (s := paid true) .portReset
    (fun b => show ((loaded []).bus b).holder = none by simp [loaded, State.bus, State.reset])
    (fun l => show ((loaded []).line l).callState = .unknown by simp [loaded, State.line, State.reset])
    (fun p hp => match p with
      | .desk k => (by decide +kernel : ∀ k, 8 ≤ (paid true).freeEntries (.desk k)) k
      | .m => (by decide +kernel : 8 ≤ (paid true).freeEntries .m)
      | .x => absurd rfl hp) rfl
  obtain ⟨t, ht⟩ := ends_total (s := paid false) rfl
  obtain ⟨u, hu⟩ := ends_total (hl.trans rfl)
  exact ⟨fun sup => ⟨settled_reset _ rfl rfl, rfl, rfl, rfl, rfl, fun p => by
      rw [show (owing sup).freeEntries p = (owing true).freeEntries p from rfl, room]; decide⟩, ⟨t, ht⟩, w, u, hw, hu⟩

/-- A bus switched to a termination without a unit, a release pending. -/
def switchesOff (t : Termination) : State :=
  onBus { moving .switching t none with talkPair := true, releasePending := some .intruded }

/-- TERMINATION_DONE told for it, the talk pair held or not. -/
def switchedOff (t : Termination) (pair : Bool) : State :=
  ({ switchesOff t with now := max (switchesOff t).now 120 }.updBus 0 fun r =>
    { r with relayDue := none, terminateTag := none, talkPair := pair }).enqueue (.desk 0) none
      (.terminationDone 0 ((switchesOff t).lineFor (.desk 0) 40) t none)

theorem test_witness_SwitchCompletionReleasesWithoutAUnit :
    (∀ t, (switchesOff t).Settled ∧ ((switchesOff t).bus 0).state = .switching ∧ ((switchesOff t).bus 0).boundMu = none
      ∧ ((switchesOff t).bus 0).talkPair = true ∧ ((switchesOff t).bus 0).termination = t
      ∧ ((switchesOff t).bus 0).releasePending = some .intruded)
    ∧ (∃ w e : State, (switchedOff .none false).Scans w ∧ (w.givenBack 0 .intruded).EventEnds e)
    ∧ ∃ e, ((switchedOff .talk true).givenBack 0 .intruded).EventEnds e := by
  obtain ⟨e, he⟩ := ends_total (s := (switchedOff .none false).givenBack 0 .intruded) rfl
  exact ⟨fun t => ⟨onBus_settled _, rfl, rfl, rfl, rfl, rfl⟩, ⟨_, e, .of_empty rfl, he⟩, ends_total rfl⟩

end Sys2Proof.Tests
end

section
/-!
PROOFS. QUERY_BUS (R46): the order only replies, and what it replies is the bus record.
-/

namespace Sys2Proof.Machine

/-- A reply and nothing more: in a state that hears the port the REPLY finds room and the end of the event has nothing
left to do (R178). -/
theorem State.Hears.finish_reply {s : State} {p : Port} (hs : s.Hears p) (tag : Byte) (k : OrderKind)
    (code : ReplyCode) (data : ReplyData) :
    (s.reply ⟨p, tag, k.code⟩ code data).finish = s.answered p tag k code data := by
  have hroom : s.freeEntries p ≠ 0 := by have := hs.room; omega
  have hsettled : (s.answered p tag k code data).Settled := hs.settled.congr' rfl rfl rfl
  rw [State.reply_of_room (c := ⟨p, tag, k.code⟩) hroom]
  exact hsettled.finish_eq

/-- Every port but X may send QUERY_BUS (R176). -/
theorem orderPermits_queryBus {p : Port} (hp : p ≠ .x) : orderPermits .queryBus p = true := by
  cases p with
  | desk k => rfl
  | m => rfl
  | x => exact absurd rfl hp

theorem exec_queryBus_of_hears {s : State} {p : Port} (hs : s.Hears p) (hp : p ≠ .x) (tag : Byte) (n : Nat) :
    exec (.queryBus p tag n) s = .next (queryBusOrder ⟨p, tag, OrderKind.queryBus.code⟩ n s).finish := by
  have harr : queryBusArrival p tag n s = queryBusOrder ⟨p, tag, OrderKind.queryBus.code⟩ n s :=
    State.arrival_of_hears hs hp (orderPermits_queryBus hp) tag _
  rw [← harr]
  rfl

theorem queryBusOrder_of_bus (c : OrderCtx) (b : BusId) (s : State) :
    queryBusOrder c b.val s = s.reply c .accepted (.busRecord (s.busView c.port b)) := by
  simp [queryBusOrder, busOf?]

theorem queryBusOrder_of_noBus (c : OrderCtx) {n : Nat} (hn : 3 < n) (s : State) :
    queryBusOrder c n s = s.reply c .noSuchBus := by
  have hnone : busOf? n = none := finOf?_eq_none.2 hn
  simp [queryBusOrder, hnone]

/-- Settles O16, by the two answers of `queryBusOrder`; the holder tag and whether an answer is owed are the fields the
port decides. -/
theorem queryBusReportsTheRecord : Obligations.QueryBusReportsTheRecord := by
  intro p tag n s hp hs
  rw [exec_queryBus_of_hears hs hp]
  refine ⟨?_, fun hn => ?_⟩
  · rintro b rfl
    rw [queryBusOrder_of_bus, hs.finish_reply]
    cases p with
    | desk k => rfl
    | m => rfl
    | x => exact absurd rfl hp
  · rw [queryBusOrder_of_noBus _ hn, hs.finish_reply]

end Sys2Proof.Machine
end

section
/-!
PROOFS. QUERY_MU (R89): the order only replies, and what it replies is the unit's view.
-/

namespace Sys2Proof.Machine

/-- Every port but X may send QUERY_MU (R176). -/
theorem orderPermits_queryMu {p : Port} (hp : p ≠ .x) : orderPermits .queryMu p = true := by
  cases p with
  | desk k => rfl
  | m => rfl
  | x => exact absurd rfl hp

theorem exec_queryMu_of_hears {s : State} {p : Port} (hs : s.Hears p) (hp : p ≠ .x) (tag : Byte) (n : Nat) :
    exec (.queryMu p tag n) s = .next (queryMuOrder ⟨p, tag, OrderKind.queryMu.code⟩ n s).finish := by
  have harr : queryMuArrival p tag n s = queryMuOrder ⟨p, tag, OrderKind.queryMu.code⟩ n s :=
    State.arrival_of_hears hs hp (orderPermits_queryMu hp) tag _
  rw [← harr]
  rfl

theorem queryMuOrder_of_unit (c : OrderCtx) (u : MuId) (s : State) :
    queryMuOrder c u.val s = s.reply c .accepted (.unit (s.muView u)) := by
  simp [queryMuOrder, unitOf?]

theorem queryMuOrder_of_noUnit (c : OrderCtx) {n : Nat} (hn : 1 < n) (s : State) :
    queryMuOrder c n s = s.reply c .badParameter := by
  have hnone : unitOf? n = none := finOf?_eq_none.2 hn
  simp [queryMuOrder, hnone]

/-- A unit that is not MEASURING shows no programme (R89). -/
theorem State.muView_of_not_measuring {s : State} {u : MuId} (hm : (s.mu u).state ≠ .measuring) :
    s.muView u = ⟨(s.mu u).state, (s.mu u).bus, (s.mu u).bus.bind fun b => (s.bus b).holder, none⟩ := by
  simp [State.muView, hm]

/-- A MEASURING unit shows its context's programme, step and phase (R89). -/
theorem State.muView_of_measuring {s : State} {u : MuId} {c : Context} (hm : (s.mu u).state = .measuring)
    (hc : (s.mu u).context = some c) :
    s.muView u = ⟨.measuring, (s.mu u).bus, (s.mu u).bus.bind fun b => (s.bus b).holder,
      some ⟨c.programme, c.stepIndex, c.kind, c.phase.view⟩⟩ := by
  simp [State.muView, hm, hc]

/-- Settles O17, by the two answers of `queryMuOrder`; a unit's view is split on MEASURING, and then on the phase the
reply names. -/
theorem queryMuReportsTheUnit : Obligations.QueryMuReportsTheUnit := by
  intro p tag n s hp hs
  rw [exec_queryMu_of_hears hs hp]
  refine ⟨?_, fun hn => ?_⟩
  · rintro u rfl
    rw [queryMuOrder_of_unit, hs.finish_reply]
    refine ⟨fun hm => ?_, fun c hm hc => ?_⟩
    · rw [State.muView_of_not_measuring hm]
    · rw [State.muView_of_measuring hm hc]
      cases c.phase <;> rfl
  · rw [queryMuOrder_of_noUnit _ hn, hs.finish_reply]

end Sys2Proof.Machine
end

section
/-!
PROOFS. The integer square root (R94): the root found bit by bit is Mathlib's `Nat.sqrt`.
-/

namespace Sys2Proof.Machine

/-- The search's invariant: `r` is not above the root of `v`, and `r + 2 ^ b` is. Either branch keeps it for one bit
fewer, and with no bits left it says that `r` is the root. -/
theorem isqrtFrom_eq_sqrt {v b r : Nat} (hlow : r * r ≤ v) (hhigh : v < (r + 2 ^ b) * (r + 2 ^ b)) :
    isqrtFrom v b r = Nat.sqrt v := by
  induction b generalizing r with
  | zero => exact Nat.eq_sqrt.2 ⟨hlow, hhigh⟩
  | succ b ih =>
    have hhalves : r + 2 ^ (b + 1) = r + 2 ^ b + 2 ^ b := by rw [pow_succ]; omega
    rw [isqrtFrom]
    split
    case isTrue hfits => exact ih hfits (hhalves ▸ hhigh)
    case isFalse hexceeds => exact ih hlow (not_le.1 hexceeds)

/-- Sixteen bits of root serve every v of 32 bits. -/
theorem isqrt_eq_sqrt {v : Nat} (hv : v < 2 ^ 32) : isqrt v = Nat.sqrt v :=
  isqrtFrom_eq_sqrt (Nat.zero_le v) (by omega)

/-- Settles O58, by `isqrt_eq_sqrt`: 400,000,000 is below 2 ^ 32. -/
theorem integerRootIsExact : Obligations.IntegerRootIsExact := by
  refine ⟨fun v hv => ?_, by decide⟩
  rw [isqrt_eq_sqrt (by omega)]
  exact ⟨Nat.sqrt_le v, fun r hr => Nat.le_sqrt.2 hr⟩

end Sys2Proof.Machine
end

section
/-!
PROOFS. TICKET_NEXT (R137): the searches for the oldest OPEN ticket of each severity, the highest severity first.
-/

namespace Sys2Proof.Machine

/-! ## The search for the oldest ticket (R131) -/

/-- A stamp's place in the order of ages: an invalid one lowest, valid ones by day and second (R131). -/
def Stamp.age (a : Stamp) : WithBot (ℕ ×ₗ ℕ) := if a.valid then ↑(toLex (a.day, a.second)) else ⊥

/-- The order of R131 is the linear order of the ages. -/
theorem Stamp.before_iff_age_lt {a b : Stamp} : a.Before b ↔ a.age < b.age := by
  unfold Stamp.Before Stamp.age
  cases a.valid <;> cases b.valid <;> simp [Prod.Lex.toLex_lt_toLex]

/-- Where some ticket has a property, one of them is the oldest: least by age, then by slot (R131). -/
theorem State.exists_oldestAt {s : State} {p : Ticket → Prop}
    (h : ∃ x : SlotId × Ticket, s.slot x.1 = some x.2 ∧ p x.2) : ∃ k t, s.OldestAt p k t := by
  obtain ⟨⟨k, t⟩, hmin⟩ := exists_minimalFor_of_wellFoundedLT _ (fun x => toLex (x.2.firstSeen.age, x.1)) h
  obtain ⟨hslot, hpt⟩ := hmin.prop
  refine ⟨k, t, hslot, hpt, fun j u hu hp => ?_⟩
  have hle : t.firstSeen.age < u.firstSeen.age ∨ t.firstSeen.age = u.firstSeen.age ∧ k ≤ j :=
    Prod.Lex.toLex_le_toLex.1 (not_lt.1 (hmin.not_lt (j := (j, u)) ⟨hu, hp⟩))
  rw [Stamp.before_iff_age_lt, Stamp.before_iff_age_lt]
  rcases hle with hlt | ⟨heq, hkj⟩
  · exact ⟨hlt.asymm, fun _ => hlt⟩
  · exact ⟨heq.not_gt, fun hjk => absurd hjk (not_lt.2 hkj)⟩

/-! ## The ticket most in need of a repairer (R137) -/

theorem Severity.critical_or_rank_lt (v : Severity) : v = .critical ∨ v.rank < Severity.critical.rank := by
  cases v with
  | critical => exact .inl rfl
  | major => exact .inr (by decide)
  | minor => exact .inr (by decide)

theorem Severity.major_or_rank_lt {v : Severity} (h : v ≠ .critical) : v = .major ∨ v.rank < Severity.major.rank := by
  cases v with
  | critical => exact absurd rfl h
  | major => exact .inl rfl
  | minor => exact .inr (by decide)

theorem Severity.eq_minor {v : Severity} (h : v ≠ .critical) (h' : v ≠ .major) : v = .minor := by
  cases v with
  | critical => exact absurd rfl h
  | major => exact absurd rfl h'
  | minor => rfl

/-- The search among the OPEN tickets of one severity finds none only where there is none, else the oldest. -/
theorem State.oldestOpen_cases (s : State) (v : Severity) :
    (s.oldestOpen v = none ∧ ∀ k t, s.slot k = some t → ¬ (t.state = .opened ∧ t.severity = v))
    ∨ ∃ k t, s.oldestOpen v = some t ∧ s.OldestAt (fun u => u.state = .opened ∧ u.severity = v) k t := by
  by_cases h : ∃ x : SlotId × Ticket, s.slot x.1 = some x.2 ∧ (x.2.state = .opened ∧ x.2.severity = v)
  · obtain ⟨k, t, ht⟩ := State.exists_oldestAt (p := fun u => u.state = .opened ∧ u.severity = v) h
    have hfound : (s.oldest fun u => u.state == .opened && u.severity == v) = some (k, t) :=
      ht.found fun u => by simp
    exact .inr ⟨k, t, by rw [State.oldestOpen, hfound]; rfl, ht⟩
  · have hnone : ∀ k t, s.slot k = some t → ¬ (t.state = .opened ∧ t.severity = v) :=
      fun k t hk ht => h ⟨(k, t), hk, ht⟩
    refine .inl ⟨?_, hnone⟩
    rw [State.oldestOpen, State.oldest_none fun k t hk => by simpa using hnone k t hk]
    rfl

/-- The ticket in a slot is the one R137 chooses: the oldest OPEN one of its severity, and no OPEN one ranks higher. -/
structure State.NeediestAt (s : State) (k : SlotId) (t : Ticket) : Prop where
  oldest : s.OldestAt (fun u => u.state = .opened ∧ u.severity = t.severity) k t
  highest : ∀ j u, s.slot j = some u → u.state = .opened →
    u.severity = t.severity ∨ u.severity.rank < t.severity.rank

/-- The oldest OPEN ticket of a severity is the neediest where no OPEN ticket ranks above that severity. -/
theorem State.OldestAt.neediest {s : State} {v : Severity} {k : SlotId} {t : Ticket}
    (h : s.OldestAt (fun u => u.state = .opened ∧ u.severity = v) k t)
    (hv : ∀ j u, s.slot j = some u → u.state = .opened → u.severity = v ∨ u.severity.rank < v.rank) :
    s.NeediestAt k t := by
  obtain ⟨-, ⟨-, rfl⟩, -⟩ := id h
  exact ⟨h, hv⟩

/-- The three searches find nothing only where no ticket is OPEN, else the neediest: each speaks when the searches of the
higher severities have found nothing. -/
theorem State.nextTicket_cases (s : State) :
    (s.nextTicket = none ∧ ∀ k t, s.slot k = some t → t.state ≠ .opened)
    ∨ ∃ k t, s.nextTicket = some t ∧ s.NeediestAt k t := by
  unfold State.nextTicket
  rcases s.oldestOpen_cases .critical with ⟨ec, hc⟩ | ⟨k, t, ec, ht⟩
  case inr => exact .inr ⟨k, t, by rw [ec]; rfl, ht.neediest fun _ u _ _ => u.severity.critical_or_rank_lt⟩
  rcases s.oldestOpen_cases .major with ⟨ej, hj⟩ | ⟨k, t, ej, ht⟩
  case inr =>
    refine .inr ⟨k, t, by rw [ec, ej]; rfl, ht.neediest fun j u hu ho => ?_⟩
    exact Severity.major_or_rank_lt fun e => hc j u hu ⟨ho, e⟩
  rcases s.oldestOpen_cases .minor with ⟨en, hn⟩ | ⟨k, t, en, ht⟩
  case inr =>
    refine .inr ⟨k, t, by rw [ec, ej, en]; rfl, ht.neediest fun j u hu ho => ?_⟩
    exact .inl (Severity.eq_minor (fun e => hc j u hu ⟨ho, e⟩) fun e => hj j u hu ⟨ho, e⟩)
  refine .inl ⟨by rw [ec, ej, en]; rfl, fun k t hk ho => hn k t hk ⟨ho, ?_⟩⟩
  exact Severity.eq_minor (fun e => hc k t hk ⟨ho, e⟩) fun e => hj k t hk ⟨ho, e⟩

/-- How the neediest ticket compares with any OPEN ticket (R137). -/
theorem State.NeediestAt.compare {s : State} {k j : SlotId} {t u : Ticket} (h : s.NeediestAt k t) (hu : s.slot j = some u)
    (ho : u.state = .opened) :
    u.severity.rank < t.severity.rank ∨ (u.severity = t.severity
      ∧ (t.firstSeen.earlier u.firstSeen = true ∨ (u.firstSeen.earlier t.firstSeen = false ∧ k ≤ j))) := by
  rcases h.highest j u hu ho with hv | hlt
  · obtain ⟨-, -, hold⟩ := h.oldest
    obtain ⟨hnot, hlow⟩ := hold j u hu ⟨ho, hv⟩
    rw [← earlier_iff, Bool.not_eq_true] at hnot
    refine .inr ⟨hv, ?_⟩
    rcases lt_or_ge j k with hjk | hkj
    · exact .inl (earlier_iff.2 (hlow hjk))
    · exact .inr ⟨hnot, hkj⟩
  · exact .inl hlt

/-! ## The order -/

/-- An order of a port other than X, heard and permitted, is handled, and the event then ends. -/
theorem State.Hears.exec_of_arrival {s : State} {p : Port} (hs : s.Hears p) (hp : p ≠ .x) {k : OrderKind}
    (hk : orderPermits k p = true) {i : Instr} {tag : Byte} {handle : OrderCtx → State → State}
    (hi : exec i s = .next (s.arrival p tag k handle).finish) : exec i s = .next (handle ⟨p, tag, k.code⟩ s).finish := by
  rw [hi, State.arrival_of_hears hs hp hk]

theorem exec_ticketNext_of_hears {s : State} (hs : s.Hears .m) (tag : Byte) :
    exec (.ticketNext .m tag) s = .next (ticketNextOrder ⟨.m, tag, OrderKind.ticketNext.code⟩ s).finish :=
  hs.exec_of_arrival (handle := ticketNextOrder) (by decide) rfl rfl

/-- Settles O20, by `State.nextTicket_cases`: the REPLY names nothing, or the neediest ticket with its slot. -/
theorem ticketNextNamesTheNeediest : Obligations.TicketNextNamesTheNeediest := by
  intro tag s hs
  rw [exec_ticketNext_of_hears hs, ticketNextOrder, hs.finish_reply]
  rcases s.nextTicket_cases with ⟨hnext, hnone⟩ | ⟨k, t, hnext, ht⟩
  · exact ⟨none, by rw [hnext]; rfl, fun _ => hnone, fun n t h => by cases h⟩
  · refine ⟨some (k, t), by rw [hnext]; rfl, fun h => absurd h (Option.some_ne_none _), ?_⟩
    rintro n u ⟨⟩
    obtain ⟨hslot, ⟨hopen, -⟩, -⟩ := ht.oldest
    exact ⟨hslot, hopen, fun j u hu ho => ht.compare hu ho⟩

end Sys2Proof.Machine
end

section
/-!
PROOFS. TICKET_LIST (R142): the summaries from a slot upward are ascending, and a reply carries the first 8 of them.
-/

namespace Sys2Proof.Machine

/-! ## The summaries -/

/-- The summary of a ticket in a slot (R142). -/
def Ticket.summaryAt (t : Ticket) (n : SlotId) : TicketSummary := ⟨n, t.number, t.line, t.cls, t.severity, t.state⟩

/-- The summaries from a slot upward are those of the tickets in the slots from there on. -/
theorem State.mem_summariesFrom {s : State} {first : Nat} {x : TicketSummary} :
    x ∈ s.summariesFrom first ↔ ∃ n t, s.slot n = some t ∧ first ≤ n.val ∧ t.summaryAt n = x := by
  simp only [State.summariesFrom, List.mem_filterMap, List.mem_filter, decide_eq_true_eq]
  constructor
  · rintro ⟨⟨n, o⟩, ⟨hm, hn⟩, hx⟩
    obtain ⟨t, rfl, rfl⟩ := Option.map_eq_some_iff.1 hx
    exact ⟨n, t, (Tab.mem_indexed _ _ _).1 hm, hn, rfl⟩
  · rintro ⟨n, t, ht, hn, rfl⟩
    exact ⟨(n, some t), ⟨(Tab.mem_indexed _ _ _).2 ht, hn⟩, rfl⟩

theorem State.summariesFrom_ascending (s : State) (first : Nat) :
    (s.summariesFrom first).Pairwise fun a b => a.slot < b.slot := by
  refine List.Pairwise.filterMap _ ?_ ((indexed_sorted s.tickets).filter _)
  rintro ⟨n, o⟩ ⟨m, q⟩ hlt x hx y hy
  obtain ⟨t, rfl, rfl⟩ := Option.map_eq_some_iff.1 hx
  obtain ⟨u, rfl, rfl⟩ := Option.map_eq_some_iff.1 hy
  exact hlt

/-! ## The first 8 of them -/

section
variable {all : List TicketSummary}

theorem length_take_summaryCount_le : (all.take summaryCount).length ≤ 8 := List.length_take_le _ _

/-- A summary carried stands below every summary left out. -/
theorem slot_lt_of_mem_take_of_mem_drop (hasc : all.Pairwise fun a b => a.slot < b.slot) {x y : TicketSummary}
    (hx : x ∈ all.take summaryCount) (hy : y ∈ all.drop summaryCount) : x.slot < y.slot := by
  rw [← List.take_append_drop summaryCount all] at hasc
  obtain ⟨-, -, hlt⟩ := List.pairwise_append.1 hasc
  exact hlt x hx y hy

/-- A summary left out of the reply lies beyond 8 summaries carried. -/
theorem mem_take_or_beyond (hasc : all.Pairwise fun a b => a.slot < b.slot) {y : TicketSummary} (hy : y ∈ all) :
    y ∈ all.take summaryCount
      ∨ ((all.take summaryCount).length = 8 ∧ ∀ x ∈ all.take summaryCount, x.slot < y.slot) := by
  rw [← List.take_append_drop summaryCount all] at hy
  rcases List.mem_append.1 hy with hmem | hbeyond
  · exact .inl hmem
  · have hlong : summaryCount < all.length := by
      have := List.length_pos_of_mem hbeyond
      rw [List.length_drop] at this
      omega
    exact .inr ⟨List.length_take_of_le hlong.le, fun x hx => slot_lt_of_mem_take_of_mem_drop hasc hx hbeyond⟩

/-- END exactly where at most 8 summaries stand to be carried. -/
theorem nextSlotOf_eq_none : nextSlotOf all = none ↔ all.length ≤ summaryCount := by
  unfold nextSlotOf
  split
  case isTrue hfits => simp [hfits]
  case isFalse hlong =>
    have hne : all ≠ [] := by rintro rfl; exact hlong (Nat.zero_le _)
    simpa [hne, summaryCount] using hlong

theorem getLast?_of_nextSlotOf {k : Nat} (h : nextSlotOf all = some k) :
    ∃ x, (all.take summaryCount).getLast? = some x ∧ k = x.slot.val + 1 := by
  unfold nextSlotOf at h
  split at h
  case isTrue => cases h
  case isFalse =>
    obtain ⟨x, hx, rfl⟩ := Option.map_eq_some_iff.1 h
    exact ⟨x, hx, rfl⟩

/-- END exactly where the slot of every summary is carried. -/
theorem nextSlotOf_eq_none_iff_slots (hasc : all.Pairwise fun a b => a.slot < b.slot) :
    nextSlotOf all = none ↔ ∀ y ∈ all, ∃ x ∈ all.take summaryCount, x.slot = y.slot := by
  rw [nextSlotOf_eq_none]
  constructor
  · intro hfits y hy
    exact ⟨y, by rwa [List.take_of_length_le hfits], rfl⟩
  · intro hslots
    by_contra hlong
    have hlt : summaryCount < all.length := not_le.1 hlong
    obtain ⟨x, hx, heq⟩ := hslots _ (List.getElem_mem hlt)
    have hbeyond : all[summaryCount] ∈ all.drop summaryCount := by
      rw [List.drop_eq_getElem_cons hlt]
      exact List.mem_cons_self
    exact absurd heq (slot_lt_of_mem_take_of_mem_drop hasc hx hbeyond).ne

end

/-! ## The order -/

theorem exec_ticketList_of_hears {s : State} (hs : s.Hears .m) (tag : Byte) (first : Nat) :
    exec (.ticketList .m tag first) s =
      .next (ticketListOrder ⟨.m, tag, OrderKind.ticketList.code⟩ first s).finish :=
  hs.exec_of_arrival (handle := fun c => ticketListOrder c first) (by decide) rfl rfl

/-- Settles O21: the reply carries the first 8 of the ascending summaries, so a slot left out lies beyond them. -/
theorem ticketListWalksTheSlots : Obligations.TicketListWalksTheSlots := by
  intro tag first s hs
  rw [exec_ticketList_of_hears hs]
  refine ⟨fun hbad => ?_, fun hok => ?_⟩
  · rw [ticketListOrder, if_pos hbad, hs.finish_reply]
  · have hasc := s.summariesFrom_ascending first
    refine ⟨(s.summariesFrom first).take summaryCount, nextSlotOf (s.summariesFrom first), ?_,
      length_take_summaryCount_le, hasc.sublist (List.take_sublist _ _), fun x hx => ?_, fun n t ht hn => ?_, ?_,
      fun k hk => getLast?_of_nextSlotOf hk⟩
    · rw [ticketListOrder, if_neg (not_lt.2 hok), hs.finish_reply]
    · obtain ⟨n, t, ht, hn, rfl⟩ := State.mem_summariesFrom.1 (List.mem_of_mem_take hx)
      exact ⟨hn, t, ht, rfl, rfl, rfl, rfl, rfl⟩
    · have hmem : t.summaryAt n ∈ s.summariesFrom first := State.mem_summariesFrom.2 ⟨n, t, ht, hn, rfl⟩
      exact (mem_take_or_beyond hasc hmem).imp_left fun hcarried => ⟨_, hcarried, rfl⟩
    · rw [nextSlotOf_eq_none_iff_slots hasc]
      constructor
      · exact fun hslots n t ht hn => hslots _ (State.mem_summariesFrom.2 ⟨n, t, ht, hn, rfl⟩)
      · intro hslots y hy
        obtain ⟨n, t, ht, hn, rfl⟩ := State.mem_summariesFrom.1 hy
        exact hslots n t ht hn

end Sys2Proof.Machine
end

section
/-!
PROOFS. The records' laws outlast every step (R5, R6, R17, R28, R34, R125, R158, R179): what a law reads of a state stands
in its `Skel`, every step's effect is made of moves (`step_moves`), and every move keeps the law.
-/

namespace Sys2Proof.Machine

/-- A law of the skeleton that every move keeps, any number of moves keep. -/
theorem Skel.kept_of_moves {P : Skel → Prop} (hP : ∀ {j k}, Move j k → P j → P k) {j k : Skel}
    (h : Relation.ReflTransGen Move j k) (hj : P j) : P k := by
  induction h with
  | refl => exact hj
  | tail _ m ih => exact hP m ih

/-! ## The records at reset -/

theorem State.reset_bus (b : BusId) : State.reset.bus b = {} := by simp [State.reset, State.bus]

theorem State.reset_line (l : LineId) : State.reset.line l = {} := by simp [State.reset, State.line]

theorem State.reset_mu (u : MuId) : State.reset.mu u = {} := by simp [State.reset, State.mu]

theorem State.reset_slot (n : SlotId) : State.reset.slot n = none := by simp [State.reset, State.slot]

theorem State.reset_port (p : Port) : State.reset.port p = {} := by simp [State.reset, State.port]

theorem State.reset_busesAgree : State.reset.BusesAgree :=
  ⟨fun l b => by simp [State.reset_line, State.reset_bus], fun l => by simp [State.reset_line]⟩

theorem State.reset_waitsAgree : State.reset.WaitsAgree :=
  ⟨by decide, List.nodup_nil, by simp [State.reset], by simp [State.reset], fun l => by
    simp only [State.reset_line]; simp [State.reset]⟩

theorem State.reset_ticketsInRange : State.reset.TicketsInRange :=
  ⟨fun n t ht => by simp [State.reset_slot] at ht, by decide⟩

theorem State.reset_retestBounded : State.reset.RetestBounded := ⟨by decide, List.nodup_nil⟩

theorem State.reset_queuesBounded : State.reset.QueuesBounded := fun p => by simp [State.reset_port]

/-! ## Lines and buses -/

/-- `State.BusesAgree` as a law of the skeleton. -/
structure Skel.BusesAgree (k : Skel) : Prop where
  onBus : ∀ l b, k.onBus l = some b ↔ k.isFree b = false ∧ k.busLine b = some l
  blocked : ∀ l, k.blocked l = (k.onBus l).isSome

theorem State.busesAgree_iff (s : State) : s.BusesAgree ↔ s.skel.BusesAgree := by
  have hfree : ∀ b, s.skel.isFree b = false ↔ (s.bus b).state ≠ .free := fun b => by simp [State.skel]
  constructor
  · intro h
    exact ⟨fun l b => by rw [hfree]; exact h.onBus l b, h.blocked⟩
  · intro h
    exact ⟨fun l b => by rw [← hfree]; exact h.onBus l b, h.blocked⟩

theorem Move.keeps_busesAgree {j k : Skel} (m : Move j k) (h : j.BusesAgree) : k.BusesAgree := by
  cases m with
  | grant l b hb hl hw =>
    -- the FREE bus names no line that is on it, and the line was on no bus
    have hnone : ∀ x, j.onBus x ≠ some b := fun x hx => by simpa [hb] using ((h.onBus x b).1 hx).1
    refine ⟨fun x c => ?_, fun x => ?_⟩
    · by_cases hx : x = l <;> by_cases hc : c = b
      · subst hx hc; simp
      · subst hx
        have hoff := h.onBus x c
        rw [hl] at hoff
        simpa [Function.update_of_ne hc, Ne.symm hc] using hoff
      · subst hc
        simp [Function.update_of_ne hx, hnone, Ne.symm hx]
      · simpa [Function.update_of_ne hx, Function.update_of_ne hc] using h.onBus x c
    · by_cases hx : x = l
      · subst hx; simp
      · simpa [Function.update_of_ne hx] using h.blocked x
  | release l b hb hl =>
    have hon : j.onBus l = some b := (h.onBus l b).2 ⟨hb, hl⟩
    refine ⟨fun x c => ?_, fun x => ?_⟩
    · by_cases hx : x = l <;> by_cases hc : c = b
      · subst hx hc; simp
      · subst hx
        have hoff := h.onBus x c
        rw [hon] at hoff
        simpa [Function.update_of_ne hc, Ne.symm hc] using hoff
      · subst hc
        have hoff := h.onBus x c
        rw [hl] at hoff
        simpa [Function.update_of_ne hx, Ne.symm hx] using hoff
      · simpa [Function.update_of_ne hx, Function.update_of_ne hc] using h.onBus x c
    · by_cases hx : x = l
      · subst hx; simp
      · simpa [Function.update_of_ne hx] using h.blocked x
  | por => exact (State.busesAgree_iff _).1 State.reset_busesAgree
  | _ => exact ⟨h.onBus, h.blocked⟩

/-- Settles O4: the lines and buses by the moves of a step, the units and the contexts by `step_kept`. -/
theorem busesAndLinesStayInAgreement : Obligations.BusesAndLinesStayInAgreement := by
  refine ⟨fun s t h ht => ?_, fun s t h ht => (step_kept ht).units h, fun s t h ht => (step_kept ht).contexts h⟩
  rw [State.busesAgree_iff] at h ⊢
  exact Skel.kept_of_moves Move.keeps_busesAgree (step_moves ht) h

/-! ## The wait queue -/

/-- `State.WaitsAgree` as a law of the skeleton. -/
structure Skel.WaitsAgree (k : Skel) : Prop where
  size : k.waits.length ≤ 8
  lines : (k.waits.map fun e => e.req.line).Nodup
  noRs : ∀ e ∈ k.waits, e.req.source ≠ .rs
  offBus : ∀ e ∈ k.waits, k.onBus e.req.line = none
  queued : ∀ l, k.queued l = true ↔ ∃ e ∈ k.waits, e.req.line = l

theorem State.waitsAgree_iff (s : State) : s.WaitsAgree ↔ s.skel.WaitsAgree :=
  ⟨fun h => ⟨h.size, h.lines, h.noRs, h.offBus, h.queued⟩, fun h => ⟨h.size, h.lines, h.noRs, h.offBus, h.queued⟩⟩

/-- Wherever an entry is placed, the queue holds it and the entries it held (R30). -/
theorem placeEntry_perm (q : List WaitEntry) (e : WaitEntry) : (placeEntry q e).Perm (e :: q) := by
  unfold placeEntry
  split
  · exact List.perm_middle.trans (by rw [List.takeWhile_append_dropWhile])
  · exact List.perm_append_singleton e q

theorem Move.keeps_waitsAgree {j k : Skel} (m : Move j k) (h : j.WaitsAgree) : k.WaitsAgree := by
  cases m with
  | grant l b hb hl hw =>
    -- no entry names the granted line, whichever way the grant found that
    have hno : ∀ e ∈ j.waits, e.req.line ≠ l := hw.elim
      (fun hq e he hel => by simp [(h.queued l).2 ⟨e, he, hel⟩] at hq) id
    refine ⟨h.size, h.lines, h.noRs, fun e he => ?_, fun x => ?_⟩
    · simpa [Function.update_of_ne (hno e he)] using h.offBus e he
    · by_cases hx : x = l
      · subst hx
        simpa using hno
      · simpa [Function.update_of_ne hx] using h.queued x
  | release l b hb hl =>
    refine ⟨h.size, h.lines, h.noRs, fun e he => ?_, h.queued⟩
    by_cases hx : e.req.line = l
    · simp [hx]
    · simpa [Function.update_of_ne hx] using h.offBus e he
  | placed e hs hl hq hn =>
    have hperm := placeEntry_perm j.waits e
    have hmem : ∀ x, x ∈ placeEntry j.waits e ↔ x = e ∨ x ∈ j.waits := fun x => by simp [hperm.mem_iff]
    have hnew : ∀ x ∈ j.waits, x.req.line ≠ e.req.line := fun x hx hxe => by
      simp [(h.queued e.req.line).2 ⟨x, hx, hxe⟩] at hq
    refine ⟨?_, ?_, fun x hx => ?_, fun x hx => ?_, fun x => ?_⟩
    · rw [hperm.length_eq]; exact hn
    · rw [(hperm.map _).nodup_iff, List.map_cons, List.nodup_cons]
      exact ⟨by simpa using hnew, h.lines⟩
    · rcases (hmem x).1 hx with rfl | hx
      exacts [hs, h.noRs x hx]
    · rcases (hmem x).1 hx with rfl | hx
      exacts [hl, h.offBus x hx]
    · by_cases hx : x = e.req.line
      · subst hx
        simpa using ⟨e, (hmem e).2 (.inl rfl), rfl⟩
      · simpa [Function.update_of_ne hx, hmem, Ne.symm hx] using h.queued x
  | unwait l =>
    refine ⟨(List.length_filter_le _ _).trans h.size, h.lines.sublist (List.filter_sublist.map _),
      fun x hx => h.noRs x (List.mem_filter.1 hx).1, fun x hx => h.offBus x (List.mem_filter.1 hx).1, fun x => ?_⟩
    by_cases hx : x = l
    · subst hx; simp
    · have := h.queued x
      simp only [Function.update_of_ne hx, this, List.mem_filter]
      constructor
      · rintro ⟨e, he, rfl⟩
        exact ⟨e, ⟨he, by simpa using hx⟩, rfl⟩
      · rintro ⟨e, ⟨he, -⟩, rfl⟩
        exact ⟨e, he, rfl⟩
  | por => exact (State.waitsAgree_iff _).1 State.reset_waitsAgree
  | _ => exact ⟨h.size, h.lines, h.noRs, h.offBus, h.queued⟩

/-- Settles O5, by the moves of a step. -/
theorem waitQueueStaysLawful : Obligations.WaitQueueStaysLawful := by
  intro s t h ht
  rw [State.waitsAgree_iff] at h ⊢
  exact Skel.kept_of_moves Move.keeps_waitsAgree (step_moves ht) h

/-! ## Tickets, lists and queues -/

/-- `State.TicketsInRange` as a law of the skeleton. -/
def Skel.TicketsInRange (k : Skel) : Prop := (∀ n t, k.tickets n = some t → t.InRange) ∧ CounterOk k.counter

theorem State.ticketsInRange_iff (s : State) : s.TicketsInRange ↔ s.skel.TicketsInRange :=
  ⟨fun h => ⟨h.tickets, h.counter⟩, fun h => ⟨h.1, h.2⟩⟩

theorem Move.keeps_ticketsInRange {j k : Skel} (m : Move j k) (h : j.TicketsInRange) : k.TicketsInRange := by
  obtain ⟨htickets, hcounter⟩ := h
  cases m with
  | slot n x hx =>
    refine ⟨fun m t ht => ?_, hcounter⟩
    by_cases hm : m = n
    · subst hm
      exact hx htickets hcounter t (by simpa using ht)
    · exact htickets m t (by simpa [Function.update_of_ne hm] using ht)
  | counter c hc => exact ⟨htickets, hc hcounter⟩
  | table f c hf hc => exact ⟨hf, hc⟩
  | por => exact (State.ticketsInRange_iff _).1 State.reset_ticketsInRange
  | _ => exact ⟨htickets, hcounter⟩

/-- `State.RetestBounded` as a law of the skeleton. -/
def Skel.RetestBounded (k : Skel) : Prop := k.retest.length ≤ 32 ∧ k.retest.Nodup

theorem Move.keeps_retestBounded {j k : Skel} (m : Move j k) (h : j.RetestBounded) : k.RetestBounded := by
  obtain ⟨hlen, hdup⟩ := h
  cases m with
  | retestDrop r hr => exact ⟨hr.length_le.trans hlen, hdup.sublist hr⟩
  | retestAdd l hl hn =>
    refine ⟨by simpa using hn, ?_⟩
    rw [List.nodup_append]
    exact ⟨hdup, List.nodup_singleton l, fun a ha b hb => by rw [List.mem_singleton.1 hb]; rintro rfl; exact hl ha⟩
  | por => exact State.reset_retestBounded
  | _ => exact ⟨hlen, hdup⟩

/-- `State.QueuesBounded` as a law of the skeleton. -/
def Skel.QueuesBounded (k : Skel) : Prop := ∀ p, k.qlen p ≤ 32

theorem Move.keeps_queuesBounded {j k : Skel} (m : Move j k) (h : j.QueuesBounded) : k.QueuesBounded := by
  cases m with
  | queues q hq => exact fun p => (hq p).trans (max_le (h p) le_rfl)
  | por => exact State.reset_queuesBounded
  | _ => exact h

/-- Settles O6: the ranges and the bounds by the moves of a step, the tickets' distinctness and the quarantine by
`step_kept`. -/
theorem ticketsListsAndQueuesStayInBounds : Obligations.TicketsListsAndQueuesStayInBounds := by
  refine ⟨fun s t h ht => ?_, fun s t ht => ⟨fun h => ?_, fun h => ?_⟩,
    fun s t hr hc ha ht => (step_kept ht).tickets hc hr.counter ha, fun s t h ht => (step_kept ht).quarantine h⟩
  · rw [State.ticketsInRange_iff] at h ⊢
    exact Skel.kept_of_moves Move.keeps_ticketsInRange (step_moves ht) h
  · exact Skel.kept_of_moves (P := Skel.RetestBounded) Move.keeps_retestBounded (step_moves ht) h
  · exact Skel.kept_of_moves (P := Skel.QueuesBounded) Move.keeps_queuesBounded (step_moves ht) h

/-! ## The step and the reset -/

/-- Settles O1, by the two cases of `step`. -/
theorem stepTakesTheFrontCommand : Obligations.StepTakesTheFrontCommand :=
  ⟨fun _ _ _ => rfl, fun s h => by
    unfold step
    split
    · rfl
    · next hne => simp [h] at hne⟩

/-- Settles O2: the tables by what each record holds at reset, the other fields as `State.reset` gives them. -/
theorem resetStandsAsAfterPor : Obligations.ResetStandsAsAfterPor := by
  have hclean : State.reset.store.anyDirty = false := anyDirty_iff.2 fun k => by simp [State.reset]
  exact ⟨State.reset_bus, State.reset_line, State.reset_mu, State.reset_slot, State.reset_port, rfl, rfl, rfl, rfl, rfl, rfl,
    rfl, rfl, rfl, rfl, rfl, rfl, rfl, rfl, rfl, rfl, rfl, rfl, rfl, rfl, rfl, rfl, hclean, rfl⟩

theorem State.reset_unitsAgree : State.reset.UnitsAgree := by
  constructor <;> simp [State.reset_bus, State.reset_mu]

theorem State.reset_ticketsApart : State.reset.TicketsApart := by
  constructor <;> simp [State.reset_slot]

theorem State.reset_quarantineAgrees : State.reset.QuarantineAgrees := fun l => by
  simp [State.CarriesHazard, State.reset_slot, State.reset_line]

/-- Settles O3: every law speaks of records that are empty at reset. -/
theorem resetMeetsTheRecordLaws : Obligations.ResetMeetsTheRecordLaws :=
  ⟨State.reset_busesAgree, State.reset_waitsAgree, State.reset_ticketsInRange, State.reset_retestBounded,
    State.reset_queuesBounded, State.reset_unitsAgree, fun u c h => by simp [State.reset_mu] at h,
    State.reset_ticketsApart, State.reset_quarantineAgrees⟩

end Sys2Proof.Machine
end

section
/-!
PROOFS. The orders that only read, QUERY_LINE, QUERY_STATUS, QUERY_TICKET and QUERY_SWEEP (R16, R180, R141, R143, R161):
how an order that is heard and only replies is answered, what its line field names, and the answers.
-/

namespace Sys2Proof.Machine

/-! ## Orders that are heard -/

/-- An order of a port other than X that only replies. -/
theorem State.Hears.exec_of_reply {s : State} {p : Port} (hs : s.Hears p) (hp : p ≠ .x) {k : OrderKind}
    (hk : orderPermits k p = true) {i : Instr} {tag : Byte} {handle : OrderCtx → State → State}
    (hi : exec i s = .next (s.arrival p tag k handle).finish) {code : ReplyCode} {data : ReplyData}
    (hreply : handle ⟨p, tag, k.code⟩ s = s.reply ⟨p, tag, k.code⟩ code data) :
    exec i s = .next (s.answered p tag k code data) := by
  rw [hs.exec_of_arrival hp hk hi, hreply, hs.finish_reply]

/-- An order of X, heard and permitted, restarts the supervision timer and is handled, and the event then ends (R48). -/
theorem State.HearsX.exec_of_arrival {s : State} (hs : s.HearsX) {k : OrderKind} (hk : orderPermits k .x = true)
    {i : Instr} {tag : Byte} {handle : OrderCtx → State → State}
    (hi : exec i s = .next (s.arrival .x tag k handle).finish) :
    exec i s = .next (handle ⟨.x, tag, k.code⟩ s.startSupervisionTimer).finish := by
  rw [hi, State.arrival_of_hearsX hs hk]

/-- A restarted supervision timer changes nothing of what a port's orders find. -/
theorem State.Hears.timer {s : State} {p : Port} (hs : s.Hears p) : s.startSupervisionTimer.Hears p :=
  ⟨hs.settled.congr' rfl rfl rfl, hs.running, hs.room⟩

/-- An order of X that only replies. -/
theorem State.HearsX.exec_of_reply {s : State} (hs : s.HearsX) {k : OrderKind} (hk : orderPermits k .x = true)
    {i : Instr} {tag : Byte} {handle : OrderCtx → State → State}
    (hi : exec i s = .next (s.arrival .x tag k handle).finish) {code : ReplyCode} {data : ReplyData}
    (hreply : handle ⟨.x, tag, k.code⟩ s.startSupervisionTimer
      = s.startSupervisionTimer.reply ⟨.x, tag, k.code⟩ code data) :
    exec i s = .next (s.startSupervisionTimer.answered .x tag k code data) := by
  rw [hs.exec_of_arrival hk hi, hreply, hs.hears.timer.finish_reply]

/-! ## What a line field names (R16, R20) -/

theorem State.lineOperand_of_names {s : State} {p : Port} {n : Nat} {l : LineId} (h : s.NamesLine p n l) :
    s.lineOperand p n = .ok l := by
  cases p with
  | desk d =>
    obtain ⟨hin, hl⟩ := h
    have hline : lineOf? ((s.config.windows.get d).base + n) = some l := finOf?_eq_some.2 hl.symm
    simp [State.lineOperand, State.fromDesk, hin, hline]
  | x =>
    have hline : lineOf? n = some l := finOf?_eq_some.2 (Eq.symm h)
    simp [State.lineOperand, hline]
  | m =>
    have hline : lineOf? n = some l := finOf?_eq_some.2 (Eq.symm h)
    simp [State.lineOperand, hline]

theorem State.lineOperand_desk_outside {s : State} {d : DeskId} {n : Nat} (h : (s.config.windows.get d).count ≤ n) :
    s.lineOperand (.desk d) n = .error .outOfWindow := by
  simp [State.lineOperand, State.fromDesk, not_lt.2 h]

theorem lineOf?_above {n : Nat} (h : 2047 < n) : lineOf? n = none := finOf?_eq_none.2 h

theorem State.lineOperand_x_above {s : State} {n : Nat} (h : 2047 < n) :
    s.lineOperand .x n = .error .badParameter := by simp [State.lineOperand, lineOf?_above h]

theorem State.lineOperand_m_above {s : State} {n : Nat} (h : 2047 < n) :
    s.lineOperand .m n = .error .badParameter := by simp [State.lineOperand, lineOf?_above h]

/-- A desk's line inside its window stands in the desk's numbering (R20). -/
theorem State.lineFor_inside {s : State} {d : DeskId} {l : LineId} (h : (s.config.windows.get d).base ≤ l.val)
    (h' : l.val < (s.config.windows.get d).base + (s.config.windows.get d).count) :
    s.lineFor (.desk d) l = ⟨l.val - (s.config.windows.get d).base, false⟩ := by
  simp [State.lineFor, State.inWindow, h, h']

theorem State.lineFor_outside {s : State} {d : DeskId} {l : LineId} (h : l.val < (s.config.windows.get d).base
      ∨ (s.config.windows.get d).base + (s.config.windows.get d).count ≤ l.val) :
    s.lineFor (.desk d) l = ⟨l.val, true⟩ := by
  have hout : s.inWindow d l = false := by simp [State.inWindow]; omega
  simp [State.lineFor, hout]

/-- A line that a desk names is given back to it as the desk named it. -/
theorem State.NamesLine.lineFor_desk {s : State} {d : DeskId} {n : Nat} {l : LineId} (h : s.NamesLine (.desk d) n l) :
    s.lineFor (.desk d) l = ⟨n, false⟩ := by
  obtain ⟨hin, hl⟩ := h
  rw [State.lineFor_inside (by omega) (by omega), hl, Nat.add_sub_cancel_left]

/-! ## QUERY_LINE (R16) -/

theorem queryLineOrder_of_line {c : OrderCtx} {n : Nat} {l : LineId} {s : State}
    (h : s.lineOperand c.port n = .ok l) :
    queryLineOrder c n s = s.reply c .accepted (.line (s.lineView c.port l)) := by
  simp [queryLineOrder, h]

theorem queryLineOrder_of_error {c : OrderCtx} {n : Nat} {code : ReplyCode} {s : State}
    (h : s.lineOperand c.port n = .error code) : queryLineOrder c n s = s.reply c code := by
  simp [queryLineOrder, h]

/-- Settles O15: the two answers of `queryLineOrder`, each port's line operand one of the lemmas above. -/
theorem queryLineReportsTheRecord : Obligations.QueryLineReportsTheRecord := by
  refine ⟨fun s l => ⟨fun d => ⟨State.lineFor_inside, State.lineFor_outside⟩, rfl, rfl⟩, fun tag n l s => ?_⟩
  refine ⟨fun d hs => ⟨fun hn hl => ?_, fun hn => ?_⟩, fun hs => ⟨fun hl => ?_, fun hn => ?_⟩,
    fun hs => ⟨fun hl => ?_, fun hn => ?_⟩⟩
  · have hname : s.NamesLine (.desk d) n l := ⟨hn, hl⟩
    exact hs.exec_of_reply (k := .queryLine) nofun rfl rfl (queryLineOrder_of_line (State.lineOperand_of_names hname))
  · exact hs.exec_of_reply (k := .queryLine) nofun rfl rfl (queryLineOrder_of_error (State.lineOperand_desk_outside hn))
  · have hname : s.NamesLine .m n l := hl
    exact hs.exec_of_reply (k := .queryLine) nofun rfl rfl (queryLineOrder_of_line (State.lineOperand_of_names hname))
  · exact hs.exec_of_reply (k := .queryLine) nofun rfl rfl (queryLineOrder_of_error (State.lineOperand_m_above hn))
  · have hname : s.startSupervisionTimer.NamesLine .x n l := hl
    exact hs.exec_of_reply (k := .queryLine) rfl rfl (queryLineOrder_of_line (State.lineOperand_of_names hname))
  · exact hs.exec_of_reply (k := .queryLine) rfl rfl (queryLineOrder_of_error (State.lineOperand_x_above hn))

/-! ## QUERY_STATUS (R180) -/

/-- What QUERY_STATUS leaves where its REPLY finds room: the status formed with the marker, and the marker clear. -/
theorem State.Hears.finish_queryStatus {s : State} {p : Port} (hs : s.Hears p) (tag : Byte) :
    (queryStatusOrder ⟨p, tag, OrderKind.queryStatus.code⟩ s).finish
      = s.updPort p fun r => { r with
          lost := false
          queue := r.queue ++ [⟨r.lost, true, tag, .reply 0x1B .accepted
            (.status r.lost (32 - r.queue.length) s.supervised s.alm)⟩] } := by
  have hroom : s.freeEntries p ≠ 0 := by have := hs.room; omega
  have hstatus : s.statusData p
      = .status (s.port p).lost (32 - (s.port p).queue.length) s.supervised s.alm := by
    simp only [State.statusData, beq_eq_false_iff_ne.2 hroom, Bool.or_false]
    rfl
  have hsettled : (queryStatusOrder ⟨p, tag, OrderKind.queryStatus.code⟩ s).Settled := by
    rw [queryStatusOrder, State.reply_of_room (c := ⟨p, tag, _⟩) hroom]
    exact hs.settled.congr' rfl rfl rfl
  rw [hsettled.finish_eq, queryStatusOrder, State.reply_of_room (c := ⟨p, tag, _⟩) hroom, hstatus]
  simp [State.enqueue, State.clearMarker, State.updPort, formReport, OrderKind.code, State.port]

/-- Settles O18, by `State.Hears.finish_queryStatus` on the state that hears the order. -/
theorem queryStatusReportsAndClearsTheMarker : Obligations.QueryStatusReportsAndClearsTheMarker := by
  intro tag s
  refine ⟨fun p hp hs => ?_, fun hs => ?_⟩
  · rw [hs.exec_of_arrival (k := .queryStatus) (handle := queryStatusOrder) hp (by cases p <;> rfl) rfl,
      hs.finish_queryStatus]
  · rw [hs.exec_of_arrival (k := .queryStatus) (handle := queryStatusOrder) rfl rfl, hs.hears.timer.finish_queryStatus]
    simp [hs.supervised]

/-! ## QUERY_TICKET (R141, R143) -/

/-- Every port but X may send QUERY_TICKET (R176). -/
theorem orderPermits_queryTicket {p : Port} (hp : p ≠ .x) : orderPermits .queryTicket p = true := by
  cases p with
  | desk k => rfl
  | m => rfl
  | x => exact absurd rfl hp

theorem queryTicketOrder_of_ticket {c : OrderCtx} {q : TicketQuery} {t : Ticket} {s : State}
    (h : s.ticketAsked c.port q = .ok t) :
    queryTicketOrder c q s = s.reply c .accepted (.ticket (some ⟨t, s.lineFor c.port t.line⟩)) := by
  simp [queryTicketOrder, h, State.ticketView]

theorem queryTicketOrder_of_error {c : OrderCtx} {q : TicketQuery} {code : ReplyCode} {s : State}
    (h : s.ticketAsked c.port q = .error code) : queryTicketOrder c q s = s.reply c code := by
  simp [queryTicketOrder, h]

theorem State.inWindow_iff {s : State} {d : DeskId} {l : LineId} : s.inWindow d l = true ↔
    (s.config.windows.get d).base ≤ l.val
      ∧ l.val < (s.config.windows.get d).base + (s.config.windows.get d).count := by
  simp [State.inWindow]

theorem State.ticketAsked_number {s : State} {p : Port} {n : Nat} {k : SlotId} {t : Ticket} (h : s.NumberAt n k t)
    (hreach : s.inReach p t.line = true) : s.ticketAsked p (.byNumber n) = .ok t := by
  simp [State.ticketAsked, State.ticketFor, h.found, Option.filter, hreach]

theorem State.ticketAsked_number_beyond {s : State} {p : Port} {n : Nat} {k : SlotId} {t : Ticket}
    (h : s.NumberAt n k t) (hreach : s.inReach p t.line = false) :
    s.ticketAsked p (.byNumber n) = .error .noSuchTicket := by
  simp [State.ticketAsked, State.ticketFor, h.found, Option.filter, hreach]

theorem State.ticketAsked_number_none {s : State} {p : Port} {n : Nat}
    (h : ∀ j u, s.slot j = some u → u.number ≠ n) : s.ticketAsked p (.byNumber n) = .error .noSuchTicket := by
  simp [State.ticketAsked, State.ticketFor, ticketNumbered_none h]

section
variable {s : State} {p : Port} {n code : Nat} {l : LineId} {c : FaultClass}

theorem State.ticketAsked_line {k : SlotId} {t : Ticket} (hl : s.lineOperand p n = .ok l)
    (hc : classCode c = code) (h : s.TicketAt l c k t) : s.ticketAsked p (.byLine n code) = .ok t := by
  simp [State.ticketAsked, hl, (faultClassOfCode_iff code c).2 hc.symm, h.found]

theorem State.ticketAsked_line_none (hl : s.lineOperand p n = .ok l) (hc : classCode c = code)
    (h : ∀ j u, s.slot j = some u → ¬ (u.line = l ∧ u.cls = c ∧ u.state ≠ .cleared)) :
    s.ticketAsked p (.byLine n code) = .error .noSuchTicket := by
  simp [State.ticketAsked, hl, (faultClassOfCode_iff code c).2 hc.symm, ticketOn_none h]

theorem State.ticketAsked_line_error {e : ReplyCode} (hl : s.lineOperand p n = .error e) :
    s.ticketAsked p (.byLine n code) = .error e := by
  simp [State.ticketAsked, hl]

/-- A number above 6 is no fault class's code (R125). -/
theorem faultClassOfCode_above (h : 6 < code) : faultClassOfCode code = none := by
  rw [Option.eq_none_iff_forall_ne_some]
  intro v hv
  rw [faultClassOfCode_iff] at hv
  cases v <;> simp [classCode] at hv <;> omega

theorem State.ticketAsked_class_above (hl : s.lineOperand p n = .ok l) (hc : 6 < code) :
    s.ticketAsked p (.byLine n code) = .error .badParameter := by
  simp [State.ticketAsked, hl, faultClassOfCode_above hc]

end

/-- Settles O19: what `State.ticketAsked` finds, number and line forms apart, from M and from the desks. -/
theorem queryTicketFindsTheTicket : Obligations.QueryTicketFindsTheTicket := by
  refine ⟨fun tag n k t s => ⟨fun hs ht => ?_, fun d hs ht => ⟨fun hlo hhi => ?_, fun hout => ?_⟩,
    fun p hp hs hnone => ?_⟩, fun tag n code l c s hc => ⟨fun hs hl => ⟨fun k t ht => ?_, fun hnone => ?_⟩,
    fun d hs hl => ⟨fun k t ht => ?_, fun hnone => ?_⟩⟩, fun tag n code s => ⟨fun hs hbad => ?_,
    fun d hs => ⟨fun hout => ?_, fun hin hmap hc => ?_⟩⟩⟩
  · exact hs.exec_of_reply (k := .queryTicket) nofun rfl rfl
      (queryTicketOrder_of_ticket (State.ticketAsked_number ht rfl))
  · have hreach : s.inReach (.desk d) t.line = true := State.inWindow_iff.2 ⟨hlo, hhi⟩
    rw [← State.lineFor_inside hlo hhi]
    exact hs.exec_of_reply (k := .queryTicket) nofun rfl rfl
      (queryTicketOrder_of_ticket (State.ticketAsked_number ht hreach))
  · have hreach : s.inReach (.desk d) t.line = false :=
      Bool.eq_false_iff.2 fun h => by have := State.inWindow_iff.1 h; omega
    exact hs.exec_of_reply (k := .queryTicket) nofun rfl rfl
      (queryTicketOrder_of_error (State.ticketAsked_number_beyond ht hreach))
  · exact hs.exec_of_reply hp (orderPermits_queryTicket hp) rfl
      (queryTicketOrder_of_error (State.ticketAsked_number_none hnone))
  · obtain ⟨-, rfl, -⟩ := id ht
    have hname : s.NamesLine .m n t.line := hl
    exact hs.exec_of_reply (k := .queryTicket) nofun rfl rfl (queryTicketOrder_of_ticket
      (State.ticketAsked_line (State.lineOperand_of_names hname) hc ht))
  · have hname : s.NamesLine .m n l := hl
    exact hs.exec_of_reply (k := .queryTicket) nofun rfl rfl
      (queryTicketOrder_of_error (State.ticketAsked_line_none (State.lineOperand_of_names hname) hc hnone))
  · obtain ⟨-, rfl, -⟩ := id ht
    rw [← hl.lineFor_desk]
    exact hs.exec_of_reply (k := .queryTicket) nofun rfl rfl
      (queryTicketOrder_of_ticket (State.ticketAsked_line (State.lineOperand_of_names hl) hc ht))
  · exact hs.exec_of_reply (k := .queryTicket) nofun rfl rfl
      (queryTicketOrder_of_error (State.ticketAsked_line_none (State.lineOperand_of_names hl) hc hnone))
  · have hasked : s.ticketAsked .m (.byLine n code) = .error .badParameter := by
      by_cases hn : 2047 < n
      · exact State.ticketAsked_line_error (State.lineOperand_m_above hn)
      · have hl : s.NamesLine .m n ⟨n, by omega⟩ := rfl
        exact State.ticketAsked_class_above (State.lineOperand_of_names hl) (hbad.resolve_left hn)
    exact hs.exec_of_reply (k := .queryTicket) nofun rfl rfl (queryTicketOrder_of_error hasked)
  · exact hs.exec_of_reply (k := .queryTicket) nofun rfl rfl
      (queryTicketOrder_of_error (State.ticketAsked_line_error (State.lineOperand_desk_outside hout)))
  · have hl : s.NamesLine (.desk d) n ⟨(s.config.windows.get d).base + n, by omega⟩ := ⟨hin, rfl⟩
    exact hs.exec_of_reply (k := .queryTicket) nofun rfl rfl
      (queryTicketOrder_of_error (State.ticketAsked_class_above (State.lineOperand_of_names hl) hc))

/-! ## QUERY_SWEEP (R161) -/

/-- Settles O22, by the branches of `querySweepOrder`. -/
theorem querySweepReportsRecordAndList : Obligations.QuerySweepReportsRecordAndList := by
  intro tag s hs
  refine ⟨fun i => ?_, fun i hi => ?_, fun i hi => ?_, fun sel i hsel => ?_, ?_⟩
  · exact hs.exec_of_reply (k := .querySweep) nofun rfl rfl rfl
  · refine hs.exec_of_reply (k := .querySweep) (handle := fun c => querySweepOrder c 1 (some i)) nofun rfl rfl ?_
    simp [querySweepOrder, State.replyList, State.replyRetest, not_lt.2 hi, listLength]
  · refine hs.exec_of_reply (k := .querySweep) (handle := fun c => querySweepOrder c 1 (some i)) nofun rfl rfl ?_
    simp [querySweepOrder, State.replyList, State.replyRetest, hi]
  · refine hs.exec_of_reply (k := .querySweep) (handle := fun c => querySweepOrder c sel i) nofun rfl rfl ?_
    simp [querySweepOrder, show sel ≠ 0 by omega, show sel ≠ 1 by omega]
  · have hs' : State.Hears { s with draws := s.draws + 1 } .m := ⟨hs.settled.congr' rfl rfl rfl, hs.running, hs.room⟩
    rw [hs.exec_of_arrival (k := .querySweep) (handle := fun c => querySweepOrder c 1 none) nofun rfl rfl,
      hs'.exec_of_arrival (k := .querySweep) (i := .querySweep .m tag 1 (some (Config.sweepListIndexWhenAbsent s.draws)))
        (handle := fun c => querySweepOrder c 1 (some (Config.sweepListIndexWhenAbsent s.draws))) nofun rfl rfl]
    rfl

end Sys2Proof.Machine
end

section
/-!
PROOFS. SETTINGS_READ (R171): each page byte by byte in the layout of section 10.6, and what each page number gives.
-/

namespace Sys2Proof.Machine

/-! ## Fields of pages formed from bytes -/

/-- The two bytes of a field, read back (section 10.6). -/
theorem bytes16_word (n : Nat) : n / 256 % 256 * 256 + n % 256 = n % 65536 := by omega

theorem bytes16_word_mod (n : Nat) : n % 65536 / 256 % 256 * 256 + n % 256 = n % 65536 := by omega

theorem toNat_byteOfInt (v : Int) : ((byteOfInt v).toNat : Int) = v % 256 := by
  simp [byteOfInt, BitVec.toNat_ofInt]
  omega

theorem windows_items (w : Tab Window 4) : w.items = [w.get 0, w.get 1, w.get 2, w.get 3] := by
  rw [Tab.items_eq]; rfl

theorem steps_items (t : Tab StepRec 10) : t.items
    = [t.get 0, t.get 1, t.get 2, t.get 3, t.get 4, t.get 5, t.get 6, t.get 7, t.get 8, t.get 9] := by
  rw [Tab.items_eq]; rfl

/-- Byte `n` of configuration page 0, from the list of its 32 bytes. -/
theorem dataAt_config0Page (c : Config0) (n : Nat) : dataAt (config0Page c) n
    = (([byteOf c.operate, byteOf c.release, byteOf c.switch]
      ++ (bytes16 (c.windows.get 0).base ++ bytes16 (c.windows.get 0).count ++ bytes16 (c.windows.get 1).base
        ++ bytes16 (c.windows.get 1).count ++ bytes16 (c.windows.get 2).base ++ bytes16 (c.windows.get 2).count
        ++ bytes16 (c.windows.get 3).base ++ bytes16 (c.windows.get 3).count)
      ++ [byteOf c.allowDesk, byteOf c.allowMc, byteOf c.allowRs, byteOf (c.busReserve + 16 * c.muReserve),
        byteOf c.deskWait]
      ++ bytes16 c.mcWait ++ [byteOf c.grace, byteOf c.interval, byteOf c.standby] ++ bytes16 c.discharge
      ++ [byteOf c.rate.code]).getD n 0).toNat := by
  rw [config0Page, dataAt_pageOfBytes _ _ (by simp [windows_items, bytes16]), windows_items]
  simp [bytes16]

/-- Byte `n` of configuration page 1. -/
theorem dataAt_sweepPage (c : SweepCfg) (n : Nat) : dataAt (sweepPage c) n
    = ((bytes16 c.windowStart ++ bytes16 c.windowEnd ++ bytes16 c.first ++ bytes16 c.last ++ [byteOf c.programme.val]
      ++ bytes16 c.pacing ++ [byteOf (flagNat c.startEnabled)]).getD n 0).toNat := by
  rw [sweepPage, config1Page, dataAt_pageOfBytes _ _ (by simp [bytes16])]

/-- A flag's byte. -/
theorem flagNat_mod (b : Bool) : flagNat b % 256 = if b then 1 else 0 := by cases b <;> rfl

/-- Byte `n` of a class page. -/
theorem dataAt_classPage (c : ClassRec) (n : Nat) : dataAt (classPage c) n
    = ((bytes16 c.hazardLimit ++ bytes16 c.fdcWarn ++ bytes16 c.fdcFail ++ bytes16 c.facWarn ++ bytes16 c.facFail
      ++ bytes32 c.irWarn ++ bytes32 c.irFail ++ bytes16 c.capMin
      ++ [byteOf c.cpk, byteOf c.clearPasses, byteOf (flagNat c.isProtected),
        byteOf (flagNat c.inSweep)]).getD n 0).toNat := by
  rw [classPage, dataAt_pageOfBytes _ _ (by simp [bytes16, bytes32])]

/-- The four bytes of a field, read back (section 10.6). -/
theorem bytes32_long (n : Nat) : n / 65536 % 65536 * 65536 + n % 65536 = n % 4294967296 := by omega

/-! ## Programme pages (R72) -/

theorem StepKind.code_lt (k : StepKind) : k.code < 4 := by cases k <;> decide

theorem RangeSel.code_lt (r : RangeSel) : r.code < 4 := by
  rcases r with (_ | _ | _) | _ <;> decide

/-- Where the six bytes of a step record stand at byte `n`, that record stands there, the unused bits 0. -/
theorem stepAt_of_bytes {d : PageData} {n : Nat} {r : StepRec}
    (h : ∀ i < 6, dataAt d (n + i) = ((stepBytes r).getD i 0).toNat) :
    StepAt d n r ∧ dataAt d n / 4 % 4 = 0 ∧ dataAt d (n + 5) = 0 := by
  have hfirst : dataAt d n = r.kind.code * 64 + r.pairCode.val * 16 + r.range.code := by
    have hk := r.kind.code_lt
    have hr := r.range.code_lt
    have := h 0 (by decide)
    simp [stepBytes, byteOf_toNat] at this
    omega
  have hsource : (dataAt d (n + 1) : Int) = r.source % 256 := by
    rw [h 1 (by decide), ← toNat_byteOfInt]; rfl
  have hrange := r.range.code_lt
  refine ⟨⟨?_, ?_, ?_, hsource, ?_, ?_⟩, by omega, ?_⟩
  · refine Eq.trans (b := r.kind.code) (by omega) ?_
    cases r.kind <;> rfl
  · omega
  · refine Eq.trans (b := r.range.code) (by omega) ?_
    rcases r.range with (_ | _ | _) | _ <;> rfl
  · rw [dataWord, h 2 (by decide), h 3 (by decide)]
    simp [stepBytes, bytes16, byteOf_toNat, bytes16_word]
  · rw [h 4 (by decide)]
    simp [stepBytes, bytes16, byteOf_toNat]
  · rw [h 5 (by decide)]; rfl

/-- Byte `n` of a programme's first page: the step count and the bytes of steps 1 to 5. -/
theorem dataAt_firstPage (e : ProgEntry) (n : Nat) : dataAt (firstPage e) n
    = ((byteOf e.count :: (stepBytes (e.steps.get 0) ++ stepBytes (e.steps.get 1) ++ stepBytes (e.steps.get 2)
      ++ stepBytes (e.steps.get 3) ++ stepBytes (e.steps.get 4))).getD n 0).toNat := by
  rw [firstPage, dataAt_pageOfBytes _ _ (by simp [steps_items, stepBytes, bytes16]), steps_items]
  simp

/-- Byte `n` of a programme's second page: the bytes of steps 6 to 10. -/
theorem dataAt_secondPage (e : ProgEntry) (n : Nat) : dataAt (secondPage e) n
    = ((stepBytes (e.steps.get 5) ++ stepBytes (e.steps.get 6) ++ stepBytes (e.steps.get 7)
      ++ stepBytes (e.steps.get 8) ++ stepBytes (e.steps.get 9)).getD n 0).toNat := by
  rw [secondPage, dataAt_pageOfBytes _ _ (by simp [steps_items, stepBytes, bytes16]), steps_items]
  simp

/-- Each step's six bytes stand where its page has them. -/
theorem dataAt_stepBytes (e : ProgEntry) (i : Fin 10) (k : Nat) (hk : k < 6) :
    dataAt (if i.val < 5 then firstPage e else secondPage e)
        ((if i.val < 5 then 1 + 6 * i.val else 6 * (i.val - 5)) + k)
      = ((stepBytes (e.steps.get i)).getD k 0).toNat := by
  fin_cases i <;> interval_cases k <;> simp [dataAt_firstPage, dataAt_secondPage, stepBytes, bytes16]

/-! ## Ticket records (section 10.6) -/

/-- Byte `n` of a ticket's page. -/
theorem dataAt_ticketPage (t : Ticket) (line n : Nat) :
    dataAt (pageOfBytes (ticketBytes t line)) n = ((ticketBytes t line).getD n 0).toNat :=
  dataAt_pageOfBytes _ _ (by simp [ticketBytes, bytesOfInt32, stampBytes, bytes16, bytes32])

/-- The 30 bytes of a ticket record, one by one. -/
theorem ticketBytes_eq (t : Ticket) (line : Nat) : ticketBytes t line =
    let packed := t.severity.code * 16384 + t.cls.index.val * 2048 + line % 2048
    let dist := t.distance.getD 0
    let cleared := t.clearedAt.getD noStamp
    let value := (BitVec.ofInt 32 t.value).toNat
    [byteOf (t.number / 256), byteOf t.number, byteOf (packed / 256), byteOf packed,
      byteOf (t.state.code * 64 + t.firstSource.code * 8 + (t.clearedBy.map Clearer.code).getD 0),
      byteOf (flagNat t.assignee.isSome * 128 + flagNat t.note.isSome * 64 + t.passes % 8 * 8
        + dist / 65536 % 2 * 4),
      byteOf (stampFlags t.firstSeen t.lastSeen cleared), byteOf t.repeats,
      byteOf (value / 65536 / 256), byteOf (value / 65536), byteOf (value / 256), byteOf value,
      byteOf (dist % 65536 / 256), byteOf (dist % 65536), byteOf (t.assignee.getD 0 / 256), byteOf (t.assignee.getD 0),
      byteOf (t.note.getD 0 / 256), byteOf (t.note.getD 0),
      byteOf (t.firstSeen.day / 256), byteOf t.firstSeen.day, byteOf (t.firstSeen.second % 65536 / 256),
      byteOf (t.firstSeen.second % 65536),
      byteOf (t.lastSeen.day / 256), byteOf t.lastSeen.day, byteOf (t.lastSeen.second % 65536 / 256),
      byteOf (t.lastSeen.second % 65536),
      byteOf (cleared.day / 256), byteOf cleared.day, byteOf (cleared.second % 65536 / 256),
      byteOf (cleared.second % 65536)] := rfl

theorem Severity.code_eq (v : Severity) : v.code = severityCode v := by cases v <;> rfl

theorem FaultClass.index_eq (c : FaultClass) : c.index.val = classCode c := by cases c <;> rfl

theorem TicketState.code_eq (x : TicketState) : x.code = stateCode x := by cases x <;> rfl

theorem Source.code_eq (x : Source) : x.code = sourceCode x := by cases x <;> rfl

theorem clearedBy_code_eq (o : Option Clearer) : (o.map Clearer.code).getD 0 = clearedByCode o := by
  rcases o with _ | (_ | _ | _) <;> rfl

theorem severityCode_lt (v : Severity) : severityCode v < 4 := by cases v <;> decide

theorem classCode_lt (c : FaultClass) : classCode c < 8 := by cases c <;> decide

theorem stateCode_lt (x : TicketState) : stateCode x < 4 := by cases x <;> decide

theorem sourceCode_lt (x : Source) : sourceCode x < 8 := by
  cases x <;> simp [sourceCode]; omega

theorem clearedByCode_lt (o : Option Clearer) : clearedByCode o < 8 := by
  rcases o with _ | (k | _ | _) <;> simp [clearedByCode]; omega

/-- The first four bytes' second word: severity, class and line. -/
theorem ticketPage_word2 (t : Ticket) : dataWord (pageOfBytes (ticketBytes t t.line.val)) 2
    = severityCode t.severity * 16384 + classCode t.cls * 2048 + t.line.val := by
  have hs := severityCode_lt t.severity
  have hc := classCode_lt t.cls
  have hl := t.line.isLt
  rw [dataWord, dataAt_ticketPage, dataAt_ticketPage]
  simp [ticketBytes, bytes16, byteOf_toNat, Severity.code_eq, FaultClass.index_eq]
  omega

theorem ticketPage_byte4 (t : Ticket) : dataAt (pageOfBytes (ticketBytes t t.line.val)) 4
    = stateCode t.state * 64 + sourceCode t.firstSource * 8 + clearedByCode t.clearedBy := by
  have hs := stateCode_lt t.state
  have hf := sourceCode_lt t.firstSource
  have hc := clearedByCode_lt t.clearedBy
  rw [dataAt_ticketPage]
  simp [ticketBytes, bytes16, byteOf_toNat, TicketState.code_eq, Source.code_eq, clearedBy_code_eq]
  omega

theorem flagNat_lt (b : Bool) : flagNat b < 2 := by cases b <;> decide

theorem ticketPage_byte5 (t : Ticket) : dataAt (pageOfBytes (ticketBytes t t.line.val)) 5
    = flagNat t.assignee.isSome * 128 + flagNat t.note.isSome * 64 + t.passes % 8 * 8
      + t.distance.getD 0 / 65536 % 2 * 4 := by
  have ha := flagNat_lt t.assignee.isSome
  have hn := flagNat_lt t.note.isSome
  rw [dataAt_ticketPage]
  simp [ticketBytes, bytes16, byteOf_toNat]
  omega

theorem ticketPage_byte6 (t : Ticket) : dataAt (pageOfBytes (ticketBytes t t.line.val)) 6
    = stampFlags t.firstSeen t.lastSeen (t.clearedAt.getD ⟨0, 0, false⟩) := by
  have ha := flagNat_lt t.firstSeen.valid
  have hb := flagNat_lt t.lastSeen.valid
  have hc := flagNat_lt (t.clearedAt.getD ⟨0, 0, false⟩).valid
  have hlt : stampFlags t.firstSeen t.lastSeen (t.clearedAt.getD ⟨0, 0, false⟩) < 256 := by
    unfold stampFlags; omega
  rw [dataAt_ticketPage]
  simpa [ticketBytes, bytes16, byteOf_toNat, noStamp] using Nat.mod_eq_of_lt hlt

/-- The four bytes of a ticket's last value, as an unsigned number. -/
theorem ticketPage_value (t : Ticket) :
    dataLong (pageOfBytes (ticketBytes t t.line.val)) 8 = (BitVec.ofInt 32 t.value).toNat := by
  have hlt := (BitVec.ofInt 32 t.value).isLt
  simp only [dataLong, dataWord, dataAt_ticketPage]
  simp only [ticketBytes_eq]
  generalize (BitVec.ofInt 32 t.value).toNat = v at hlt
  simp only [List.getD_cons_succ, List.getD_cons_zero, byteOf_toNat, bytes16_word]
  omega

/-- A bit is read off a number that is its flag's weight modulo twice the weight. -/
theorem testBit_of_parts {n hi lo k : Nat} {b : Bool} (h : n = hi * 2 ^ (k + 1) + flagNat b * 2 ^ k + lo)
    (hlo : lo < 2 ^ k) : n.testBit k = b := by
  have hdiv : n / 2 ^ k = hi * 2 + flagNat b := by
    subst h
    rw [pow_succ, show hi * (2 ^ k * 2) + flagNat b * 2 ^ k + lo = lo + 2 ^ k * (hi * 2 + flagNat b) by ring,
      Nat.add_mul_div_left _ _ (Nat.two_pow_pos k), Nat.div_eq_of_lt hlo, Nat.zero_add]
  rw [Nat.testBit_eq_decide_div_mod_eq, hdiv]
  cases b <;> simp [flagNat, Nat.add_mod]

theorem testBit_16_eq (n : Nat) : flagNat (n.testBit 16) = n / 65536 % 2 := by
  rw [Nat.testBit_eq_decide_div_mod_eq]
  unfold flagNat
  split
  · simp_all
  · simp_all

/-- A stamp whose four bytes and two flags stand in a ticket's page. -/
theorem stampAt_of_bytes {d : PageData} {n f hi lo : Nat} {x : Stamp} (hday : dataWord d n = x.day % 65536)
    (hsecond : dataWord d (n + 2) = x.second % 65536)
    (hflags : dataAt d 6 = hi * 2 ^ (f + 2) + (x.second / 65536 % 2 * 2 + flagNat x.valid) * 2 ^ f + lo)
    (hlo : lo < 2 ^ f) : StampAt d n f x := by
  have hv := flagNat_lt x.valid
  refine ⟨hday, hsecond, ?_, ?_⟩
  · exact testBit_of_parts (hi := hi * 2 + x.second / 65536 % 2) (by rw [hflags]; ring) hlo
  · rw [← testBit_16_eq] at hflags
    refine testBit_of_parts (hi := hi) (lo := flagNat x.valid * 2 ^ f + lo) (by rw [hflags]; ring) ?_
    have : flagNat x.valid * 2 ^ f ≤ 1 * 2 ^ f := Nat.mul_le_mul_right _ (by omega)
    rw [pow_succ]
    omega

/-- The page of a ticket holds its record (section 10.6): the packed bytes by `ticketPage_word2` and its companions, the
others as they stand. -/
theorem ticketRecordAt_ticketPage (t : Ticket) : TicketRecordAt (pageOfBytes (ticketBytes t t.line.val)) t := by
  have hword2 := ticketPage_word2 t
  have hbyte4 := ticketPage_byte4 t
  have hbyte5 := ticketPage_byte5 t
  have hbyte6 := ticketPage_byte6 t
  have hcls := classCode_lt t.cls
  have hline := t.line.isLt
  have hsource := sourceCode_lt t.firstSource
  have hclearer := clearedByCode_lt t.clearedBy
  have hbyte3 := dataAt_lt (pageOfBytes (ticketBytes t t.line.val)) (2 + 1)
  have hnote := flagNat_lt t.note.isSome
  have hv₁ := flagNat_lt t.firstSeen.valid
  have hv₂ := flagNat_lt t.lastSeen.valid
  have hv₃ := flagNat_lt (t.clearedAt.getD ⟨0, 0, false⟩).valid
  unfold stampFlags at hbyte6
  constructor
  case severity => unfold dataWord at hword2; omega
  case cls => unfold dataWord at hword2; omega
  case line => omega
  case state => omega
  case source => omega
  case clearedBy => omega
  case assigneePresent =>
    exact testBit_of_parts (hi := 0) (lo := flagNat t.note.isSome * 64 + t.passes % 8 * 8
      + t.distance.getD 0 / 65536 % 2 * 4) (by rw [hbyte5]; ring) (by omega)
  case notePresent =>
    exact testBit_of_parts (hi := flagNat t.assignee.isSome) (lo := t.passes % 8 * 8
      + t.distance.getD 0 / 65536 % 2 * 4) (by omega) (by omega)
  case passes => omega
  case distanceHigh =>
    rw [← testBit_16_eq] at hbyte5
    exact testBit_of_parts (hi := flagNat t.assignee.isSome * 16 + flagNat t.note.isSome * 8 + t.passes % 8) (lo := 0)
      (by omega) (by omega)
  case spare => omega
  case flags => omega
  case value =>
    simp only [ticketPage_value, BitVec.toNat_ofInt]
    omega
  case firstSeen =>
    refine stampAt_of_bytes (hi := flagNat t.lastSeen.valid + 2 * (t.lastSeen.second / 65536 % 2)
        + 4 * flagNat (t.clearedAt.getD ⟨0, 0, false⟩).valid
        + 8 * ((t.clearedAt.getD ⟨0, 0, false⟩).second / 65536 % 2)) (lo := 0) ?_ ?_ (by omega) (by omega)
    all_goals simp only [dataWord, dataAt_ticketPage]; simp [ticketBytes_eq, byteOf_toNat, bytes16_word, bytes16_word_mod]
  case lastSeen =>
    refine stampAt_of_bytes (hi := flagNat (t.clearedAt.getD ⟨0, 0, false⟩).valid
        + 2 * ((t.clearedAt.getD ⟨0, 0, false⟩).second / 65536 % 2))
      (lo := flagNat t.firstSeen.valid + 2 * (t.firstSeen.second / 65536 % 2)) ?_ ?_ (by omega) (by omega)
    all_goals simp only [dataWord, dataAt_ticketPage]; simp [ticketBytes_eq, byteOf_toNat, bytes16_word, bytes16_word_mod]
  case clearedAt =>
    refine stampAt_of_bytes (hi := 0) (lo := flagNat t.firstSeen.valid + 2 * (t.firstSeen.second / 65536 % 2)
        + 4 * flagNat t.lastSeen.valid + 8 * (t.lastSeen.second / 65536 % 2)) ?_ ?_ (by omega) (by omega)
    all_goals simp only [dataWord, dataAt_ticketPage]; simp [ticketBytes_eq, byteOf_toNat, bytes16_word, bytes16_word_mod, noStamp]
  all_goals simp only [dataWord, dataAt_ticketPage]; simp [ticketBytes_eq, byteOf_toNat, bytes16_word, bytes16_word_mod]

/-! ## What a page number gives (R164, R171) -/

theorem settingsReadOrder_of_page {c : OrderCtx} {n : Nat} {p : PageId} {s : State} (h : p.val = n) :
    settingsReadOrder c n s = s.reply c .accepted (.page (s.workingPage p)) := by
  have hp : pageOf? n = some p := finOf?_eq_some.2 h.symm
  simp [settingsReadOrder, hp]

section
variable {p : PageId}

theorem pageKind_config0 (h : p.val = 0) : pageKind p = .config0 := if_pos h

theorem pageKind_config1 (h : p.val = 1) : pageKind p = .config1 := by rw [pageKind, if_neg (by omega), if_pos h]

theorem pageKind_cls (c : ClassId) (h : p.val = 2 + c.val) : pageKind p = .cls c := by
  rw [pageKind, if_neg (by omega), if_neg (by omega), dif_pos (by omega), PageKind.cls.injEq, Fin.ext_iff]
  exact Nat.sub_eq_of_eq_add' h

theorem pageKind_map (k : Fin 64) (h : p.val = 10 + k.val) : pageKind p = .map k := by
  rw [pageKind, if_neg (by omega), if_neg (by omega), dif_neg (by omega), dif_pos (by omega), PageKind.map.injEq,
    Fin.ext_iff]
  exact Nat.sub_eq_of_eq_add' h

theorem pageKind_progFirst (q : ProgId) (h : p.val = 74 + 2 * q.val) : pageKind p = .progFirst q := by
  rw [pageKind, if_neg (by omega), if_neg (by omega), dif_neg (by omega), dif_neg (by omega), dif_pos (by omega),
    if_pos (by omega), PageKind.progFirst.injEq, Fin.ext_iff]
  show (p.val - 74) / 2 = q.val
  omega

theorem pageKind_progSecond (q : ProgId) (h : p.val = 75 + 2 * q.val) : pageKind p = .progSecond q := by
  rw [pageKind, if_neg (by omega), if_neg (by omega), dif_neg (by omega), dif_neg (by omega), dif_pos (by omega),
    if_neg (by omega), PageKind.progSecond.injEq, Fin.ext_iff]
  show (p.val - 74) / 2 = q.val
  omega

theorem pageKind_slot (n : SlotId) (h : p.val = 106 + n.val) : pageKind p = .ticket n := by
  rw [pageKind, if_neg (by omega), if_neg (by omega), dif_neg (by omega), dif_neg (by omega), dif_neg (by omega),
    PageKind.ticket.injEq, Fin.ext_iff]
  exact Nat.sub_eq_of_eq_add' h

end

section
variable (s : State)

theorem State.workingPage_cls {p : PageId} (c : ClassId) (h : p.val = 2 + c.val) :
    s.workingPage p = classPage (s.classes.get c) := by
  rw [State.workingPage, pageKind_cls c h]

theorem State.workingPage_map {p : PageId} (k : Fin 64) (h : p.val = 10 + k.val) : s.workingPage p = s.mapPage k := by
  rw [State.workingPage, pageKind_map k h]

theorem State.workingPage_progFirst {p : PageId} (q : ProgId) (h : p.val = 74 + 2 * q.val) :
    s.workingPage p = firstPage (s.library.get q) := by
  rw [State.workingPage, pageKind_progFirst q h]

theorem State.workingPage_progSecond {p : PageId} (q : ProgId) (h : p.val = 75 + 2 * q.val) :
    s.workingPage p = secondPage (s.library.get q) := by
  rw [State.workingPage, pageKind_progSecond q h]

theorem State.workingPage_ticket {p : PageId} (n : SlotId) (h : p.val = 106 + n.val) :
    s.workingPage p = slotPage (s.slot n) := by
  rw [State.workingPage, pageKind_slot n h]

end

/-- Settles O23: the page a number names by `settingsReadOrder_of_page` and the lemmas about `pageKind`, the layouts byte by
byte. -/
theorem settingsReadFormsThePage : Obligations.SettingsReadFormsThePage := by
  refine ⟨fun tag s hs => ?_, fun c => ?_, fun c => ?_, fun c => ?_, fun e => ?_, ticketRecordAt_ticketPage⟩
  · have hgives : ∀ {n : Nat} (p : PageId) {d : PageData}, p.val = n → s.workingPage p = d →
        exec (.settingsRead .m tag n) s = .next (s.answered .m tag .settingsRead .accepted (.page d)) := by
      rintro n p d rfl rfl
      exact hs.exec_of_reply (k := .settingsRead) nofun rfl rfl (settingsReadOrder_of_page rfl)
    refine ⟨hgives 0 rfl rfl, hgives 1 rfl rfl,
      fun c => hgives ⟨2 + c.val, by omega⟩ rfl (s.workingPage_cls c rfl),
      fun k => ⟨s.mapPage k, hgives ⟨10 + k.val, by omega⟩ rfl (s.workingPage_map k rfl), fun j l hl => ?_⟩,
      fun q => ⟨hgives ⟨74 + 2 * q.val, by omega⟩ rfl (s.workingPage_progFirst q rfl),
        hgives ⟨75 + 2 * q.val, by omega⟩ rfl (s.workingPage_progSecond q rfl)⟩,
      fun n => ⟨fun t ht => ?_, fun hnone => ?_⟩, fun n hn => ?_⟩
    · have hline : mapLine k j = l := Fin.ext hl.symm
      have hcls := (s.line l).cls.isLt
      simp [State.mapPage, hline, byteOf_toNat]
      omega
    · exact hgives ⟨106 + n.val, by omega⟩ rfl (by rw [s.workingPage_ticket n rfl, ht]; rfl)
    · exact hgives ⟨106 + n.val, by omega⟩ rfl (by rw [s.workingPage_ticket n rfl, hnone]; rfl)
    · have hnone : pageOf? n = none := finOf?_eq_none.2 hn
      refine hs.exec_of_reply (k := .settingsRead) (handle := fun c => settingsReadOrder c n) nofun rfl rfl ?_
      simp [settingsReadOrder, hnone]
  · have hrate : c.rate.code % 256 = c.rate.code := by cases c.rate <;> rfl
    refine ⟨?_, ?_, ?_, fun d => ?_, ?_, ?_, ?_, ?_, ?_, ?_, ?_, ?_, ?_, ?_, ?_⟩
    case refine_4 => fin_cases d <;> simp [dataWord, dataAt_config0Page, bytes16, byteOf_toNat, bytes16_word]
    case refine_15 =>
      refine Eq.trans (b := c.rate.code) ?_ ?_
      · simpa [dataAt_config0Page, bytes16, byteOf_toNat] using hrate
      · cases c.rate <;> rfl
    all_goals simp [dataWord, dataAt_config0Page, bytes16, byteOf_toNat, bytes16_word]
  · have hprog : c.programme.val % 256 = c.programme.val := by omega
    refine ⟨?_, ?_, ?_, ?_, ?_, ?_, ?_, fun n hn => ?_⟩
    case refine_8 => rw [dataAt_sweepPage, List.getD_eq_default _ _ (by simpa [bytes16] using hn)]; rfl
    all_goals simp [dataWord, dataAt_sweepPage, bytes16, byteOf_toNat, bytes16_word, flagNat_mod, hprog]
  · refine ⟨?_, ?_, ?_, ?_, ?_, ?_, ?_, ?_, ?_, ?_, ?_, ?_, fun n hn => ?_⟩
    case refine_13 => rw [dataAt_classPage, List.getD_eq_default _ _ (by simpa [bytes16, bytes32] using hn)]; rfl
    all_goals simp [dataLong, dataWord, dataAt_classPage, bytes16, bytes32, byteOf_toNat, bytes16_word, bytes32_long,
      flagNat_mod]
  · refine ⟨?_, ?_, ?_, fun i => stepAt_of_bytes (dataAt_stepBytes e i)⟩
    · simp [dataAt_firstPage, byteOf_toNat]
    · simp [dataAt_firstPage, stepBytes, bytes16]
    · simp [dataWord, dataAt_secondPage, stepBytes, bytes16]

end Sys2Proof.Machine
end

section
/-!
PROOFS. Frames (R176, R177, section 10.6): the seven frames, the payloads read back, and the receive assembly, byte by byte
and over a whole frame.
-/

namespace Sys2Proof.Machine

/-! ## Payloads -/

/-- Settles O7, by evaluating the decoder on the seven frames. -/
theorem framesSpellTheirOrders : Obligations.FramesSpellTheirOrders := by
  refine ⟨?_, ?_, ?_, ?_, ?_, ?_, ?_⟩ <;> decide

theorem OrderKind.ofCode_code (k : OrderKind) : OrderKind.ofCode k.code = some k := by cases k <;> decide

theorem byteOf_toNat_of_lt {n : Nat} (h : byte8 n = true) : (byteOf n).toNat = n := by
  rw [byteOf_toNat]
  exact Nat.mod_eq_of_lt (by simpa [byte8] using h)

theorem be16_bytes16 {n : Nat} (h : word16 n = true) : be16 (byteOf (n / 256)) (byteOf n) = n := by
  have hn : n < 65536 := by simpa [word16] using h
  rw [be16, byteOf_toNat, byteOf_toNat]
  omega

theorem progOfByte_byteOfProg {o : Option Nat} (h : (o.all fun n => decide (n < 255)) = true) :
    progOfByte (byteOfProg o) = o := by
  cases o with
  | none => rfl
  | some n =>
    have hn : n < 255 := by simpa using h
    have hne : byteOf n ≠ 0xFF := fun he => by
      have := congrArg BitVec.toNat he
      rw [byteOf_toNat] at this
      simp at this
      omega
    rw [byteOfProg, progOfByte, if_neg hne, byteOf_toNat, Nat.mod_eq_of_lt (by omega)]

/-- Settles O8, kind by kind: each field of the payload is read back by the lemma on its width. -/
theorem orderPayloadsReadBack : Obligations.OrderPayloadsReadBack := by
  intro i p tag k hwf hhead
  rw [decodeOrder, OrderKind.ofCode_code]
  cases i
  case run p' tag' b pr f =>
    cases hhead
    cases f <;> simp_all [Instr.wf, Instr.payload, decodePayload, byteOf_toNat_of_lt]
  case queryTicket p' tag' q =>
    cases hhead
    cases q <;> simp_all [Instr.wf, TicketQuery.wf, Instr.payload, bytes16, decodePayload, be16_bytes16,
      byteOf_toNat_of_lt]
  case querySweep p' tag' sel o =>
    cases hhead
    cases o <;> simp_all [Instr.wf, Instr.payload, decodePayload, byteOf_toNat_of_lt]
  case settingsWrite p' tag' pg d =>
    cases hhead
    simp_all [Instr.wf, Instr.payload, bytes16, decodePayload, be16_bytes16, d.size_eq]
  all_goals cases hhead <;> simp_all [Instr.wf, Instr.payload, bytes16, decodePayload, be16_bytes16, byteOf_toNat_of_lt,
    progOfByte_byteOfProg]

/-! ## The receive assembly -/

theorem exec_byteReceived (p : Port) (b : Byte) (x : Bool) (s : State) :
    exec (.byteReceived p b x) s = .next (s.receive p b x).finish := rfl

/-- A byte that leaves a settled state settled is answered with the state it leaves. -/
theorem exec_byteReceived_of_settled {p : Port} {b : Byte} {x : Bool} {s t : State} (h : s.receive p b x = t)
    (ht : t.Settled) : exec (.byteReceived p b x) s = .next t := by
  rw [exec_byteReceived, h, ht.finish_eq]

section
variable {s : State} {p : Port} {b : Byte}

theorem State.receive_atSpace (h : (s.port p).inBreak = true) (x : Bool) : s.receive p b x = s := by
  simp [State.receive, h]

theorem State.receive_noStop (h : (s.port p).inBreak = false) :
    s.receive p b false = s.setAssembly p .hunting := by
  simp [State.receive, h]

theorem State.receive_stop (h : (s.port p).inBreak = false) : s.receive p b true = s.assemble p b := by
  simp [State.receive, h]

theorem State.assemble_hunting_other (ha : (s.port p).assembly = .hunting) (hb : b ≠ 0xA5) : s.assemble p b = s := by
  simp only [State.assemble, ha]
  exact if_neg hb

theorem State.assemble_hunting_start (ha : (s.port p).assembly = .hunting) (hb : b = 0xA5) :
    s.assemble p b = s.setAssembly p .started := by
  simp only [State.assemble, ha]
  exact if_pos hb

theorem State.assemble_length (ha : (s.port p).assembly = .started) (hlo : 2 ≤ b.toNat) (hhi : b.toNat ≤ 62) :
    s.assemble p b = s.setAssembly p (.assembling b.toNat [b]) := by
  simp only [State.assemble, ha]
  exact if_neg (by omega)

theorem State.assemble_badLength (ha : (s.port p).assembly = .started) (hb : b.toNat < 2 ∨ 62 < b.toNat) :
    s.assemble p b = (s.setAssembly p .hunting).pushNotice p (.frameReject .length) := by
  simp only [State.assemble, ha]
  exact if_pos hb

variable {n : Nat} {bs : List Byte}

theorem State.assemble_more (ha : (s.port p).assembly = .assembling n bs) (h : bs.length + 1 < n + 2) :
    s.assemble p b = s.setAssembly p (.assembling n (bs ++ [b])) := by
  simp only [State.assemble, ha]
  exact if_pos (by simpa using h)

theorem State.assemble_last (ha : (s.port p).assembly = .assembling n bs) (h : n + 2 ≤ bs.length + 1) :
    s.assemble p b = (s.setAssembly p .hunting).completeFrame p (bs ++ [b]) := by
  simp only [State.assemble, ha]
  exact if_neg (by simpa using h)

end

theorem State.completeFrame_bad {s : State} {p : Port} {bs : List Byte} (h : bs.foldl (· + ·) 0 ≠ 0) :
    s.completeFrame p bs = s.pushNotice p (.frameReject .check) := if_neg h

theorem State.completeFrame_good {s : State} {p : Port} {len code tag : Byte} {rest : List Byte}
    (h : (len :: code :: tag :: rest).foldl (· + ·) 0 = 0) :
    s.completeFrame p (len :: code :: tag :: rest) = s.takeFrame p code tag rest.dropLast := if_pos h

theorem State.Settled.setAssembly {s : State} (h : s.Settled) (p : Port) (a : Assembly) :
    (s.setAssembly p a).Settled := h.congr' rfl rfl rfl

/-- A port's assembly does not count for the room of its queue. -/
theorem State.freeEntries_setAssembly (s : State) (p : Port) (a : Assembly) :
    (s.setAssembly p a).freeEntries p = s.freeEntries p := by
  simp [State.freeEntries, State.setAssembly]

/-- A frame rejected where its notice finds room (R177). -/
theorem State.reject_eq {s : State} {p : Port} (h : 8 ≤ s.freeEntries p) (cause : RejectReason) :
    (s.setAssembly p .hunting).pushNotice p (.frameReject cause) = s.updPort p fun r =>
      { r with assembly := .hunting, queue := r.queue ++ [⟨r.lost, false, 0, .frameReject cause⟩] } := by
  rw [State.pushNotice_of_room (by rwa [State.freeEntries_setAssembly]), State.enqueue, State.setAssembly,
    State.updPort_updPort]
  rfl

/-- Settles O10, one equation of `State.receive` per clause; every state it leaves is settled. -/
theorem receiveAssemblyFollowsTheBytes : Obligations.ReceiveAssemblyFollowsTheBytes := by
  intro p b s hs
  have hsettled : ∀ f : PortRec → PortRec, (s.updPort p f).Settled := fun f => hs.congr' rfl rfl rfl
  refine ⟨fun hspace x => exec_byteReceived_of_settled (State.receive_atSpace hspace x) hs,
    fun hmark => ⟨?_, fun ha => ⟨fun hb => ?_, fun hb => ?_⟩, fun ha => ⟨fun hlo hhi => ?_, fun hb hroom => ?_⟩,
      fun n bs ha => ⟨fun hmore => ?_, fun hlast hsum hroom => ?_⟩⟩, rfl⟩
  · exact exec_byteReceived_of_settled (State.receive_noStop hmark) (hsettled _)
  · exact exec_byteReceived_of_settled ((State.receive_stop hmark).trans (State.assemble_hunting_other ha hb)) hs
  · exact exec_byteReceived_of_settled ((State.receive_stop hmark).trans (State.assemble_hunting_start ha hb))
      (hsettled _)
  · exact exec_byteReceived_of_settled ((State.receive_stop hmark).trans (State.assemble_length ha hlo hhi)) (hsettled _)
  · exact exec_byteReceived_of_settled
      ((State.receive_stop hmark).trans ((State.assemble_badLength ha hb).trans (State.reject_eq hroom _))) (hsettled _)
  · exact exec_byteReceived_of_settled ((State.receive_stop hmark).trans (State.assemble_more ha hmore)) (hsettled _)
  · refine exec_byteReceived_of_settled ((State.receive_stop hmark).trans ((State.assemble_last ha hlast).trans ?_))
      (hsettled _)
    rw [State.completeFrame_bad hsum, State.reject_eq hroom]

/-! ## A frame as one command (log 3) -/

/-- An order's command takes the path of its frame. -/
theorem exec_eq_takeOrder {i : Instr} {p : Port} {tag : Byte} {k : OrderKind} (h : i.orderHead = some (p, tag, k))
    (s : State) : exec i s = .next (takeOrder i s).finish := by
  cases i <;> cases h <;> rfl

/-- The check byte makes the bytes from the length byte on sum to 0 (R177). -/
theorem foldl_checkByte (bs : List Byte) : (bs ++ [checkByte bs]).foldl (· + ·) 0 = 0 := by
  rw [List.foldl_append]
  simp [checkByte]

/-- The payload of a well-formed order leaves room in a frame. -/
theorem payload_length_le {i : Instr} {p : Port} {tag : Byte} {k : OrderKind} (hwf : i.wf = true)
    (hhead : i.orderHead = some (p, tag, k)) : i.payload.length ≤ 34 := by
  have hread := orderPayloadsReadBack i p tag k hwf hhead
  by_contra hlong
  rw [decodeOrder_none] at hread
  · cases hread
  · intro j _ hmem
    cases j <;> simp only [payloadLengths, List.mem_cons, List.not_mem_nil, or_false] at hmem <;> omega

/-- A port that assembles a frame, as one that hunts finds it again at the frame's end. -/
theorem State.setAssembly_setAssembly {s : State} {p : Port} (a b : Assembly) :
    (s.setAssembly p a).setAssembly p b = s.setAssembly p b := State.updPort_updPort _ _ _ _

theorem State.setAssembly_self {s : State} {p : Port} {a : Assembly} (h : (s.port p).assembly = a) :
    s.setAssembly p a = s := State.updPort_eq_self _ _ _ (by rw [← h])

/-- Bytes short of a frame's end are gathered (R177). -/
theorem sendBytes_gathers {s : State} {p : Port} (hs : s.Settled) (hmark : (s.port p).inBreak = false) {n : Nat}
    (rest : List Byte) : ∀ (xs bs : List Byte), bs.length + xs.length < n + 2 →
      sendBytes p (xs ++ rest) (s.setAssembly p (.assembling n bs))
        = sendBytes p rest (s.setAssembly p (.assembling n (bs ++ xs)))
  | [], bs, _ => by rw [List.nil_append, List.append_nil]
  | x :: xs, bs, h => by
    have hlen : bs.length + (xs.length + 1) < n + 2 := h
    have hmark' : ((s.setAssembly p (.assembling n bs)).port p).inBreak = false := by simpa [State.setAssembly] using hmark
    have hstep : exec (.byteReceived p x true) (s.setAssembly p (.assembling n bs))
        = .next (s.setAssembly p (.assembling n (bs ++ [x]))) := by
      refine exec_byteReceived_of_settled ((State.receive_stop hmark').trans ?_) (hs.setAssembly p _)
      have ha : ((s.setAssembly p (.assembling n bs)).port p).assembly = .assembling n bs := by simp [State.setAssembly]
      rw [State.assemble_more ha (by omega), State.setAssembly_setAssembly]
    rw [List.cons_append, sendBytes, hstep]
    have := sendBytes_gathers (n := n) hs hmark rest xs (bs ++ [x]) (by simp; omega)
    simpa using this

/-- Settles O9: the start byte, the length byte, the bytes gathered by `sendBytes_gathers`, and the check byte, at which
the decoder reads the order back (`orderPayloadsReadBack`). -/
theorem frameBytesDoWhatTheOrderDoes : Obligations.FrameBytesDoWhatTheOrderDoes := by
  intro i p tag k fs s hwf hhead hframe hs hhunt hmark
  have hlen := payload_length_le hwf hhead
  have hlength : (byteOf (i.payload.length + 2)).toNat = i.payload.length + 2 := by rw [byteOf_toNat]; omega
  have hmarked : ∀ a, ((s.setAssembly p a).port p).inBreak = false := fun a => by simpa [State.setAssembly] using hmark
  obtain rfl : frameBytes k.code tag i.payload = fs := by simpa [Instr.frame, hhead] using hframe
  have hstart : exec (.byteReceived p 0xA5 true) s = .next (s.setAssembly p .started) :=
    exec_byteReceived_of_settled ((State.receive_stop hmark).trans (State.assemble_hunting_start hhunt rfl))
      (hs.setAssembly p _)
  have hlengthByte : exec (.byteReceived p (byteOf (i.payload.length + 2)) true) (s.setAssembly p .started)
      = .next (s.setAssembly p (.assembling (i.payload.length + 2) [byteOf (i.payload.length + 2)])) := by
    refine exec_byteReceived_of_settled ((State.receive_stop (hmarked _)).trans ?_) (hs.setAssembly p _)
    rw [State.assemble_length (by simp [State.setAssembly]) (by omega) (by omega), State.setAssembly_setAssembly, hlength]
  -- the bytes the check byte completes
  set body := byteOf (i.payload.length + 2) :: k.code :: tag :: i.payload with hbody
  have hcheck : exec (.byteReceived p (checkByte body) true) (s.setAssembly p (.assembling (i.payload.length + 2) body))
      = exec i s := by
    rw [exec_byteReceived, State.receive_stop (hmarked _),
      State.assemble_last (n := i.payload.length + 2) (bs := body) (by simp [State.setAssembly]) (by simp [hbody]),
      State.setAssembly_setAssembly, State.setAssembly_self hhunt, exec_eq_takeOrder hhead]
    have hsum := foldl_checkByte body
    rw [hbody] at hsum ⊢
    simp only [List.cons_append] at hsum ⊢
    rw [State.completeFrame_good hsum, List.dropLast_concat, State.takeFrame, orderPayloadsReadBack i p tag k hwf hhead]
  obtain ⟨t, ht⟩ := exec_next i s
  have hgathers := sendBytes_gathers (n := i.payload.length + 2) hs hmark [checkByte body] (k.code :: tag :: i.payload)
    [byteOf (i.payload.length + 2)] (by simp; omega)
  calc sendBytes p (frameBytes k.code tag i.payload) s
      = sendBytes p ((k.code :: tag :: i.payload) ++ [checkByte body])
          (s.setAssembly p (.assembling (i.payload.length + 2) [byteOf (i.payload.length + 2)])) := by
        simp only [frameBytes, sendBytes, List.cons_append, hstart, hlengthByte, hbody]
    _ = sendBytes p [checkByte body] (s.setAssembly p (.assembling (i.payload.length + 2) body)) := hgathers
    _ = exec i s := by simp only [sendBytes, hcheck, ht]

end Sys2Proof.Machine
end

section
/-!
PROOFS. Links (R44, R47 to R52, R57, R167, R173, R176 to R181): orders discarded and refused, reports joining their queues,
port resets, POR.
-/

namespace Sys2Proof.Machine

/-! ## The arrival of a frame (R176, R178) -/

/-- Every order's command is the arrival of that order with some handler, after which the event ends. -/
theorem exists_arrival {i : Instr} {p : Port} {tag : Byte} {k : OrderKind} (h : i.orderHead = some (p, tag, k)) :
    ∃ handle, ∀ s, exec i s = .next (s.arrival p tag k handle).finish := by
  cases i <;> cases h <;> exact ⟨_, fun _ => rfl⟩

section
variable {s : State} {p : Port} {take : State → State}

theorem State.frameArrival_discarded (h : s.freeEntries p < 2) : s.frameArrival p take = s.markLost p := if_pos h

/-- No supervision effect: the port is not X, or the part is STARTING (R50). -/
theorem State.frameArrival_plain (h : 2 ≤ s.freeEntries p) (hp : p ≠ .x ∨ s.store.phase ≠ .running) :
    s.frameArrival p take = take s := by
  have hplain : (if p = .x then s.validFrameFromX else s) = s := by
    split
    · next hx =>
      have hnot : s.isRunning = false := beq_eq_false_iff_ne.2 (hp.resolve_left (not_not.2 hx))
      simp [State.validFrameFromX, hnot]
    · rfl
  rw [State.frameArrival, if_neg (not_lt.2 h), hplain]

/-- A valid frame from X while SUPERVISED restarts the timer (R48). -/
theorem State.frameArrival_timed (h : 2 ≤ s.freeEntries .x) (hr : s.store.phase = .running) (hx : s.supervised = true) :
    s.frameArrival .x take = take s.startSupervisionTimer := by
  simp [State.frameArrival, not_lt.2 h, State.validFrameFromX, State.isRunning, hr, hx]

/-- A valid frame from X while UNSUPERVISED restores supervision (R47, R52). -/
theorem State.frameArrival_restores (h : 2 ≤ s.freeEntries .x) (hr : s.store.phase = .running)
    (hx : s.supervised = false) {t : State} (ht : s.Restores t) : s.frameArrival .x take = take t := by
  simp [State.frameArrival, not_lt.2 h, State.validFrameFromX, State.isRunning, hr, hx, ht.eq]

theorem State.startSupervisionTimer_eq (s : State) :
    s.startSupervisionTimer = { s with supTimer := some (s.now + 10000 * s.config.interval) } := by
  rw [State.startSupervisionTimer, seconds, Nat.mul_comm]

end

section
variable {s : State} {c : OrderCtx} {k : OrderKind} {handle : State → State}

theorem State.checkedOrder_notPermitted (h : orderPermits k c.port = false) :
    s.checkedOrder c k handle = s.reply c .notPermitted := by simp [State.checkedOrder, h]

theorem State.checkedOrder_starting (h : orderPermits k c.port = true) (hr : s.store.phase ≠ .running) :
    s.checkedOrder c k handle = s.reply c .starting := by
  simp [State.checkedOrder, h, State.isRunning, hr]

end

/-- A REPLY that finds room, in a settled state, ends the event. -/
theorem State.Settled.finish_reply {s : State} {p : Port} (hs : s.Settled) (hroom : 2 ≤ s.freeEntries p) (tag code : Byte)
    (r : ReplyCode) (data : ReplyData) :
    (s.reply ⟨p, tag, code⟩ r data).finish = s.enqueue p (some tag) (.reply code r data) := by
  have hsettled : (s.enqueue p (some tag) (.reply code r data)).Settled := hs.congr' rfl rfl rfl
  have hne : s.freeEntries p ≠ 0 := by omega
  rw [State.reply_of_room (c := ⟨p, tag, code⟩) hne, hsettled.finish_eq]

/-- A frame complete with a zero sum that spells no order arrives and is answered BAD_ORDER (R176). -/
theorem exec_byteReceived_badOrder {p : Port} {b len code tag : Byte} {n : Nat} {bs rest : List Byte} {s : State}
    (hmark : (s.port p).inBreak = false) (ha : (s.port p).assembly = .assembling n bs) (hlast : n + 2 ≤ bs.length + 1)
    (hbytes : bs ++ [b] = len :: code :: tag :: rest) (hsum : (bs ++ [b]).foldl (· + ·) 0 = 0)
    (hno : ∀ k : OrderKind, k.code = code → rest.dropLast.length ∉ payloadLengths k) :
    exec (.byteReceived p b true) s
      = .next (((s.setAssembly p .hunting).frameArrival p fun t => t.reply ⟨p, tag, code⟩ .badOrder).finish) := by
  rw [hbytes] at hsum
  rw [exec_byteReceived, State.receive_stop hmark, State.assemble_last ha hlast, hbytes, State.completeFrame_good hsum,
    State.takeFrame, decodeOrder_none hno]

/-- Settles O11: each clause is one of the cases of `State.frameArrival` and of `State.checkedOrder`. -/
theorem linksRefuseAndDiscardOrders : Obligations.LinksRefuseAndDiscardOrders := by
  refine ⟨fun i p tag k s hhead hs hfull => ?_, fun i p tag k s hhead hs hroom hplain => ⟨fun hnot => ?_, fun hok hr => ?_⟩,
    fun i tag k s hhead hs hnot => ⟨fun hx => ?_, fun hx t e ht htroom he => ?_⟩,
    fun p b len code tag n bs rest s hs hmark ha hlast hbytes hsum hno => ?_⟩
  · obtain ⟨handle, hexec⟩ := exists_arrival hhead
    have hlost : (s.markLost p).Settled := hs.congr' rfl rfl rfl
    rw [hexec, State.arrival, State.frameArrival_discarded hfull, hlost.finish_eq]
    rfl
  · obtain ⟨handle, hexec⟩ := exists_arrival hhead
    rw [hexec, State.arrival, State.frameArrival_plain hroom hplain, State.checkedOrder_notPermitted hnot,
      hs.finish_reply hroom]
    rfl
  · obtain ⟨handle, hexec⟩ := exists_arrival hhead
    rw [hexec, State.arrival, State.frameArrival_plain hroom hplain, State.checkedOrder_starting hok hr,
      hs.finish_reply hroom]
    rfl
  · obtain ⟨handle, hexec⟩ := exists_arrival hhead
    rw [hexec, State.arrival, State.frameArrival_timed hs.room hs.running hx, State.checkedOrder_notPermitted hnot,
      hs.timer.finish_reply, State.startSupervisionTimer_eq]
  · obtain ⟨handle, hexec⟩ := exists_arrival hhead
    rw [hexec, State.arrival, State.frameArrival_restores hs.room hs.running hx ht, State.checkedOrder_notPermitted hnot,
      State.reply_of_room (c := ⟨.x, tag, k.code⟩) (Nat.pos_iff_ne_zero.1 htroom)]
    exact congrArg _ he.finish_eq
  · rw [exec_byteReceived_badOrder hmark ha hlast hbytes hsum hno]
    have hhunts : (s.setAssembly p .hunting).Settled := hs.setAssembly p _
    refine ⟨fun hfull => ?_, fun hroom => ⟨fun hplain => ?_, ?_⟩⟩
    · have hlost : ((s.setAssembly p .hunting).markLost p).Settled := hhunts.congr' rfl rfl rfl
      rw [State.frameArrival_discarded (by rwa [State.freeEntries_setAssembly]), hlost.finish_eq]
      rfl
    · have hroom' : 2 ≤ (s.setAssembly p .hunting).freeEntries p := by rwa [State.freeEntries_setAssembly]
      rw [State.frameArrival_plain hroom' hplain, hhunts.finish_reply hroom']
      rfl
    · rintro rfl hr
      have hroom' : 2 ≤ (s.setAssembly .x .hunting).freeEntries .x := by rwa [State.freeEntries_setAssembly]
      refine ⟨fun hx => ?_, fun hx t e ht htroom he => ?_⟩
      · have htimed : (s.setAssembly .x .hunting).startSupervisionTimer.Settled := hhunts.congr' rfl rfl rfl
        rw [State.frameArrival_timed hroom' hr hx, htimed.finish_reply hroom',
          State.startSupervisionTimer_eq]
        rfl
      · rw [State.frameArrival_restores hroom' hr hx ht,
          State.reply_of_room (c := ⟨.x, tag, code⟩) (Nat.pos_iff_ne_zero.1 htroom)]
        exact congrArg _ he.finish_eq

/-! ## Reports joining a queue (R179, R57) -/

section
variable {s : State} {p : Port} {tag : Option Byte} {body : ReportBody}

/-- A queue emptied for a kept report, which then stands alone behind the marker (R179, log 22). -/
theorem State.enqueue_emptyQueue (s : State) (p : Port) (tag : Option Byte) (body : ReportBody) :
    (s.emptyQueue p).enqueue p tag body
      = s.updPort p fun r => { r with queue := [⟨true, tag.isSome, tag.getD 0, body⟩], lost := true } :=
  State.updPort_updPort _ _ _ _

theorem State.pushKept_full (h : s.freeEntries p = 0) (hp : p ≠ .x) : s.pushKept p tag body
    = s.updPort p fun r => { r with queue := [⟨true, tag.isSome, tag.getD 0, body⟩], lost := true } := by
  rw [State.pushKept, if_pos h, State.enqueue_emptyQueue]
  exact if_neg hp

/-- A kept report that finds X's queue full stands alone, and what an overflow brings follows (R57). -/
theorem State.pushKept_overflow (h : s.freeEntries .x = 0) : s.pushKept .x tag body
    = (s.updPort .x fun r => { r with queue := [⟨true, tag.isSome, tag.getD 0, body⟩], lost := true }).overflowX := by
  rw [State.pushKept, if_pos h, State.enqueue_emptyQueue]
  exact if_pos rfl

theorem State.pushNotice_dropped (h : s.freeEntries p < 8) : s.pushNotice p body = s.markLost p := if_pos h

theorem State.overflowX_unsupervised (h : s.supervised = false) : s.overflowX = s := by simp [State.overflowX, h]

theorem State.overflowX_starting (h : s.supervised = true) (hr : s.store.phase ≠ .running) :
    s.overflowX = { s with lapseOwed := some (s.lapseOwed.getD .overflow) } := by
  simp [State.overflowX, h, State.isRunning, hr]

theorem State.overflowX_running (h : s.supervised = true) (hr : s.store.phase = .running) :
    s.overflowX = { s.lapseState with lapseInHand := some .overflow } := by
  simp [State.overflowX, h, State.isRunning, hr]

end

/-- The lines of a lapse as the lapse makes them (R51). -/
theorem State.lapsedLines_map (s : State) : s.LapsedLines (s.lines.map lapsedLine) := fun l => by
  rw [Tab.get_map, lapsedLine_eq]
  rfl

theorem State.LapsedLines.overflowX_eq {s : State} {ls : Tab LineRec 2048} (h : s.LapsedLines ls)
    (hx : s.supervised = true) (hr : s.store.phase = .running) : s.overflowX
      = { s with supervised := false, supTimer := none, lines := ls, lapseInHand := some .overflow } := by
  rw [State.overflowX_running hx hr, h.lapseState_eq]

/-! ## KEEP (R62) -/

section
variable {s : State} {d : DeskId} {tag code : Byte} {n : Nat} {f : DeskId → BusId → State}

/-- An order on a bus that its desk holds is handled. -/
theorem State.onHeldBus_of_holds {b : BusId} (hb : b.val = n) (hold : (s.bus b).holder = some (.desk d)) :
    s.onHeldBus ⟨.desk d, tag, code⟩ n f = f d b := by
  have hbus : busOf? n = some b := finOf?_eq_some.2 hb.symm
  simp [State.onHeldBus, hbus, heldBy, hold]

/-- An order on a bus that its desk does not hold is refused. -/
theorem State.HolderRefused.onHeldBus {r : ReplyCode} (h : s.HolderRefused d n r) :
    s.onHeldBus ⟨.desk d, tag, code⟩ n f = s.reply ⟨.desk d, tag, code⟩ r := by
  rcases h with ⟨hn, rfl⟩ | ⟨b, hb, hnot, rfl⟩
  · have hbus : busOf? n = none := finOf?_eq_none.2 hn
    simp [State.onHeldBus, hbus]
  · have hbus : busOf? n = some b := finOf?_eq_some.2 hb.symm
    simp [State.onHeldBus, hbus, heldBy, hnot]

end

/-- Where a port is heard, a REPLY joins its queue. -/
theorem State.Hears.reply_eq {s : State} {p : Port} (hs : s.Hears p) (tag : Byte) (k : OrderKind) (r : ReplyCode)
    (data : ReplyData) : s.reply ⟨p, tag, k.code⟩ r data = s.answered p tag k r data := by
  have hroom : s.freeEntries p ≠ 0 := by have := hs.room; omega
  exact State.reply_of_room (c := ⟨p, tag, k.code⟩) hroom _ _

/-- A PENDING intrusion that its holder may keep becomes KEPT, and DENIED goes to X (R62). -/
theorem keepOrder_denies {s : State} {d : DeskId} (hs : s.Hears (.desk d)) (tag : Byte) {n due : Nat} {b : BusId}
    {l : LineId} (hb : b.val = n) (hold : (s.bus b).holder = some (.desk d)) (howed : (s.bus b).owed = none)
    (hpending : (s.bus b).intrusion = .pending due) (hline : (s.bus b).line = some l)
    (hfree : (s.classes.get (s.line l).cls).isProtected = false) :
    keepOrder ⟨.desk d, tag, OrderKind.keep.code⟩ n s
      = ((s.answered (.desk d) tag .keep .accepted .none).updBus b fun r =>
          { r with intrusion := .kept, intrudeTag := none }).pushKept .x (s.bus b).intrudeTag
            (.intrudeAnswer .denied) := by
  have hprotected : ((s.bus b).line.any fun l => (s.classOf l).isProtected) = false := by
    simpa [hline, State.classOf] using hfree
  rw [keepOrder, State.onHeldBus_of_holds hb hold]
  simp only [howed, hpending, hprotected, hs.reply_eq]
  rfl

theorem exec_keep_of_hears {s : State} {d : DeskId} (hs : s.Hears (.desk d)) (tag : Byte) (n : Nat) :
    exec (.keep (.desk d) tag n) s = .next (keepOrder ⟨.desk d, tag, OrderKind.keep.code⟩ n s).finish :=
  hs.exec_of_arrival (handle := fun c => keepOrder c n) nofun rfl rfl

/-- Settles O12: the cases of `State.pushKept`, `State.pushNotice` and `State.overflowX`; a lapse left in hand is taken by
`State.LapseEnds.finish_eq`, also for a KEEP whose DENIED overflows. -/
theorem reportsJoinTheQueue : Obligations.ReportsJoinTheQueue := by
  refine ⟨fun s p tag body => ⟨fun h => ?_, State.pushKept_full, fun h => ?_, State.pushNotice_dropped⟩,
    fun s tag body hfull => ⟨fun hx => ?_, fun hx hr => ?_, fun hx hr => ⟨s.lines.map lapsedLine, ?_, ?_⟩⟩,
    fun s t cause hc ht => ⟨ht.settleLapse_eq hc, fun e he => ht.finish_eq hc he⟩, ?_⟩
  · exact State.pushKept_of_room h tag body
  · exact State.pushNotice_of_room h body
  · rw [State.pushKept_overflow hfull]
    exact State.overflowX_unsupervised hx
  · rw [State.pushKept_overflow hfull]
    exact State.overflowX_starting hx hr
  · rw [State.pushKept_overflow hfull]
    exact State.overflowX_running hx hr
  · exact s.lapsedLines_map
  · intro d tag x n due b l ls s t e hs hx hfull hb hold howed hpending hline hfree htag kept alone hls hlapse he
    have hfull' : kept.freeEntries .x = 0 := by
      show (s.answered (.desk d) tag .keep .accepted .none).freeEntries .x = 0
      rw [State.answered, State.freeEntries_enqueue, if_neg nofun, hfull]
    have halone : alone.LapsedLines ls := hls
    have hnone : alone.lapseInHand = none := hs.settled.noLapse
    have hlapse' : State.LapseEnds { alone with
        supervised := false, supTimer := none, lines := ls, lapseInHand := none } .overflow t := by
      rw [← hnone]
      exact hlapse
    have hpush : kept.pushKept .x (some x) (.intrudeAnswer .denied) = alone.overflowX := State.pushKept_overflow hfull'
    rw [exec_keep_of_hears hs, keepOrder_denies hs tag hb hold howed hpending hline hfree, htag, hpush,
      halone.overflowX_eq hx hs.running]
    exact congrArg _ (State.LapseEnds.finish_eq rfl hlapse' he)

/-! ## Port events (R179, R181, R44) -/

/-- A release decision on every bus with a property, where no bus has it, changes nothing. -/
theorem State.releaseWhere_none {s : State} {q : BusRec → Bool} (h : ∀ b, q (s.bus b) = false) (c : Cause) :
    s.releaseWhere q c = s := by
  have hstep : ∀ bs : List BusId, bs.foldl (fun t b => if q (t.bus b) then t.releaseDecision b c else t) s = s := by
    intro bs
    induction bs with
    | nil => rfl
    | cons b bs ih => simpa [h b] using ih
  exact hstep _

/-- What a port reset does to its source's holdings where the source has neither buses nor wait entries. -/
theorem State.resetHoldings_none {s : State} {src : Source} (hbus : ∀ b, (s.bus b).holder ≠ some src)
    (hwait : ∀ e ∈ s.waitQueue, e.req.source ≠ src) : s.resetHoldings src = s := by
  have hempty : (s.waitQueue.filter fun e => e.req.source == src) = [] := by simpa using hwait
  rw [State.resetHoldings, State.dropWaits, hempty, List.foldl_nil]
  exact State.releaseWhere_none (fun b => by simpa using hbus b) _

/-- A source's wait entries taken out (R44): no two entries have one line, so only the source's own leave the queue. -/
theorem State.dropWaits_eq {s : State} {src : Source} {ls : Tab LineRec 2048} (hs : s.WaitsAgree)
    (hls : ∀ l, ls.get l = if ∃ w ∈ s.waitQueue, w.req.source = src ∧ w.req.line = l then waitFlag false (s.line l)
      else s.line l) :
    s.dropWaits src = { s with waitQueue := s.waitQueue.filter fun w => w.req.source != src, lines := ls } := by
  obtain ⟨hrest, hlines⟩ := foldl_removeWait (s.waitQueue.filter fun e => e.req.source == src) s
  have hqueue : (s.waitQueue.filter fun w =>
        decide (∀ e ∈ s.waitQueue.filter fun e : WaitEntry => e.req.source == src, e.req.line ≠ w.req.line))
      = s.waitQueue.filter fun w => w.req.source != src := by
    refine List.filter_congr fun w hw => ?_
    rw [Bool.eq_iff_iff]
    simp only [List.mem_filter, decide_eq_true_eq, bne_iff_ne, ne_eq, beq_iff_eq, and_imp]
    constructor
    · exact fun h hsrc => h w hw hsrc rfl
    · intro hsrc e he hesrc hline
      obtain rfl : e = w := List.inj_on_of_nodup_map hs.lines he hw hline
      exact hsrc hesrc
  have htab : (s.dropWaits src).lines = ls := Tab.ext_get fun l => by
    rw [hls]
    refine (hlines l).trans (if_congr ?_ rfl rfl)
    simp [List.mem_filter, and_assoc]
  rw [State.dropWaits] at htab ⊢
  rw [hrest, hqueue, htab]

/-- What a port reset does once the port's own record is reset (R181). -/
def State.afterReset (s : State) (p : Port) : State :=
  match portSource? p with
  | some src => s.resetHoldings src
  | none => s.resetX

theorem State.portReset_eq {s : State} {p : Port} (h : (s.port p).inBreak = false) :
    s.portReset p = (s.updPort p fun _ => resetPortRec).afterReset p := by
  cases p <;> simp [State.portReset, h, State.afterReset, portSource?]

theorem exec_portReset (p : Port) (s : State) : exec (.portReset p) s = .next (s.portReset p).finish := rfl

/-- Settles O13: a port reset by whose port it is, and X's by the supervision. -/
theorem portEventsClearThePort : Obligations.PortEventsClearThePort := by
  refine ⟨fun s p => ⟨by simp only [List.drop_one]; rfl, rfl⟩, fun s p hs => ⟨fun hbreak => ?_, fun hmark => ?_⟩⟩
  · rw [exec_portReset, State.portReset, if_pos hbreak, hs.finish_eq]
  · have hcleared : (s.updPort p fun _ => resetPortRec).Settled := hs.congr' rfl rfl rfl
    rw [exec_portReset, State.portReset_eq hmark]
    refine ⟨fun hnone hx => ?_, fun src ls t e hsrc hw hls ht he => ?_, ?_⟩
    · have hafter : (s.updPort p fun _ => resetPortRec).afterReset p = s.updPort p fun _ => resetPortRec := by
        rw [State.afterReset]
        cases p with
        | desk d => exact State.resetHoldings_none (hnone _ rfl).1 (hnone _ rfl).2
        | m => exact State.resetHoldings_none (hnone _ rfl).1 (hnone _ rfl).2
        | x =>
          show State.resetX _ = _
          simp [State.resetX, hx rfl]
      rw [hafter, hcleared.finish_eq]
      rfl
    · have hw' : (s.updPort p fun _ => resetPortRec).WaitsAgree := ⟨hw.size, hw.lines, hw.noRs, hw.offBus, hw.queued⟩
      rw [State.afterReset, hsrc]
      simp only
      rw [State.resetHoldings, State.dropWaits_eq hw' hls]
      have hreleased := State.ReleasesAll.eq (q := fun r => r.holder == some src) (by simp) ht
      exact congrArg _ ((congrArg State.finish hreleased).trans he.finish_eq)
    · rintro rfl hx
      have hafter : (s.updPort .x fun _ => resetPortRec).afterReset .x = (s.updPort .x fun _ => resetPortRec).resetX := rfl
      rw [hafter]
      refine ⟨fun hr => ?_, fun hr t e ht he => ?_⟩
      · have howed : State.Settled { s.updPort .x fun _ => resetPortRec with
            lapseOwed := some (s.lapseOwed.getD .portReset) } := hs.congr' rfl rfl rfl
        have hreset : (s.updPort .x fun _ => resetPortRec).resetX
            = { s.updPort .x fun _ => resetPortRec with lapseOwed := some (s.lapseOwed.getD .portReset) } := by
          simp [State.resetX, hx, State.isRunning, hr]
        rw [hreset, howed.finish_eq]
        rfl
      · have hreset : (s.updPort .x fun _ => resetPortRec).resetX
            = (s.updPort .x fun _ => resetPortRec).lapse .portReset := by
          simp [State.resetX, hx, State.isRunning, hr]
        rw [hreset]
        exact congrArg _ ((congrArg State.finish ht.eq).trans he.finish_eq)

/-! ## POR (R167, R173) -/

/-- Settles O14: the array by the page in flight and the condition it is left in. -/
theorem porLeavesTheArray : Obligations.PorLeavesTheArray := by
  intro s cut
  refine ⟨s.afterPor cut, rfl, rfl, fun hnone => ?_, fun w hw => ⟨fun k hk => ?_, ?_⟩⟩
  · simp [State.afterPor, arrayAfterPor, hnone]
  · cases cut <;> simp [State.afterPor, arrayAfterPor, hw, Store.writePage, Tab.get_set, Ne.symm hk]
  · cases cut <;> simp [State.afterPor, arrayAfterPor, hw, Store.writePage]

end Sys2Proof.Machine
end

section
/-!
PROOFS. SEIZE, DEMAND_TEST and the end of a wait (R14, R21 to R33): the checks of a request in their order, the grant, the
place in the wait queue, and the entry that leaves it.
-/

namespace Sys2Proof.Machine

/-! ## Ends of events that leave the store alone -/

/-- While RUNNING, an event that leaves the store and the lapse in hand as they were has nothing left for its end. -/
theorem State.Settled.of_running {s t : State} (hs : s.Settled) (hr : s.store.phase = .running)
    (hstore : t.store = s.store) (hlapse : t.lapseInHand = s.lapseInHand) : t.Settled where
  noLapse := hlapse ▸ hs.noLapse
  notQuiet := fun h => by rw [hstore, hr] at h; cases h
  serviceIdle := hstore ▸ hs.serviceIdle
  notDrained := fun h => by rw [hstore, hr] at h; cases h

theorem State.Hears.finish_of_store {s t : State} {p : Port} (hs : s.Hears p) (hstore : t.store = s.store)
    (hlapse : t.lapseInHand = s.lapseInHand) : t.finish = t :=
  (hs.settled.of_running hs.running hstore hlapse).finish_eq

/-- A REPLY leaves a port heard, short of one entry. -/
theorem State.freeEntries_answered (s : State) (p q : Port) (tag : Byte) (k : OrderKind) (r : ReplyCode)
    (data : ReplyData) : (s.answered p tag k r data).freeEntries q
      = if p = q then s.freeEntries q - 1 else s.freeEntries q := State.freeEntries_enqueue _ _ _ _ _

/-! ## The checks of a request (R22) -/

section
variable {s : State} {q : Request}

theorem State.Admitted.admission_eq (h : s.Admitted q) : s.admission q.line q.source q.termination .order = none := by
  have hcall : callStateAdmits q.source (s.line q.line).callState = true := callStateAdmits_iff.2 h.call
  have hquarantine : ¬ ((s.line q.line).quarantined = true ∧ (q.source.automated = true ∨ q.termination = .talk)) := by
    rintro ⟨hq, hsrc⟩
    obtain ⟨hdesk, htalk⟩ := h.quarantine hq
    rcases hsrc with ha | ht
    · simp [ha] at hdesk
    · exact htalk ht
  have hsupervised : ¬ (¬ s.supervised = true ∧ q.source.automated = true) := fun hx => hx.1 (h.supervised hx.2)
  rw [State.admission]
  simp only [h.offBus, h.notQueued, hquarantine, hsupervised, hcall]
  rfl

theorem State.Admitted.requestBus_eq (h : s.Admitted q) (c : OrderCtx) : s.requestBus c q =
    match s.needs q.source q.termination with
    | some (b, u) => (s.reply c .accepted (.bus b)).grant q b u
    | none => if s.waitQueue.length < waitCapacity then (s.reply c .queued).placeWait q else s.reply c .queueFull := by
  have hprog : q.programme.any s.programmeEmpty = false := by
    rw [Option.any_eq_false]
    intro p hp
    simpa [State.programmeEmpty] using h.programme p hp
  rw [State.requestBus, h.admission_eq]
  simp only [not_le.2 h.allowance, hprog]
  rfl

/-- A request that is admitted and whose needs are met is granted (R25, R30). -/
theorem State.Admitted.requestBus_granted (h : s.Admitted q) {b : BusId} {u : Option MuId} (hn : s.NeedsMet q b u)
    {p : Port} (hs : s.Hears p) (hp : p ≠ .x) (hx : 1 ≤ s.freeEntries .x) (tag : Byte) (k : OrderKind) :
    s.requestBus ⟨p, tag, k.code⟩ q = (s.answered p tag k .accepted (.bus b)).granted q b u := by
  rw [h.requestBus_eq, State.needs_iff.2 hn]
  simp only [hs.reply_eq]
  exact hn.grant_eq _ rfl (by rwa [State.freeEntries_answered, if_neg hp])

/-- Needs unmet are met by no bus and no unit (R24). -/
theorem State.NeedsUnmet.not_met (h : s.NeedsUnmet q) (b : BusId) (u : Option MuId) : ¬ s.NeedsMet q b u := by
  intro hm
  rcases h with hbus | ⟨hmu, hunit⟩ | ⟨htalk, d, c, hsrc, hold, hpair⟩
  · exact hbus b hm.bus.1
  · rcases hm.unit with ⟨-, v, -, hv⟩ | ⟨hne, -⟩
    · exact hv.state.elim (hunit v).1 (hunit v).2
    · exact hne hmu
  · simp [hm.talk htalk d c hsrc hold] at hpair

end

/-! ## The orders (R21, R22) -/

/-- What a SEIZE's line field names for its desk (R20). -/
theorem State.fromDesk_of_names {s : State} {d : DeskId} {n : Nat} {l : LineId} (h : s.NamesLine (.desk d) n l) :
    s.fromDesk d n = some l := by
  obtain ⟨hin, hl⟩ := h
  have hline : lineOf? ((s.config.windows.get d).base + n) = some l := finOf?_eq_some.2 hl.symm
  simp [State.fromDesk, hin, hline]

theorem seizeParams_mu (pr : Option ProgId) : seizeParams 1 (pr.map Fin.val) = some (.mu, pr) := by
  cases pr with
  | none => rfl
  | some p => simp [seizeParams, termOfCode, progOf?]

theorem seizeOrder_of_params {s : State} {d : DeskId} {tag code : Byte} {n term : Nat} {prog : Option Nat}
    {t : Termination} {pr : Option ProgId} {l : LineId} (hparams : seizeParams term prog = some (t, pr))
    (hl : s.NamesLine (.desk d) n l) : seizeOrder ⟨.desk d, tag, code⟩ n term prog s
      = s.requestBus ⟨.desk d, tag, code⟩ ⟨.desk d, .order tag, l, t, pr⟩ := by
  simp [seizeOrder, hparams, State.fromDesk_of_names hl]

theorem demandTestOrder_of_line {s : State} {tag code : Byte} {n : Nat} (pr : ProgId) {l : LineId}
    (hl : s.NamesLine .m n l) : demandTestOrder ⟨.m, tag, code⟩ n pr.val s
      = s.requestBus ⟨.m, tag, code⟩ ⟨.mc, .order tag, l, .mu, some pr⟩ := by
  have hline : lineOf? n = some l := finOf?_eq_some.2 (Eq.symm hl)
  simp [demandTestOrder, progOf?, hline]

theorem exec_seize_of_hears {s : State} {d : DeskId} (hs : s.Hears (.desk d)) (tag : Byte) (n term : Nat)
    (prog : Option Nat) : exec (.seize (.desk d) tag n term prog) s
      = .next (seizeOrder ⟨.desk d, tag, OrderKind.seize.code⟩ n term prog s).finish :=
  hs.exec_of_arrival (handle := fun c => seizeOrder c n term prog) nofun rfl rfl

theorem exec_demandTest_of_hears {s : State} (hs : s.Hears .m) (tag : Byte) (n prog : Nat) :
    exec (.demandTest .m tag n prog) s
      = .next (demandTestOrder ⟨.m, tag, OrderKind.demandTest.code⟩ n prog s).finish :=
  hs.exec_of_arrival (handle := fun c => demandTestOrder c n prog) nofun rfl rfl

/-- The state after a REPLY and a grant has nothing left for the end of the event. -/
theorem State.Hears.finish_granted {s : State} {p : Port} (hs : s.Hears p) (tag : Byte) (k : OrderKind) (r : ReplyCode)
    (data : ReplyData) (q : Request) (b : BusId) (u : Option MuId) :
    ((s.answered p tag k r data).granted q b u).finish = (s.answered p tag k r data).granted q b u := by
  have hsteady := (s.answered p tag k r data).granted_steady q b u
  exact hs.finish_of_store hsteady.store hsteady.lapse

/-- Settles O24, by `State.Admitted.requestBus_granted` for each form of request. -/
theorem requestsAreGranted : Obligations.RequestsAreGranted := by
  intro tag n l b u s hx
  refine ⟨fun d pr hs hl => ⟨fun ha hn => ?_, fun ha hn => ?_⟩, fun pr hs hl => fun ha hn => ?_⟩
  · rw [exec_seize_of_hears hs, seizeOrder_of_params (seizeParams_mu pr) hl, ha.requestBus_granted hn hs nofun hx,
      hs.finish_granted]
  · rw [exec_seize_of_hears hs, seizeOrder_of_params rfl hl, ha.requestBus_granted hn hs nofun hx, hs.finish_granted]
  · rw [exec_demandTest_of_hears hs, demandTestOrder_of_line pr hl, ha.requestBus_granted hn hs nofun hx,
      hs.finish_granted]

/-! ## A place in the wait queue (R28, R30) -/

/-- Where the desks' entries stand before MC's, a desk's entry is placed after the desks' (R30). -/
theorem placeEntry_desk {ds ms : List WaitEntry} {e : WaitEntry} (hd : ∀ x ∈ ds, ∃ d, x.req.source = .desk d)
    (hm : ∀ x ∈ ms, x.req.source = .mc) (he : ∃ d, e.req.source = .desk d) :
    placeEntry (ds ++ ms) e = ds ++ [e] ++ ms := by
  have hds : ∀ x ∈ ds, x.isDesk = true := fun x hx => by
    obtain ⟨d, hsrc⟩ := hd x hx
    simp [WaitEntry.isDesk, hsrc, Source.automated]
  have hms : ∀ x ∈ ms, x.isDesk = false := fun x hx => by simp [WaitEntry.isDesk, hm x hx, Source.automated]
  have hdesk : e.isDesk = true := by
    obtain ⟨d, hsrc⟩ := he
    simp [WaitEntry.isDesk, hsrc, Source.automated]
  have htake : ms.takeWhile WaitEntry.isDesk = [] ∧ ms.dropWhile WaitEntry.isDesk = ms := by
    cases ms with
    | nil => simp
    | cons m ms => simp [hms m List.mem_cons_self]
  rw [placeEntry, if_pos hdesk, List.takeWhile_append_of_pos hds, List.dropWhile_append_of_pos hds, htake.1, htake.2]
  simp

theorem placeEntry_mc {q : List WaitEntry} {e : WaitEntry} (he : e.req.source = .mc) : placeEntry q e = q ++ [e] := by
  simp [placeEntry, WaitEntry.isDesk, he, Source.automated]

section
variable {s : State} {q : Request} {p : Port}

theorem State.Admitted.requestBus_waits (h : s.Admitted q) (hn : s.NeedsUnmet q) (hs : s.Hears p) (tag : Byte)
    (k : OrderKind) (hlen : s.waitQueue.length < 8) :
    s.requestBus ⟨p, tag, k.code⟩ q = (s.answered p tag k .queued .none).placeWait q := by
  rw [h.requestBus_eq, State.needs_none hn.not_met]
  simp only [hs.reply_eq]
  exact if_pos hlen

theorem State.Admitted.requestBus_full (h : s.Admitted q) (hn : s.NeedsUnmet q) (hs : s.Hears p) (tag : Byte)
    (k : OrderKind) (hlen : 8 ≤ s.waitQueue.length) :
    s.requestBus ⟨p, tag, k.code⟩ q = s.answered p tag k .queueFull .none := by
  rw [h.requestBus_eq, State.needs_none hn.not_met]
  simp only [hs.reply_eq]
  exact if_neg (not_lt.2 hlen)

end

theorem State.Hears.finish_answered {s : State} {p : Port} (hs : s.Hears p) (tag : Byte) (k : OrderKind) (r : ReplyCode)
    (data : ReplyData) : (s.answered p tag k r data).finish = s.answered p tag k r data := hs.finish_of_store rfl rfl

/-- A desk's entry placed (R28, R30). -/
theorem State.placeWait_desk {s : State} {d : DeskId} {q : Request} {ds ms : List WaitEntry}
    (hq : s.waitQueue = ds ++ ms) (hd : ∀ x ∈ ds, ∃ d, x.req.source = .desk d) (hm : ∀ x ∈ ms, x.req.source = .mc)
    (hsrc : q.source = .desk d) : s.placeWait q = { s.updLine q.line (waitFlag true) with
      waitQueue := ds ++ [⟨q, s.now + 10000 * s.config.deskWait⟩] ++ ms } := by
  have hlimit : seconds (s.waitLimit q.source) = 10000 * s.config.deskWait := by
    simp [State.waitLimit, hsrc, Source.automated, seconds, Nat.mul_comm]
  simp only [State.placeWait, hlimit, hq, placeEntry_desk (e := ⟨q, _⟩) hd hm ⟨d, hsrc⟩]
  rfl

/-- An entry of MC placed (R28, R30). -/
theorem State.placeWait_mc {s : State} {q : Request} (hsrc : q.source = .mc) :
    s.placeWait q = { s.updLine q.line (waitFlag true) with
      waitQueue := s.waitQueue ++ [⟨q, s.now + 10000 * s.config.mcWait⟩] } := by
  have hlimit : seconds (s.waitLimit q.source) = 10000 * s.config.mcWait := by
    simp [State.waitLimit, hsrc, Source.automated, seconds, Nat.mul_comm]
  simp only [State.placeWait, hlimit, placeEntry_mc (e := ⟨q, _⟩) hsrc]
  rfl

theorem seizeParams_of {t : Termination} {pr : Option ProgId} (h : t = .mu ∨ t = .talk ∧ pr = none) :
    seizeParams (if t = .mu then 1 else 2) (pr.map Fin.val) = some (t, pr) := by
  rcases h with rfl | ⟨rfl, rfl⟩
  · exact seizeParams_mu pr
  · rfl

/-- Settles O25: the request waits (`State.Admitted.requestBus_waits`) or finds the queue full, for each source. -/
theorem requestsWait : Obligations.RequestsWait := by
  intro tag n l ds ms s hq hd hm
  refine ⟨fun d t pr hs hl ht => fun ha hn => ⟨fun hlen => ?_, fun hlen => ?_⟩,
    fun pr hs hl => fun ha hn => ⟨fun hlen => ?_, fun hlen => ?_⟩⟩
  · have hq' : (s.answered (.desk d) tag .seize .queued .none).waitQueue = ds ++ ms := hq
    rw [exec_seize_of_hears hs, seizeOrder_of_params (seizeParams_of ht) hl, ha.requestBus_waits hn hs tag _ hlen,
      State.placeWait_desk (q := ⟨.desk d, .order tag, l, t, pr⟩) hq' hd hm rfl]
    exact congrArg _ (hs.finish_of_store rfl rfl)
  · rw [exec_seize_of_hears hs, seizeOrder_of_params (seizeParams_of ht) hl, ha.requestBus_full hn hs tag _ hlen,
      hs.finish_answered]
  · rw [exec_demandTest_of_hears hs, demandTestOrder_of_line pr hl, ha.requestBus_waits hn hs tag _ hlen,
      State.placeWait_mc (q := ⟨.mc, .order tag, l, .mu, some pr⟩) rfl, ← hq]
    exact congrArg _ (hs.finish_of_store rfl rfl)
  · rw [exec_demandTest_of_hears hs, demandTestOrder_of_line pr hl, ha.requestBus_full hn hs tag _ hlen,
      hs.finish_answered]

/-! ## Refusals (R14, R21 to R23) -/

/-- The first check that a request of a desk or of MC fails, its parameters and line known (R22). -/
def State.refusalOf (s : State) (l : LineId) (src : Source) (t : Termination) (pr : Option ProgId) : Option ReplyCode :=
  if (s.line l).onBus.isSome then some .lineOnTest
  else if (s.line l).queued then some .lineQueued
  else if (s.line l).quarantined ∧ (src = .mc ∨ t = .talk) then some .quarantined
  else if s.supervised = false ∧ src = .mc then some .unsupervised
  else if (s.line l).callState = .busy ∨ (s.line l).callState = .ringing
      ∨ ((s.line l).callState = .unknown ∧ src = .mc) then some .lineBusy
  else if s.allowance src ≤ s.countOf src then some .noAllowance
  else if ∃ p, pr = some p ∧ (s.library.get p).count = 0 then some .noProgramme
  else none

theorem automated_iff_mc {src : Source} (h : src ≠ .rs) : src.automated = true ↔ src = .mc := by
  cases src <;> simp_all [Source.automated]

theorem callStateAdmits_false_iff {src : Source} (h : src ≠ .rs) {c : CallState} : callStateAdmits src c = false ↔
    c = .busy ∨ c = .ringing ∨ (c = .unknown ∧ src = .mc) := by
  cases c <;> simp [callStateAdmits, automated_iff_mc h]

theorem programmeEmpty_any_iff {s : State} {pr : Option ProgId} :
    pr.any s.programmeEmpty = true ↔ ∃ p, pr = some p ∧ (s.library.get p).count = 0 := by
  simp [State.programmeEmpty, Option.any_eq_true]

/-- The admission test of an order of a desk or of MC, its checks in their order (R14). -/
theorem State.admission_order_eq {s : State} {l : LineId} {src : Source} (hsrc : src ≠ .rs) (t : Termination) :
    s.admission l src t .order =
      if (s.line l).onBus.isSome then some .lineOnTest
      else if (s.line l).queued then some .lineQueued
      else if (s.line l).quarantined ∧ (src = .mc ∨ t = .talk) then some .quarantined
      else if s.supervised = false ∧ src = .mc then some .unsupervised
      else if (s.line l).callState = .busy ∨ (s.line l).callState = .ringing
          ∨ ((s.line l).callState = .unknown ∧ src = .mc) then some .lineBusy
      else none := by
  simp only [State.admission, automated_iff_mc hsrc, true_and, Bool.not_eq_true, ← callStateAdmits_false_iff hsrc]
  cases callStateAdmits src (s.line l).callState <;> rfl

/-- A request refused by its first failing check (R22): the checks of `State.refusalOf` are those of `State.requestBus`, in
one order. -/
theorem State.requestBus_refused {s : State} {q : Request} (hsrc : q.source ≠ .rs) {code : ReplyCode}
    (h : s.refusalOf q.line q.source q.termination q.programme = some code) (c : OrderCtx) :
    s.requestBus c q = s.reply c code := by
  rw [State.requestBus, State.admission_order_eq hsrc]
  simp only [State.refusalOf, ← programmeEmpty_any_iff] at h
  split_ifs at h with h₁ h₂ h₃ h₄ h₅ h₆ h₇ <;> cases h
  · rw [if_pos h₁]
  · rw [if_neg h₁, if_pos h₂]
  · rw [if_neg h₁, if_neg h₂, if_pos h₃]
  · rw [if_neg h₁, if_neg h₂, if_neg h₃, if_pos h₄]
  · rw [if_neg h₁, if_neg h₂, if_neg h₃, if_neg h₄, if_pos h₅]
  · rw [if_neg h₁, if_neg h₂, if_neg h₃, if_neg h₄, if_neg h₅]
    exact if_pos h₆
  · rw [if_neg h₁, if_neg h₂, if_neg h₃, if_neg h₄, if_neg h₅]
    exact (if_neg h₆).trans (if_pos h₇)

/-- Settles O26: the parameters by `seizeParams`, the line by its operand, the other checks by
`State.requestBus_refused`. -/
theorem requestsAreRefusedInOrder : Obligations.RequestsAreRefusedInOrder := by
  intro tag n l s r refusal
  refine ⟨fun d hs => ?_, fun hs => ?_⟩
  · have hparams : ∀ t pr, seizeParams t pr = none → exec (.seize (.desk d) tag n t pr) s
        = .next (s.answered (.desk d) tag .seize .badParameter .none) := fun t pr hnone => by
      have hreply : seizeOrder ⟨.desk d, tag, OrderKind.seize.code⟩ n t pr s
          = s.reply ⟨.desk d, tag, OrderKind.seize.code⟩ .badParameter := by simp [seizeOrder, hnone]
      rw [exec_seize_of_hears hs, hreply, hs.finish_reply]
    have hwindow : ∀ {t pr x}, seizeParams t pr = some x → (s.config.windows.get d).count ≤ n →
        exec (.seize (.desk d) tag n t pr) s = .next (s.answered (.desk d) tag .seize .outOfWindow .none) := by
      intro t pr x hx hout
      have hnone : s.fromDesk d n = none := if_neg (not_lt.2 hout)
      have hreply : seizeOrder ⟨.desk d, tag, OrderKind.seize.code⟩ n t pr s
          = s.reply ⟨.desk d, tag, OrderKind.seize.code⟩ .outOfWindow := by simp [seizeOrder, hx, hnone]
      rw [exec_seize_of_hears hs, hreply, hs.finish_reply]
    have hrefused : ∀ {term prog t pr code}, seizeParams term prog = some (t, pr) → s.NamesLine (.desk d) n l →
        s.refusalOf l (.desk d) t pr = some code → exec (.seize (.desk d) tag n term prog) s
          = .next (s.answered (.desk d) tag .seize code .none) := by
      intro term prog t pr code hx hl hcode
      rw [exec_seize_of_hears hs, seizeOrder_of_params hx hl,
        State.requestBus_refused (q := ⟨.desk d, .order tag, l, t, pr⟩) nofun hcode, hs.finish_reply]
    refine ⟨fun t pr h1 h2 => hparams t pr ?_, fun pr hpr => hparams 1 _ ?_, fun pr => hparams 2 _ rfl,
      fun hout => ⟨hwindow rfl hout, fun pr => hwindow (seizeParams_mu pr) hout⟩,
      fun hl => ⟨fun pr code hcode => hrefused (seizeParams_mu pr) hl hcode, fun code hcode => hrefused rfl hl hcode⟩⟩
    · match t, h1, h2 with
      | 0, _, _ => cases pr <;> rfl
      | k + 3, _, _ => cases pr <;> rfl
    · have hnone : progOf? pr = none := finOf?_eq_none.2 hpr
      simp [seizeParams, termOfCode, hnone]
  · have hparams : ∀ pr, progOf? pr = none ∨ lineOf? n = none → exec (.demandTest .m tag n pr) s
        = .next (s.answered .m tag .demandTest .badParameter .none) := fun pr hbad => by
      have hreply : demandTestOrder ⟨.m, tag, OrderKind.demandTest.code⟩ n pr s
          = s.reply ⟨.m, tag, OrderKind.demandTest.code⟩ .badParameter := by
        unfold demandTestOrder
        split <;> simp_all
      rw [exec_demandTest_of_hears hs, hreply, hs.finish_reply]
    refine ⟨fun pr hpr => hparams pr (.inl (finOf?_eq_none.2 hpr)), fun hn pr => hparams pr (.inr (lineOf?_above hn)),
      fun hl pr code hcode => ?_⟩
    show exec (.demandTest .m tag n pr.val) s = _
    rw [exec_demandTest_of_hears hs, demandTestOrder_of_line pr hl,
      State.requestBus_refused (q := ⟨.mc, .order tag, l, .mu, some pr⟩) nofun hcode, hs.finish_reply]

/-! ## The end of a wait (R32 to R34) -/

/-- The entry of a line stands alone in the queue for that line. -/
theorem find?_of_only {q xs ys : List WaitEntry} {e : WaitEntry} (hq : q = xs ++ e :: ys) {p : WaitEntry → Bool}
    (he : p e = true) (hx : ∀ x ∈ xs, p x = false) : q.find? p = some e := by
  rw [hq, List.find?_append, List.find?_eq_none.2 (by simpa using hx)]
  simp [he]

/-- A wait entry ended without a grant where its source's port has room (R32 to R34). -/
theorem State.expireWait_eq {s : State} {e : WaitEntry} {xs ys : List WaitEntry} {p : Port} {waitTag : Byte}
    (hq : s.waitQueue = xs ++ e :: ys) (hp : portSource? p = some e.req.source) (htag : e.req.tag = .order waitTag)
    (hothers : ∀ x ∈ xs ++ ys, x.req.line ≠ e.req.line) (hroom : 1 ≤ s.freeEntries p) (cause : WaitCause) :
    s.expireWait e cause = { (s.updLine e.req.line (waitFlag false)).enqueue p (some waitTag)
      (.waitExpired cause (s.lineFor p e.req.line)) with waitQueue := xs ++ ys } := by
  have hport : ∀ src, portSource? p = some src → src.port? = some p := by
    cases p <;> rintro _ ⟨⟩ <;> rfl
  have hleft : (s.waitQueue.filter fun x => x.req.line != e.req.line) = xs ++ ys := by
    have hkeep : ∀ zs : List WaitEntry, (∀ x ∈ zs, x ∈ xs ++ ys) → (zs.filter fun x => x.req.line != e.req.line) = zs :=
      fun zs hzs => List.filter_eq_self.2 fun x hx => by simpa using hothers x (hzs x hx)
    rw [hq, List.filter_append, List.filter_cons_of_neg (by simp), hkeep xs (fun x hx => by simp [hx]),
      hkeep ys (fun x hx => by simp [hx])]
  have hroom' : (s.removeWait e.req.line).freeEntries p ≠ 0 := Nat.pos_iff_ne_zero.1 hroom
  simp only [State.expireWait, State.toHolder, Option.bind_some, hport _ hp, htag, HolderTag.order?,
    State.pushKept_of_room hroom']
  simp only [State.removeWait, hleft]
  rfl

/-- Every port but X may send CANCEL_WAIT (R176). -/
theorem orderPermits_cancelWait {p : Port} (hp : p ≠ .x) : orderPermits .cancelWait p = true := by
  cases p with
  | desk k => rfl
  | m => rfl
  | x => exact absurd rfl hp

theorem exec_cancelWait_of_hears {s : State} {p : Port} (hs : s.Hears p) (hp : p ≠ .x) (tag : Byte) (n : Nat) :
    exec (.cancelWait p tag n) s = .next (cancelWaitOrder ⟨p, tag, OrderKind.cancelWait.code⟩ n s).finish :=
  hs.exec_of_arrival (handle := fun c => cancelWaitOrder c n) hp (orderPermits_cancelWait hp) rfl

theorem cancelWaitOrder_of_error {c : OrderCtx} {n : Nat} {code : ReplyCode} {s : State}
    (h : s.lineOperand c.port n = .error code) : cancelWaitOrder c n s = s.reply c code := by
  simp [cancelWaitOrder, h]

theorem exec_waitDeadlineExpiry (l : LineId) (s : State) :
    exec (.waitDeadlineExpiry l) s = .next (s.waitDeadline l).finish := rfl

/-- Settles O27: the entry is the one the search finds, and `State.expireWait_eq` ends it, at the order or at its
deadline. -/
theorem waitEntriesEndWithoutAGrant : Obligations.WaitEntriesEndWithoutAGrant := by
  refine ⟨fun p src tag waitTag n l s hsrc hs => ?_, fun p src waitTag l s hsrc hs hroom => ⟨?_, fun hno => ?_⟩⟩
  · have hp : p ≠ .x := by rintro rfl; cases hsrc
    have hrefused : ∀ code, s.lineOperand p n = .error code →
        exec (.cancelWait p tag n) s = .next (s.answered p tag .cancelWait code .none) := fun code hcode => by
      rw [exec_cancelWait_of_hears hs hp, cancelWaitOrder_of_error hcode, hs.finish_reply]
    refine ⟨fun hl => ⟨?_, fun hno => ?_⟩, ?_, ?_⟩
    · rintro e xs ys hq rfl rfl htag hothers
      have hfound := find?_of_only (p := fun x => x.req.line == e.req.line && some x.req.source == portSource? p) hq
        (by simp [hsrc]) (fun x hx => by simp [hothers x (List.mem_append_left _ hx)])
      have hroom : 1 ≤ (s.answered p tag .cancelWait .accepted .none).freeEntries p := by
        rw [State.freeEntries_answered, if_pos rfl]
        have := hs.room
        omega
      have horder : cancelWaitOrder ⟨p, tag, OrderKind.cancelWait.code⟩ n s
          = (s.answered p tag .cancelWait .accepted .none).expireWait e .cancelled := by
        simp only [cancelWaitOrder, State.lineOperand_of_names hl, hfound, hs.reply_eq]
      have hq' : (s.answered p tag .cancelWait .accepted .none).waitQueue = xs ++ e :: ys := hq
      rw [exec_cancelWait_of_hears hs hp, horder, State.expireWait_eq hq' hsrc htag hothers hroom]
      exact congrArg _ (hs.finish_of_store rfl rfl)
    · have hnone : (s.waitQueue.find? fun e => e.req.line == l && some e.req.source == portSource? p) = none :=
        List.find?_eq_none.2 fun e he => by simpa [hsrc] using hno e he
      have horder : cancelWaitOrder ⟨p, tag, OrderKind.cancelWait.code⟩ n s
          = s.reply ⟨p, tag, OrderKind.cancelWait.code⟩ .badState := by
        simp only [cancelWaitOrder, State.lineOperand_of_names hl, hnone]
      rw [exec_cancelWait_of_hears hs hp, horder, hs.finish_reply]
    · rintro d rfl hout
      exact hrefused _ (State.lineOperand_desk_outside hout)
    · rintro rfl hn
      exact hrefused _ (State.lineOperand_m_above hn)
  · rintro e xs ys hq rfl rfl htag hothers
    have hfound : s.waitFor e.req.line = some e := find?_of_only hq (by simp)
      (fun x hx => by simpa using hothers x (List.mem_append_left _ hx))
    have hq' : (s.reach e.deadline).waitQueue = xs ++ e :: ys := hq
    rw [exec_waitDeadlineExpiry, State.waitDeadline, hfound]
    simp only
    rw [State.expireWait_eq hq' hsrc htag hothers hroom]
    exact congrArg _ (State.Settled.finish_eq (hs.congr' rfl rfl rfl))
  · have hnone : s.waitFor l = none := List.find?_eq_none.2 fun e he => by simpa using hno e he
    rw [exec_waitDeadlineExpiry, State.waitDeadline, hnone]
    exact congrArg _ hs.finish_eq

end Sys2Proof.Machine
end

section
/-!
PROOFS. Orders on a held bus (R35, R37 to R40, R42, R62, R63, R73, R83 to R85): TERMINATE, RELEASE, RUN, ABORT, KEEP.
-/

namespace Sys2Proof.Machine

/-! ## Units changed, if a unit is given -/

@[simp] theorem State.updUnit_store (s : State) (u : Option MuId) (f : MuRec → MuRec) :
    (s.updUnit u f).store = s.store := by cases u <;> rfl

@[simp] theorem State.updUnit_lapseInHand (s : State) (u : Option MuId) (f : MuRec → MuRec) :
    (s.updUnit u f).lapseInHand = s.lapseInHand := by cases u <;> rfl

@[simp] theorem State.updUnit_now (s : State) (u : Option MuId) (f : MuRec → MuRec) :
    (s.updUnit u f).now = s.now := by cases u <;> rfl

@[simp] theorem State.updUnit_config (s : State) (u : Option MuId) (f : MuRec → MuRec) :
    (s.updUnit u f).config = s.config := by cases u <;> rfl

theorem State.updUnit_waitQueue (s : State) (u : Option MuId) (f : MuRec → MuRec) :
    (s.updUnit u f).waitQueue = s.waitQueue := by cases u <;> rfl

theorem State.updUnit_sweep (s : State) (u : Option MuId) (f : MuRec → MuRec) :
    (s.updUnit u f).sweep = s.sweep := by cases u <;> rfl

/-- The units after a change depend on the units before it alone. -/
theorem State.mu_updUnit_congr {s t : State} (h : t.units = s.units) (u : Option MuId) (f : MuRec → MuRec) :
    (t.updUnit u f).mu = (s.updUnit u f).mu := by
  cases u with
  | none => exact State.mu_congr h
  | some v => exact State.mu_congr (by simp [State.updUnit, h, State.mu_congr h])

theorem ms_eq (n : Nat) : ms n = 10 * n := Nat.mul_comm _ _

/-! ## TERMINATE (R35) -/

theorem termOfCode_termCode (t : Termination) : termOfCode (termCode t) = some t := by cases t <;> rfl

theorem exec_terminate_of_hears {s : State} {d : DeskId} (hs : s.Hears (.desk d)) (tag : Byte) (n code : Nat) :
    exec (.terminate (.desk d) tag n code) s
      = .next (terminateOrder ⟨.desk d, tag, OrderKind.terminate.code⟩ n code s).finish :=
  hs.exec_of_arrival (handle := fun c => terminateOrder c n code) nofun rfl rfl

section
variable {s : State} {d : DeskId} {tag k : Byte} {n code : Nat} {b : BusId} {t : Termination}

/-- A TERMINATE on a bus that its desk holds, refused by a check of R35. -/
theorem terminateOrder_refused {r : ReplyCode} (hb : b.val = n) (hold : (s.bus b).holder = some (.desk d))
    (ht : termOfCode code = some t) (hcheck : s.terminateCheck d b t = some r) :
    terminateOrder ⟨.desk d, tag, k⟩ n code s = s.reply ⟨.desk d, tag, k⟩ r := by
  have hbus : busOf? n = some b := finOf?_eq_some.2 hb.symm
  simp [terminateOrder, hbus, ht, heldBy, hold, hcheck]

theorem terminateOrder_accepted (hb : b.val = n) (hold : (s.bus b).holder = some (.desk d))
    (ht : termOfCode code = some t) (hcheck : s.terminateCheck d b t = none) :
    terminateOrder ⟨.desk d, tag, k⟩ n code s = (s.reply ⟨.desk d, tag, k⟩ .accepted).switchTermination b tag t := by
  have hbus : busOf? n = some b := finOf?_eq_some.2 hb.symm
  simp [terminateOrder, hbus, ht, heldBy, hold, hcheck]

end

section
variable {s : State} {d : DeskId} {b : BusId} {t : Termination}

theorem State.terminateCheck_badState (h : (s.bus b).state ≠ .held ∨ (s.bus b).releasePending ≠ none) :
    s.terminateCheck d b t = some .badState := by
  have h' : (s.bus b).state ≠ .held ∨ (s.bus b).releasePending.isSome = true :=
    h.imp_right fun hne => Option.isSome_iff_ne_none.2 hne
  exact if_pos h'

theorem State.terminateCheck_badUnit (h : ∃ u, (s.bus b).boundMu = some u ∧ (s.mu u).state ≠ .attached) :
    s.terminateCheck d b t = some .badState := by
  have hany : ((s.bus b).boundMu.any fun u => (s.mu u).state != .attached) = true := by
    simpa [Option.any_eq_true] using h
  unfold State.terminateCheck
  simp [hany]

/-- The checks on the bus and on its unit passed. -/
theorem State.terminateCheck_eq (hstate : (s.bus b).state = .held) (hpending : (s.bus b).releasePending = none)
    (hunit : ∀ u, (s.bus b).boundMu = some u → (s.mu u).state = .attached) : s.terminateCheck d b t =
      if t = .talk ∧ (s.bus b).line.any fun l => (s.line l).quarantined then some .quarantined
      else if t = .talk ∧ allBuses.any fun x => x != b && heldBy d (s.bus x) && (s.bus x).talkPair then some .badState
      else if t = .mu ∧ (s.bus b).boundMu.isNone ∧ s.freeUnit?.isNone then some .noMu
      else none := by
  have hany : ((s.bus b).boundMu.any fun u => (s.mu u).state != .attached) = false := by
    rw [Option.any_eq_false]
    intro u hu
    simp [hunit u hu]
  unfold State.terminateCheck
  simp [hstate, hpending, hany]

theorem quarantined_any_iff : ((s.bus b).line.any fun l => (s.line l).quarantined) = true ↔
    ∃ l, (s.bus b).line = some l ∧ (s.line l).quarantined = true := by
  simp [Option.any_eq_true]

theorem talkPair_any_iff : (allBuses.any fun x => x != b && heldBy d (s.bus x) && (s.bus x).talkPair) = true ↔
    ∃ x, x ≠ b ∧ (s.bus x).holder = some (.desk d) ∧ (s.bus x).talkPair = true := by
  simp [List.any_eq_true, mem_allBuses, heldBy, and_assoc]

/-- The bound unit, ATTACHED, goes back to READY (R35, R69). -/
theorem State.unbindAny_eq (h : ∀ u, (s.bus b).boundMu = some u → (s.mu u).state = .attached) :
    s.unbindAny (s.bus b).boundMu = s.updUnit (s.bus b).boundMu (freedUnit s.now s.config.standby) := by
  cases hu : (s.bus b).boundMu with
  | none => rfl
  | some u => exact State.updMu_congr _ _ _ _ (unbindUnit_attached _ _ (h u hu))

/-- The relays begin to switch with the unit that the order binds (R35). -/
theorem State.beginSwitch_eq {new : Option MuId} (tag : Byte)
    (h : (t = .none ∧ new = none) ∨ (t = .talk ∧ new = none) ∨ (t = .mu ∧ ∃ u, new = some u ∧ s.ChosenUnit u)) :
    s.beginSwitch b tag t = (s.updUnit new (boundUnit s.now b)).updBus b
      (switchingRecord (s.now + 10 * s.config.switch) tag t new) := by
  have hnew : s.newUnit t = new := by
    rcases h with ⟨rfl, rfl⟩ | ⟨rfl, rfl⟩ | ⟨rfl, u, rfl, hu⟩
    · rfl
    · rfl
    · exact State.freeUnit?_iff.2 hu
  rw [State.beginSwitch, hnew, ms_eq]
  rcases h with ⟨-, rfl⟩ | ⟨-, rfl⟩ | ⟨-, u, rfl, hu⟩
  · rfl
  · rfl
  · rw [State.bindMu, State.updMu_congr s u _ _ (bindUnit_eq s.now b hu.state)]
    rfl

end

/-- An accepted TERMINATE (R35): the state with the relays switching, and a scan where a unit was freed. -/
theorem State.switchTermination_eq {s : State} {b : BusId} {t : Termination} {new : Option MuId} (tag : Byte)
    (hunit : ∀ u, (s.bus b).boundMu = some u → (s.mu u).state = .attached)
    (h : (t = .none ∧ new = none) ∨ (t = .talk ∧ new = none)
      ∨ (t = .mu ∧ ∃ u, new = some u
        ∧ (s.updUnit (s.bus b).boundMu (freedUnit s.now s.config.standby)).ChosenUnit u)) :
    s.switchTermination b tag t =
      if (s.bus b).boundMu.isSome then
        State.scanThenTrigger (((s.updUnit (s.bus b).boundMu (freedUnit s.now s.config.standby)).updUnit new
          (boundUnit s.now b)).updBus b (switchingRecord (s.now + 10 * s.config.switch) tag t new))
      else ((s.updUnit (s.bus b).boundMu (freedUnit s.now s.config.standby)).updUnit new
          (boundUnit s.now b)).updBus b (switchingRecord (s.now + 10 * s.config.switch) tag t new) := by
  simp only [State.switchTermination, State.unbindAny_eq hunit, State.beginSwitch_eq tag h, State.updUnit_now,
    State.updUnit_config]

/-- The unit a TERMINATE's binding chooses is chosen after its REPLY too. -/
theorem State.ChosenUnit.congr {s t : State} {u : MuId} (h : s.ChosenUnit u) (hmu : t.mu = s.mu) : t.ChosenUnit u := by
  simpa only [State.ChosenUnit, hmu] using h

/-- Settles O28: an accepted TERMINATE by `State.terminateCheck_eq` and `State.switchTermination_eq`, its refusals by the
checks in their order. -/
theorem terminateSwitchesTheBus : Obligations.TerminateSwitchesTheBus := by
  refine ⟨?_, ?_⟩
  · rintro d tag b t _ new s hs hold hstate hpending rfl hunit freed hnew switched
    have hcheck : s.terminateCheck d b t = none := by
      simp only [State.terminateCheck_eq hstate hpending hunit, quarantined_any_iff, talkPair_any_iff]
      rcases hnew with ⟨rfl, -⟩ | ⟨rfl, -, hq, htalk⟩ | ⟨rfl, u, -, hu⟩
      · rfl
      · have hq' : ¬ ∃ l, (s.bus b).line = some l ∧ (s.line l).quarantined = true := fun ⟨l, hl, hql⟩ => by
          simp [hq l hl] at hql
        have htalk' : ¬ ∃ x, x ≠ b ∧ (s.bus x).holder = some (.desk d) ∧ (s.bus x).talkPair = true :=
          fun ⟨x, hx, hxd, hxt⟩ => by simp [htalk x hx hxd] at hxt
        rw [if_neg (fun h => hq' h.2), if_neg (fun h => htalk' h.2)]
        rfl
      · rw [if_neg nofun, if_neg nofun]
        refine if_neg fun ⟨_, hnone, hfree⟩ => ?_
        have hbound : (s.bus b).boundMu = none := Option.isNone_iff_eq_none.1 hnone
        have hchosen : s.ChosenUnit u := hu.congr (by simp only [freed, hbound]; rfl)
        rw [State.freeUnit?_iff.2 hchosen] at hfree
        cases hfree
    have horder : terminateOrder ⟨.desk d, tag, OrderKind.terminate.code⟩ b.val (termCode t) s
        = if (s.bus b).boundMu.isSome then switched.scanThenTrigger else switched := by
      rw [terminateOrder_accepted rfl hold (termOfCode_termCode t) hcheck, hs.reply_eq]
      refine State.switchTermination_eq tag hunit (hnew.imp_right (Or.imp (fun h => ⟨h.1, h.2.1⟩) ?_))
      rintro ⟨ht, u, hu, hchosen⟩
      exact ⟨ht, u, hu, hchosen.congr
        (State.mu_updUnit_congr (s := s) (t := s.answered (.desk d) tag .terminate .accepted .none) rfl _ _)⟩
    rw [exec_terminate_of_hears hs, horder]
    refine ⟨fun hquiet => ?_, fun hsome w e hw he => ?_⟩
    · have hnot : (if (s.bus b).boundMu.isSome then switched.scanThenTrigger else switched) = switched := by
        rcases hquiet with hnone | hun
        · simp [hnone]
        · have hun' : switched.Unclaimed :=
            ⟨by simpa [switched, State.answered, State.updUnit_waitQueue] using hun.noWaits,
              by simpa [switched, State.answered, State.updUnit_sweep] using hun.sweepOff⟩
          rw [hun'.tells.eq, ite_self]
      rw [hnot]
      exact congrArg _ (hs.finish_of_store (by simp [switched, State.answered]) (by simp [switched, State.answered]))
    · rw [if_pos (Option.isSome_iff_ne_none.2 hsome), hw.eq, he.finish_eq]
  · intro d tag n code s hs refused
    have hrefused : ∀ {code r}, terminateOrder ⟨.desk d, tag, OrderKind.terminate.code⟩ n code s
        = s.reply ⟨.desk d, tag, OrderKind.terminate.code⟩ r → refused code r := fun h => by
      show exec _ s = _
      rw [exec_terminate_of_hears hs, h, hs.finish_reply]
    have hcode : ∀ {code}, code ≤ 2 → ∃ t, termOfCode code = some t := fun {code} h => by
      interval_cases code <;> exact ⟨_, rfl⟩
    refine ⟨fun hn => hrefused ?_, fun b hb => ⟨fun hc => hrefused ?_, fun hc => ⟨fun hnot => hrefused ?_, fun hold =>
      ⟨fun hbad => ?_, fun hbad => ?_, fun hstate hpending hunit => ⟨fun hq => ?_, fun hq htalk => ?_,
        fun hnone hfree => ?_⟩⟩⟩⟩⟩
    · have hbus : busOf? n = none := finOf?_eq_none.2 hn
      simp [terminateOrder, hbus]
    · have hbus : busOf? n = some b := finOf?_eq_some.2 hb.symm
      have hterm : termOfCode code = none := by
        match code, hc with
        | k + 3, _ => rfl
      simp [terminateOrder, hbus, hterm]
    · have hbus : busOf? n = some b := finOf?_eq_some.2 hb.symm
      obtain ⟨t, ht⟩ := hcode hc
      simp [terminateOrder, hbus, ht, heldBy, hnot]
    · obtain ⟨t, ht⟩ := hcode hc
      exact hrefused (terminateOrder_refused hb hold ht (State.terminateCheck_badState hbad))
    · obtain ⟨t, ht⟩ := hcode hc
      exact hrefused (terminateOrder_refused hb hold ht (State.terminateCheck_badUnit hbad))
    · refine hrefused (terminateOrder_refused (t := .talk) hb hold rfl ?_)
      simp only [State.terminateCheck_eq hstate hpending hunit, quarantined_any_iff]
      exact if_pos ⟨trivial, hq⟩
    · refine hrefused (terminateOrder_refused (t := .talk) hb hold rfl ?_)
      have hq' : ¬ ∃ l, (s.bus b).line = some l ∧ (s.line l).quarantined = true := fun ⟨l, hl, hql⟩ => by
        simp [hq l hl] at hql
      simp only [State.terminateCheck_eq hstate hpending hunit, quarantined_any_iff, talkPair_any_iff]
      rw [if_neg fun h => hq' h.2]
      exact if_pos ⟨trivial, htalk⟩
    · refine hrefused (terminateOrder_refused (t := .mu) hb hold rfl ?_)
      have hunit? : s.freeUnit? = none := Option.eq_none_iff_forall_ne_some.2 fun u hu =>
        (State.freeUnit?_iff.1 hu).state.elim (hfree u).1 (hfree u).2
      rw [State.terminateCheck_eq hstate hpending hunit, if_neg nofun, if_neg nofun, hnone, hunit?]
      rfl

/-! ## RELEASE (R42) -/

theorem exec_release_of_hears {s : State} {d : DeskId} (hs : s.Hears (.desk d)) (tag : Byte) (n : Nat) :
    exec (.release (.desk d) tag n) s = .next (releaseOrder ⟨.desk d, tag, OrderKind.release.code⟩ n s).finish :=
  hs.exec_of_arrival (handle := fun c => releaseOrder c n) nofun rfl rfl

/-- A RELEASE that is taken marks the bus with its tag and decides its release (R42). -/
theorem releaseOrder_decides {s : State} {d : DeskId} (hs : s.Hears (.desk d)) (tag : Byte) {b : BusId}
    (hold : (s.bus b).holder = some (.desk d)) (hpending : (s.bus b).releasePending = none)
    (hstate : (s.bus b).state = .operating ∨ (s.bus b).state = .switching ∨ (s.bus b).state = .held) :
    releaseOrder ⟨.desk d, tag, OrderKind.release.code⟩ b.val s
      = ((s.answered (.desk d) tag .release .accepted .none).updBus b fun r =>
          { r with releaseTag := some tag }).releaseDecision b .holder := by
  have hnot : releaseDecided (s.bus b) = false := by
    rcases hstate with h | h | h <;> simp [releaseDecided, hpending, h]
  rw [releaseOrder, State.onHeldBus_of_holds rfl hold]
  simp only [hnot, hs.reply_eq]
  rfl

theorem State.Unclaimed.congr {s t : State} (h : s.Unclaimed) (hw : t.waitQueue = s.waitQueue)
    (hx : t.sweep = s.sweep) : t.Unclaimed := ⟨hw ▸ h.noWaits, hx ▸ h.sweepOff⟩

@[simp] theorem State.givenBack_store (s : State) (b : BusId) (c : Cause) : (s.givenBack b c).store = s.store := by
  simp [State.givenBack]

@[simp] theorem State.givenBack_lapseInHand (s : State) (b : BusId) (c : Cause) :
    (s.givenBack b c).lapseInHand = s.lapseInHand := by
  simp [State.givenBack]

/-- A HELD bus given back at once is a release decision taken to its end (R38, R40). -/
theorem State.GivesBack.releases {s : State} {b : BusId} (h : s.GivesBack b) (hstate : (s.bus b).state = .held)
    (c : Cause) : s.Releases b c (s.givenBack b c) := by
  rcases h with hnone | ⟨hun, u, hu, hm⟩
  · exact .unitless hstate hnone
  · refine .unbinds u _ hstate hu hm (State.Unclaimed.tells (hun.congr ?_ ?_))
    · simp [State.givenBack, State.updUnit_waitQueue]
    · simp [State.givenBack, State.updUnit_sweep]

/-- What a release decision reads of the units and of those that wait, a REPLY and the bus's release tag leave alone. -/
theorem State.GivesBack.congr {s t : State} {b : BusId} (h : s.GivesBack b)
    (hbound : (t.bus b).boundMu = (s.bus b).boundMu) (hmu : t.mu = s.mu) (hw : t.waitQueue = s.waitQueue)
    (hx : t.sweep = s.sweep) : t.GivesBack b := by
  rcases h with hnone | ⟨hun, u, hu, hm⟩
  · exact .inl (hbound.trans hnone)
  · exact .inr ⟨hun.congr hw hx, u, hbound.trans hu, by rwa [hmu]⟩

/-- A report to a holder and a change of a bus record do not meet. -/
theorem State.tellHolder_updBus (s : State) (b : BusId) (f : BusRec → BusRec) (src : Source) (tag : Option Byte)
    (body : Port → ReportBody) : (s.updBus b f).tellHolder src tag body = (s.tellHolder src tag body).updBus b f := by
  unfold State.tellHolder
  cases src.port? <;> rfl

/-- A programme's end and a change of a bus record do not meet. -/
theorem State.ended_updBus (s : State) (b : BusId) (f : BusRec → BusRec) (u : MuId) (c : Context) (e : EndCause) :
    (s.updBus b f).ended u c e = (s.ended u c e).updBus b f :=
  State.tellHolder_updBus (s.updMu u (unitAtEnd s.now s.config.discharge c)) b f c.holder c.tag.order? fun p =>
    .programmeEnd c.programme c.bus (s.lineFor p c.line) e (worstVerdict (resultsAtEnd c))
      ((resultsAtEnd c).countP fun r : StepResult => r.status == .done)
      ((resultsAtEnd c).countP fun r : StepResult => r.status != .done)

@[simp] theorem State.tellHolder_store (s : State) (src : Source) (tag : Option Byte) (body : Port → ReportBody) :
    (s.tellHolder src tag body).store = s.store := by
  unfold State.tellHolder
  cases src.port? <;> rfl

@[simp] theorem State.tellHolder_lapseInHand (s : State) (src : Source) (tag : Option Byte) (body : Port → ReportBody) :
    (s.tellHolder src tag body).lapseInHand = s.lapseInHand := by
  unfold State.tellHolder
  cases src.port? <;> rfl

@[simp] theorem State.ended_store (s : State) (u : MuId) (c : Context) (e : EndCause) :
    (s.ended u c e).store = s.store := by
  simp [State.ended]

@[simp] theorem State.ended_lapseInHand (s : State) (u : MuId) (c : Context) (e : EndCause) :
    (s.ended u c e).lapseInHand = s.lapseInHand := by
  simp [State.ended]

/-- Settles O29: each clause names the case of the release decision on the bus with its release tag
(`releaseOrder_decides`), which `State.Releases.eq` takes. -/
theorem releaseTakesTheDecision : Obligations.ReleaseTakesTheDecision := by
  intro d tag n s hs
  refine ⟨fun code hcode => ?_, ?_⟩
  · rw [exec_release_of_hears hs, releaseOrder, hcode.onHeldBus, hs.finish_reply]
  rintro b rfl hold tagged
  have hbus : tagged.bus b = { s.bus b with releaseTag := some tag } := State.bus_updBus_self _ _ _
  have hdecides := fun hpending hstate => releaseOrder_decides hs tag (b := b) hold hpending hstate
  have hfinish : ∀ t : State, t.store = s.store → t.lapseInHand = s.lapseInHand → t.finish = t :=
    fun t => hs.finish_of_store
  refine ⟨fun hdecided => ?_, fun hpending => ⟨fun hmoving => ?_, fun hheld => ?_⟩⟩
  · have hyes : releaseDecided (s.bus b) = true := by
      rcases hdecided with h | h | h <;> simp [releaseDecided, h, Option.isSome_iff_ne_none]
    rw [exec_release_of_hears hs, releaseOrder, State.onHeldBus_of_holds rfl hold]
    simp only [hyes]
    exact congrArg _ (hs.finish_reply _ _ _ _)
  · have hrel : tagged.Releases b .holder (tagged.updBus b (pendingRecord .holder)) :=
      .pending (by simpa [hbus] using hmoving) (by simpa [hbus] using hpending)
    rw [exec_release_of_hears hs, hdecides hpending (hmoving.imp_right Or.inl), hrel.eq,
      hfinish _ (by simp [tagged, State.answered]) (by simp [tagged, State.answered])]
  · have hheld' : (tagged.bus b).state = .held := by simpa [hbus] using hheld
    have hrelease := hdecides hpending (.inr (.inr hheld))
    refine ⟨fun hgives => ?_, fun t e ht he => ?_, fun u hu => ⟨fun hdischarging => ?_,
      fun c hm hc hticket hsrc happlied => ?_⟩⟩
    · have hgives' : tagged.GivesBack b := hgives.congr (by rw [hbus]) rfl rfl rfl
      rw [exec_release_of_hears hs, hrelease, (hgives'.releases hheld' .holder).eq,
        hfinish _ (by simp [tagged, State.answered]) (by simp [tagged, State.answered])]
    · rw [exec_release_of_hears hs, hrelease, ht.eq, he.finish_eq]
    · have hrel : tagged.Releases b .holder (tagged.updBus b (drainingRecord .holder)) :=
        .drains u hheld' (by simpa [hbus] using hu) hdischarging
      rw [exec_release_of_hears hs, hrelease, hrel.eq,
        hfinish _ (by simp [tagged, State.answered]) (by simp [tagged, State.answered])]
    · have hroom : (tagged.updBus b (decidedRecord .holder)).HolderRoom c.holder := by
        rintro p hp
        obtain rfl : Port.desk d = p := by simpa [hsrc, Source.port?] using hp
        show 1 ≤ (s.answered (.desk d) tag .release .accepted .none).freeEntries (.desk d)
        rw [State.freeEntries_answered, if_pos rfl]
        have := hs.room
        omega
      have hends : (tagged.updBus b (decidedRecord .holder)).ProgrammeEnds u c .aborted
          ((tagged.updBus b (decidedRecord .holder)).ended u c .aborted) :=
        ⟨_, .inl ⟨by rw [hsrc]; nofun, hroom, rfl⟩, .inl ⟨hticket, rfl⟩⟩
      have hrel := State.Releases.endsDraining (c := .holder) u c .aborted _ hheld' (by simpa [hbus] using hu) hm hc rfl
        happlied hends
      rw [exec_release_of_hears hs, hrelease, hrel.eq, State.ended_updBus, State.updBus_updBus]
      exact congrArg _ (hfinish _ (by simp [tagged, State.answered]) (by simp [tagged, State.answered]))

/-! ## RUN (R73, R74, R83) -/

/-- A programme started on the unit of a bus that a source holds with its line (R73). -/
theorem State.startProgramme_eq {s : State} {b : BusId} {u : MuId} {p : ProgId} {src : Source} {l : LineId}
    {tag : HolderTag} {ticket : Bool} (hold : (s.bus b).holder = some src) (hline : (s.bus b).line = some l) :
    s.startProgramme b u p tag ticket = s.started b u (startContext s b l p src tag ticket) := by
  simp only [State.startProgramme, hold, hline, State.beginStep, State.beginPhase, State.updMu_updMu]
  rfl

theorem exec_run_of_hears {s : State} {d : DeskId} (hs : s.Hears (.desk d)) (tag : Byte) (n k : Nat)
    (flag : Option Nat) : exec (.run (.desk d) tag n k flag) s
      = .next (runOrder ⟨.desk d, tag, OrderKind.run.code⟩ n k flag s).finish :=
  hs.exec_of_arrival (handle := fun c => runOrder c n k flag) nofun rfl rfl

theorem runTicketing_eq (flag : Option Nat) : runTicketing flag = (flag != some 0) := by
  cases flag with
  | none => rfl
  | some n => simp [runTicketing, bne]

/-- Settles O30: the numbers first, then the checks of `runOn` in their order, then the start
(`State.startProgramme_eq`). -/
theorem runStartsTheProgramme : Obligations.RunStartsTheProgramme := by
  intro d tag n k flag s hs refused
  have hrefused : ∀ {r}, runOrder ⟨.desk d, tag, OrderKind.run.code⟩ n k flag s
      = s.reply ⟨.desk d, tag, OrderKind.run.code⟩ r → refused r := fun h => by
    show exec _ s = _
    rw [exec_run_of_hears hs, h, hs.finish_reply]
  refine ⟨fun hn => hrefused ?_, fun hn hk => hrefused ?_, fun hk code hcode => hrefused ?_, ?_⟩
  · have hbus : busOf? n = none := finOf?_eq_none.2 hn
    simp [runOrder, State.onHeldBus, hbus]
  · have hbus : busOf? n = some ⟨n, by omega⟩ := finOf?_eq_some.2 rfl
    have hprog : progOf? k = none := finOf?_eq_none.2 hk
    simp [runOrder, hbus, hprog]
  · have hprog : progOf? k = some ⟨k, by omega⟩ := finOf?_eq_some.2 rfl
    unfold runOrder
    rw [hprog]
    split
    · next h => cases h
    · exact hcode.onHeldBus
    · exact hcode.onHeldBus
  · rintro b p rfl rfl hold
    have hrun : runOrder ⟨.desk d, tag, OrderKind.run.code⟩ b.val p.val flag s
        = runOn ⟨.desk d, tag, OrderKind.run.code⟩ b p (runTicketing flag) s := by
      simp only [runOrder, busOf?, progOf?, finOf?_val]
      exact State.onHeldBus_of_holds rfl hold
    refine ⟨fun hbad => hrefused (hrun.trans (if_pos ?_)), fun u l hheld hpending hterm hu hline => ?_⟩
    · simpa [Option.isSome_iff_ne_none] using hbad
    have hon : runOn ⟨.desk d, tag, OrderKind.run.code⟩ b p (runTicketing flag) s
        = if (s.mu u).state ≠ .attached then s.reply ⟨.desk d, tag, OrderKind.run.code⟩ .badState
          else if s.programmeEmpty p then s.reply ⟨.desk d, tag, OrderKind.run.code⟩ .noProgramme
          else (s.reply ⟨.desk d, tag, OrderKind.run.code⟩ .accepted).startProgramme b u p (.order tag)
            (runTicketing flag) := by
      simp [runOn, hheld, hpending, hterm, hu]
    refine ⟨fun hnot => hrefused ?_, fun hattached => ⟨fun hempty => hrefused ?_, fun hsome => ?_⟩⟩
    · rw [hrun, hon, if_pos hnot]
    · rw [hrun, hon, if_neg (not_not.2 hattached), if_pos (by simpa [State.programmeEmpty] using hempty)]
    · rw [exec_run_of_hears hs, hrun, hon, if_neg (not_not.2 hattached),
        if_neg (by simpa [State.programmeEmpty] using hsome), hs.reply_eq,
        State.startProgramme_eq (s := s.answered (.desk d) tag .run .accepted .none) hold hline, runTicketing_eq]
      exact congrArg _ (hs.finish_of_store rfl rfl)

/-! ## ABORT (R84, R85) -/

theorem exec_abort_of_hears {s : State} {d : DeskId} (hs : s.Hears (.desk d)) (tag : Byte) (n : Nat) :
    exec (.abort (.desk d) tag n) s = .next (abortOrder ⟨.desk d, tag, OrderKind.abort.code⟩ n s).finish :=
  hs.exec_of_arrival (handle := fun c => abortOrder c n) nofun rfl rfl

/-- The end of a desk's programme leaves its bus as it is (R43). -/
theorem State.programmeEnds_desk {s t : State} {u : MuId} {c : Context} {e : EndCause} {d : DeskId}
    (hc : (s.mu u).context = some c) (hsrc : c.holder = .desk d) (ht : s.ProgrammeEnds u c e t) :
    s.programmeEnds u e = t := by
  simp [State.programmeEnds, hc, hsrc, Source.automated, ht.eq hc]

/-- Settles O31: the order comes down to `State.programmeEnds`, and the programme's end is given or, unticketed, is
`State.ended`. -/
theorem abortEndsTheProgramme : Obligations.AbortEndsTheProgramme := by
  intro d tag n s hs
  refine ⟨fun code hcode => ?_, ?_⟩
  · rw [exec_abort_of_hears hs, abortOrder, hcode.onHeldBus, hs.finish_reply]
  rintro b rfl hold
  refine ⟨fun hnot => ?_, fun u c hu hm hc hsrc => ?_⟩
  · have horder : abortOrder ⟨.desk d, tag, OrderKind.abort.code⟩ b.val s
        = s.reply ⟨.desk d, tag, OrderKind.abort.code⟩ .badState := by
      rw [abortOrder, State.onHeldBus_of_holds rfl hold]
      cases hbound : (s.bus b).boundMu with
      | none => rfl
      | some u => simp [hnot u hbound]
    rw [exec_abort_of_hears hs, horder, hs.finish_reply]
  · have hends : ∀ t, (s.answered (.desk d) tag .abort .accepted .none).ProgrammeEnds u c .aborted t →
        exec (.abort (.desk d) tag b.val) s = .next t.finish := fun t ht => by
      rw [exec_abort_of_hears hs, abortOrder, State.onHeldBus_of_holds rfl hold]
      have hprog := State.programmeEnds_desk (s := s.answered (.desk d) tag .abort .accepted .none) hc hsrc ht
      simp only [hu, hm, hs.reply_eq]
      exact congrArg (fun x => Host.Outcome.next (State.finish x)) hprog
    refine ⟨fun hticket => ?_, fun t e ht he => ?_⟩
    · have hroom : (s.answered (.desk d) tag .abort .accepted .none).HolderRoom c.holder := by
        rintro p hp
        obtain rfl : Port.desk d = p := by simpa [hsrc, Source.port?] using hp
        rw [State.freeEntries_answered, if_pos rfl]
        have := hs.room
        omega
      rw [hends _ ⟨_, .inl ⟨by rw [hsrc]; nofun, hroom, rfl⟩, .inl ⟨hticket, rfl⟩⟩]
      exact congrArg _ (hs.finish_of_store (by simp [State.answered]) (by simp [State.answered]))
    · rw [hends t ht, he.finish_eq]

/-! ## KEEP (R62) -/

/-- Settles O32, by the checks of `keepOrder` in their order. -/
theorem keepDeniesTheIntrusion : Obligations.KeepDeniesTheIntrusion := by
  intro d tag n s hs refused
  have hrefused : ∀ {r}, keepOrder ⟨.desk d, tag, OrderKind.keep.code⟩ n s
      = s.reply ⟨.desk d, tag, OrderKind.keep.code⟩ r → refused r := fun h => by
    show exec _ s = _
    rw [exec_keep_of_hears hs, h, hs.finish_reply]
  refine ⟨fun code hcode => hrefused hcode.onHeldBus, fun b hb hold => ⟨fun howed => hrefused ?_, fun howed =>
    ⟨fun hint => hrefused ?_, fun due l hpending hline => ⟨fun hprot => hrefused ?_, fun t hfree htag hx => ?_⟩⟩⟩⟩
  · rw [keepOrder, State.onHeldBus_of_holds hb hold]
    exact if_pos (Option.isSome_iff_ne_none.2 howed)
  · rw [keepOrder, State.onHeldBus_of_holds hb hold]
    rcases hint with h | h <;> simp [howed, h]
  · rw [keepOrder, State.onHeldBus_of_holds hb hold]
    simp [howed, hpending, hline, State.classOf, hprot]
  · have hroom : ((s.answered (.desk d) tag .keep .accepted .none).updBus b fun r =>
        { r with intrusion := .kept, intrudeTag := none }).freeEntries .x ≠ 0 := by
      have hfree : (s.answered (.desk d) tag .keep .accepted .none).freeEntries .x = s.freeEntries .x := by
        rw [State.freeEntries_answered, if_neg nofun]
      exact hfree ▸ Nat.pos_iff_ne_zero.1 hx
    rw [exec_keep_of_hears hs, keepOrder_denies hs tag hb hold howed hpending hline hfree, htag,
      State.pushKept_of_room hroom]
    exact congrArg _ (hs.finish_of_store rfl rfl)

end Sys2Proof.Machine
end

section
/-!
PROOFS. Relay completions and the intrusion grace: OPERATE_COMPLETION and SWITCH_COMPLETION (O33), RELEASE_COMPLETION
(O34), GRACE_EXPIRY (O35).
-/

namespace Sys2Proof.Machine

/-! ## Reports and bus changes -/

/-- A report to a holder changes the ports' records alone. -/
theorem State.tellHolder_ports (s : State) (src : Source) (tag : Option Byte) (body : Port → ReportBody) :
    ∃ ps, s.tellHolder src tag body = { s with ports := ps } := by
  unfold State.tellHolder
  cases src.port? with
  | none => exact ⟨_, rfl⟩
  | some p => exact ⟨_, rfl⟩

@[simp] theorem State.tellHolder_bus (s : State) (src : Source) (tag : Option Byte) (body : Port → ReportBody) :
    (s.tellHolder src tag body).bus = s.bus := by
  obtain ⟨ps, h⟩ := s.tellHolder_ports src tag body
  rw [h]
  rfl

@[simp] theorem State.tellHolder_mu (s : State) (src : Source) (tag : Option Byte) (body : Port → ReportBody) :
    (s.tellHolder src tag body).mu = s.mu := by
  obtain ⟨ps, h⟩ := s.tellHolder_ports src tag body
  rw [h]
  rfl

@[simp] theorem State.tellHolder_now (s : State) (src : Source) (tag : Option Byte) (body : Port → ReportBody) :
    (s.tellHolder src tag body).now = s.now := by
  obtain ⟨ps, h⟩ := s.tellHolder_ports src tag body
  rw [h]

@[simp] theorem State.tellHolder_config (s : State) (src : Source) (tag : Option Byte) (body : Port → ReportBody) :
    (s.tellHolder src tag body).config = s.config := by
  obtain ⟨ps, h⟩ := s.tellHolder_ports src tag body
  rw [h]

@[simp] theorem State.tellHolder_waitQueue (s : State) (src : Source) (tag : Option Byte) (body : Port → ReportBody) :
    (s.tellHolder src tag body).waitQueue = s.waitQueue := by
  obtain ⟨ps, h⟩ := s.tellHolder_ports src tag body
  rw [h]

@[simp] theorem State.tellHolder_sweep (s : State) (src : Source) (tag : Option Byte) (body : Port → ReportBody) :
    (s.tellHolder src tag body).sweep = s.sweep := by
  obtain ⟨ps, h⟩ := s.tellHolder_ports src tag body
  rw [h]

@[simp] theorem State.bus_updUnit (s : State) (u : Option MuId) (f : MuRec → MuRec) : (s.updUnit u f).bus = s.bus := by
  cases u <;> rfl

/-- A settled state stays settled when one bus changes and does not become FREE. -/
theorem State.Settled.of_bus {s t : State} (h : s.Settled) (b : BusId) (hlapse : t.lapseInHand = s.lapseInHand)
    (hstore : t.store = s.store) (hb : (t.bus b).state ≠ .free) (hothers : ∀ c, c ≠ b → t.bus c = s.bus c) :
    t.Settled :=
  h.congr hlapse hstore fun c hc => by
    by_cases hcb : c = b
    · exact absurd (hcb ▸ hc) hb
    · rwa [← hothers c hcb]

theorem State.bus_givenBack (s : State) (b : BusId) (c : Cause) :
    (s.givenBack b c).bus b = releasingRecord (s.now + 10 * s.config.release) c (s.bus b) := by
  simp [State.givenBack]

theorem State.bus_givenBack_ne (s : State) {b c : BusId} (cause : Cause) (h : c ≠ b) :
    (s.givenBack b cause).bus c = s.bus c := by
  rw [State.givenBack, State.bus_updBus_ne _ _ h.symm, State.bus_updUnit]

/-- A bus given back leaves a settled state settled. -/
theorem State.Settled.givenBack {s t : State} (h : s.Settled) (b : BusId) (c : Cause)
    (hlapse : t.lapseInHand = s.lapseInHand) (hstore : t.store = s.store) (hothers : ∀ x, x ≠ b → t.bus x = s.bus x) :
    (t.givenBack b c).Settled :=
  h.of_bus b (by simpa using hlapse) (by simpa using hstore) (by simp [State.bus_givenBack, releasingRecord])
    fun x hx => (t.bus_givenBack_ne c hx).trans (hothers x hx)

/-- A bus that comes to be HELD leaves a settled state settled. -/
theorem State.Settled.held {s t : State} (h : s.Settled) (b : BusId) (hlapse : t.lapseInHand = s.lapseInHand)
    (hstore : t.store = s.store) (hothers : ∀ x, x ≠ b → t.bus x = s.bus x) :
    (t.updBus b fun r => { r with state := .held }).Settled :=
  h.of_bus b hlapse hstore (by rw [State.bus_updBus_self]; nofun) fun x hx =>
    (State.bus_updBus_ne _ _ hx.symm).trans (hothers x hx)

/-! ## A bus whose relays have come to rest (R26, R36) -/

theorem State.startGrantProgramme_of_not_held {s : State} {b : BusId} (h : (s.bus b).state ≠ .held) :
    s.startGrantProgramme b = s := by
  simp only [State.startGrantProgramme]
  split
  · exact absurd ‹_› h
  · rfl

/-- No programme starts where none was granted, or where its unit is not ATTACHED (R26, R73). -/
theorem State.startGrantProgramme_idle {s : State} {b : BusId}
    (h : (s.bus b).grantProgramme = none ∨ ∀ u, (s.bus b).boundMu = some u → (s.mu u).state ≠ .attached) :
    s.startGrantProgramme b = s := by
  simp only [State.startGrantProgramme]
  split
  next u p tag _ hu hp _ =>
    rcases h with hnone | hnot
    · exact absurd (hnone.symm.trans hp) nofun
    · exact if_neg (hnot u hu)
  · rfl

theorem State.startGrantProgramme_starts {s : State} {b : BusId} {u : MuId} {p : ProgId} {tag : HolderTag}
    (hstate : (s.bus b).state = .held) (hu : (s.bus b).boundMu = some u) (hp : (s.bus b).grantProgramme = some p)
    (htag : (s.bus b).holderTag = some tag) (hm : (s.mu u).state = .attached) :
    s.startGrantProgramme b = s.startProgramme b u p tag true := by
  simp [State.startGrantProgramme, hstate, hu, hp, htag, hm]

theorem State.settleBus_held {s : State} {b : BusId} (h : (s.bus b).releasePending = none) :
    s.settleBus b = s.updBus b fun r => { r with state := .held } := by
  simp [State.settleBus, h]

theorem State.settleBus_releases {s : State} {b : BusId} {c : Cause} (h : (s.bus b).releasePending = some c) :
    s.settleBus b = s.releaseHeld b c := by
  simp [State.settleBus, h]

/-- A unit unbound at a release is followed by a scan and the notice to RSS, which leave the bus RELEASING (R40). -/
theorem State.settleBus_unbinds {s t : State} {b : BusId} {c : Cause} {u : MuId}
    (hc : (s.bus b).releasePending = some c) (hu : (s.bus b).boundMu = some u)
    (hm : (s.mu u).state = .attached ∨ (s.mu u).state = .warming) (ht : (s.givenBack b c).ScansAndTells t) :
    s.settleBus b = t ∧ (t.bus b).state = .releasing := by
  have hstate : ((s.givenBack b c).bus b).state = .releasing := by rw [State.bus_givenBack]; rfl
  refine ⟨by rw [State.settleBus_releases hc, State.releaseHeld_gives hu hm, ht.eq], ?_⟩
  rw [← ht.eq, (State.scanThenTrigger_spares _).bus b (by simp [hstate]), hstate]

/-! ## OPERATE_COMPLETION (R26) -/

/-- The state in which BUS_GRANTED has been told: the bus's relays at rest, the report at the holder's port. -/
theorem State.operateCompletion_eq {s : State} {b : BusId} {l : LineId} {due : Nat} {src : Source} {tag : HolderTag}
    (hstate : (s.bus b).state = .operating) (hdue : (s.bus b).relayDue = some due) (hline : (s.bus b).line = some l)
    (hold : (s.bus b).holder = some src) (htag : (s.bus b).holderTag = some tag) (hroom : s.HolderRoom src) :
    s.operateCompletion b
      = (((State.updBus { s with now := max s.now due } b fun r => { r with relayDue := none }).tellHolder src tag.order?
          fun p => .busGranted b (s.lineFor p l) (s.bus b).termination (s.bus b).boundMu).settleBus
            b).startGrantProgramme b := by
  simp only [State.operateCompletion, hstate, hdue, hline, State.reportGranted, hold, htag]
  rw [State.toHolder_eq (s := (s.reach due).updBus b fun x => { x with relayDue := none }) hroom]
  rfl

/-- A context at its start reads neither the ports nor the bus. -/
theorem startContext_told (s : State) (x : BusId) (f : BusRec → BusRec) (rep : Source) (rtag : Option Byte)
    (body : Port → ReportBody) (b : BusId) (l : LineId) (p : ProgId) (src : Source) (tag : HolderTag) (ticket : Bool) :
    startContext ((s.updBus x f).tellHolder rep rtag body) b l p src tag ticket
      = startContext s b l p src tag ticket := by
  obtain ⟨ps, h⟩ := (s.updBus x f).tellHolder_ports rep rtag body
  rw [h]
  rfl

/-! ## SWITCH_COMPLETION (R36) -/

theorem State.updBus_same {s : State} {b : BusId} {f : BusRec → BusRec} (h : f (s.bus b) = s.bus b) :
    s.updBus b f = s := by
  have hset : s.buses.set b (f (s.bus b)) = s.buses := by
    rw [h, State.bus, Tab.set_get]
  rw [State.updBus, hset]

theorem State.switchCompletion_eq {s : State} {b : BusId} {l : LineId} {due : Nat} {d : DeskId}
    (hstate : (s.bus b).state = .switching) (hdue : (s.bus b).relayDue = some due) (hline : (s.bus b).line = some l)
    (hold : (s.bus b).holder = some (.desk d)) (hroom : s.Room (.desk d) 1) :
    s.switchCompletion b
      = (((State.enqueue { s with now := max s.now due } (.desk d) (s.bus b).terminateTag
          (.terminationDone b (s.lineFor (.desk d) l) (s.bus b).termination (s.bus b).boundMu)).updBus b
            fun x => { x with relayDue := none, terminateTag := none }).freeTalkPair b).settleBus b := by
  have hfree : (s.reach due).freeEntries (.desk d) ≠ 0 := by
    have : 1 ≤ s.freeEntries (.desk d) := hroom
    exact Nat.pos_iff_ne_zero.1 this
  simp only [State.switchCompletion, hstate, hdue, hline, State.reportTermination, hold, Option.bind_some,
    Source.port?, State.pushKept_of_room hfree]
  rfl

/-- A talk pair left behind is no longer held, and a scan follows; another stays as it is (R36). -/
theorem State.freeTalkPair_leaves {s w : State} {b : BusId}
    (h : (s.bus b).talkPair = true ∧ (s.bus b).termination ≠ .talk)
    (hw : (s.updBus b fun r => { r with talkPair := r.talkPair && r.termination == .talk }).Scans w) :
    s.freeTalkPair b = w := by
  have hrec : (s.updBus b fun r => { r with talkPair := r.talkPair && r.termination == .talk })
      = s.updBus b fun r => { r with talkPair := false } := by
    refine State.updBus_congr _ _ _ _ ?_
    simp [h.2]
  rw [State.freeTalkPair, if_pos h, ← hw.scan_eq, hrec]

theorem State.freeTalkPair_stays {s : State} {b : BusId}
    (h : ¬ ((s.bus b).talkPair = true ∧ (s.bus b).termination ≠ .talk)) :
    s.freeTalkPair b = s.updBus b fun r => { r with talkPair := r.talkPair && r.termination == .talk } := by
  have hrec : ((s.bus b).talkPair && (s.bus b).termination == .talk) = (s.bus b).talkPair := by
    cases hp : (s.bus b).talkPair with
    | false => rfl
    | true => simpa [hp] using h
  rw [State.freeTalkPair, if_neg h]
  refine (State.updBus_same ?_).symm
  rw [hrec]

/-- Settles O33: the report is told (`State.operateCompletion_eq`, `State.switchCompletion_eq`), a talk pair left behind
goes, and the bus is HELD or given back (`State.settleBus`). -/
theorem relayCompletionsHoldTheBus : Obligations.RelayCompletionsHoldTheBus := by
  refine ⟨fun b s hs => ?_, fun b s hs => ?_⟩
  · refine ⟨fun hnot => ?_, ?_⟩
    · have hsame : s.operateCompletion b = s := by
        simp only [State.operateCompletion]
        split
        · exact absurd ‹_› hnot
        · rfl
      exact congrArg _ ((congrArg State.finish hsame).trans hs.finish_eq)
    intro l due src tag hstate hdue hline hold htag hroom at_ told held
    have hbus : told.bus b = { s.bus b with relayDue := none } := by
      rw [State.tellHolder_bus, State.bus_updBus_self]
      rfl
    have hothers : ∀ x, x ≠ b → told.bus x = s.bus x := fun x hx => by
      rw [State.tellHolder_bus, State.bus_updBus_ne _ _ hx.symm]
      rfl
    have hmu : told.mu = s.mu := State.tellHolder_mu _ _ _ _
    have hheld : held.bus b = { s.bus b with relayDue := none, state := .held } := by
      rw [State.bus_updBus_self, hbus]
    have hexec : exec (.operateCompletion b) s = .next ((told.settleBus b).startGrantProgramme b).finish :=
      congrArg (fun t => Host.Outcome.next (State.finish t))
        (State.operateCompletion_eq hstate hdue hline hold htag hroom)
    refine ⟨fun hpending => ?_, fun c hpending => ⟨fun hgives => ?_, fun u t e hu hm ht he => ?_⟩⟩
    · have hsettle : told.settleBus b = held := State.settleBus_held (by rw [hbus]; exact hpending)
      rw [hexec, hsettle]
      refine ⟨fun hidle => ?_, fun u p hu hm hp => ?_⟩
      · have hsettled : held.Settled := hs.held b (by simp [told, at_]) (by simp [told, at_]) hothers
        rw [State.startGrantProgramme_idle (by rwa [hheld, show held.mu = s.mu from hmu]), hsettled.finish_eq]
      · have hcontext : startContext held b l p src tag true = startContext at_ b l p src tag true :=
          startContext_told at_ b _ src tag.order? _ b l p src tag true
        have hstart : held.startGrantProgramme b = held.started b u (startContext at_ b l p src tag true) := by
          rw [State.startGrantProgramme_starts (s := held) (by rw [hheld]) (by rw [hheld]; exact hu) (by rw [hheld]; exact hp)
            (by rw [hheld]; exact htag) ((congrArg MuRec.state (congrFun hmu u)).trans hm),
            State.startProgramme_eq (s := held) (by rw [hheld]; exact hold) (by rw [hheld]; exact hline), hcontext]
        have hsettled : (held.started b u (startContext at_ b l p src tag true)).Settled :=
          hs.of_bus b (by simp [State.started, held, told, at_]) (by simp [State.started, held, told, at_])
            (by simp [State.started, hheld]) fun x hx => by
              show (held.updBus b fun r => { r with grantProgramme := none }).bus x = _
              rw [State.bus_updBus_ne _ _ hx.symm, State.bus_updBus_ne _ _ hx.symm, hothers x hx]
        rw [hstart, hsettled.finish_eq]
    · have hgives' : told.GivesBack b := hgives.congr (by rw [hbus]) hmu (by simp [told, at_]) (by simp [told, at_])
      have hsettle : told.settleBus b = told.givenBack b c := by
        rw [State.settleBus_releases (by rw [hbus]; exact hpending), hgives'.eq]
      have hidle : (told.givenBack b c).startGrantProgramme b = told.givenBack b c :=
        State.startGrantProgramme_of_not_held (by simp [State.bus_givenBack, releasingRecord])
      rw [hexec, hsettle, hidle, (hs.givenBack b c (by simp [told, at_]) (by simp [told, at_]) hothers).finish_eq]
    · obtain ⟨hsettle, hreleasing⟩ := State.settleBus_unbinds (s := told) (by rw [hbus]; exact hpending)
        (by rw [hbus]; exact hu) (by rwa [hmu]) ht
      rw [hexec, hsettle, State.startGrantProgramme_of_not_held (by simp [hreleasing]), he.finish_eq]
  · refine ⟨fun hnot => ?_, ?_⟩
    · have hsame : s.switchCompletion b = s := by
        simp only [State.switchCompletion]
        split
        · exact absurd ‹_› hnot
        · rfl
      exact congrArg _ ((congrArg State.finish hsame).trans hs.finish_eq)
    intro l due d hstate hdue hline hold hroom leaves told
    have hbus : told.bus b = { s.bus b with
        relayDue := none, terminateTag := none
        talkPair := (s.bus b).talkPair && (s.bus b).termination == .talk } := by
      rw [State.enqueue_bus, State.bus_updBus_self]
      rfl
    have hothers : ∀ x, x ≠ b → told.bus x = s.bus x := fun x hx => by
      rw [State.enqueue_bus, State.bus_updBus_ne _ _ hx.symm]
      rfl
    have hexec : ∀ w, (leaves ∧ told.Scans w) ∨ (¬ leaves ∧ w = told) →
        exec (.switchCompletion b) s = .next (w.settleBus b).finish := fun w hw => by
      have hpair : ((State.enqueue { s with now := max s.now due } (.desk d) (s.bus b).terminateTag
          (.terminationDone b (s.lineFor (.desk d) l) (s.bus b).termination (s.bus b).boundMu)).updBus b
            fun x => { x with relayDue := none, terminateTag := none }).freeTalkPair b = w := by
        rcases hw with ⟨hleaves, hscan⟩ | ⟨hstays, rfl⟩
        · refine State.freeTalkPair_leaves ?_ ?_
          · rw [State.bus_updBus_self]
            exact hleaves
          · rw [State.updBus_updBus]
            exact hscan
        · rw [State.freeTalkPair_stays, State.updBus_updBus]
          · rfl
          · rw [State.bus_updBus_self]
            exact hstays
      refine congrArg (fun t => Host.Outcome.next (State.finish t)) ?_
      rw [State.switchCompletion_eq hstate hdue hline hold hroom, hpair]
    have hspares : ∀ w, (leaves ∧ told.Scans w) ∨ (¬ leaves ∧ w = told) → Spares told w := by
      rintro w (⟨-, hscan⟩ | ⟨-, rfl⟩)
      · exact hscan.scan_eq ▸ told.scan_spares
      · exact .refl _
    have hwbus : ∀ w, (leaves ∧ told.Scans w) ∨ (¬ leaves ∧ w = told) → w.bus b = told.bus b := fun w hw =>
      (hspares w hw).bus b (by rw [hbus]; simp [hstate])
    refine ⟨fun hempty => ?_, fun w hw => ⟨fun e hpending he => ?_, fun c e hpending hnone he => ?_,
      fun c u t e hpending hu hm ht he => ?_⟩⟩
    · have hw : (leaves ∧ told.Scans told) ∨ (¬ leaves ∧ told = told) := by
        by_cases hleaves : leaves
        · exact .inl ⟨hleaves, State.Scans.of_empty (hempty hleaves)⟩
        · exact .inr ⟨hleaves, rfl⟩
      refine ⟨fun hpending => ?_, fun c hpending hgives => ?_⟩
      · rw [hexec told hw, State.settleBus_held (by rw [hbus]; exact hpending),
          (hs.held (t := told) b rfl rfl hothers).finish_eq]
      · have hgives' : told.GivesBack b := hgives.congr (by rw [hbus]) rfl rfl rfl
        rw [hexec told hw, State.settleBus_releases (by rw [hbus]; exact hpending), hgives'.eq,
          (hs.givenBack (t := told) b c rfl rfl hothers).finish_eq]
    · rw [hexec w hw, State.settleBus_held (by rw [hwbus w hw, hbus]; exact hpending), he.finish_eq]
    · rw [hexec w hw, State.settleBus_releases (by rw [hwbus w hw, hbus]; exact hpending),
        State.releaseHeld_unitless (by rw [hwbus w hw, hbus]; exact hnone), he.finish_eq]
    · have htoldmu : told.mu = s.mu := rfl
      have hkept : (w.mu u).state = (s.mu u).state := by
        refine congrArg MuRec.state ((hspares w hw).mu u ?_ ?_)
        · rw [htoldmu]
          rcases hm with h | h <;> simp [h]
        · rw [htoldmu]
          rcases hm with h | h <;> simp [h]
      rw [hexec w hw, (State.settleBus_unbinds (by rw [hwbus w hw, hbus]; exact hpending)
        (by rw [hwbus w hw, hbus]; exact hu) (by rwa [hkept]) ht).1, he.finish_eq]

/-! ## RELEASE_COMPLETION (R41, R66) -/

theorem Source.port?_ne_x {src : Source} {p : Port} (h : src.port? = some p) : p ≠ .x := by
  cases src <;> simp [Source.port?] at h <;> simp [← h]

/-- The answer owed to X, put with room for it (R66). -/
theorem State.settleIntrusion_of_room {s : State} {r : BusRec} (h : 1 ≤ s.freeEntries .x) :
    s.settleIntrusion r = match r.owed with
      | none => s
      | some .granted => s.enqueue .x r.intrudeTag (.intrudeAnswer .granted)
      | some .withdrawn => s.enqueue .x r.intrudeTag (.intrudeAnswer .withdrawn) := by
  have hfree : s.freeEntries .x ≠ 0 := Nat.pos_iff_ne_zero.1 h
  unfold State.settleIntrusion
  cases r.owed with
  | none => rfl
  | some o => cases o <;> simp [State.pushKept_of_room hfree, Owed.answer]

/-- The answer owed changes the queue of X alone (R66). -/
theorem State.settleIntrusion_ports {s : State} {r : BusRec} (h : 1 ≤ s.freeEntries .x) :
    ∃ ps, s.settleIntrusion r = { s with ports := ps }
      ∧ ∀ p, p ≠ .x → (s.settleIntrusion r).freeEntries p = s.freeEntries p := by
  rw [State.settleIntrusion_of_room h]
  cases r.owed with
  | none => exact ⟨_, rfl, fun _ _ => rfl⟩
  | some o =>
    cases o with
    | granted => exact ⟨_, rfl, fun p hp => (State.freeEntries_enqueue _ _ _ _ _).trans (if_neg hp.symm)⟩
    | withdrawn => exact ⟨_, rfl, fun p hp => (State.freeEntries_enqueue _ _ _ _ _).trans (if_neg hp.symm)⟩

/-- A bus freed: what it held told off, a scan and the notice to RSS (R41, R31, R154). -/
theorem State.releaseCompletion_eq {s : State} {b : BusId} {l : LineId} {due : Nat}
    (hstate : (s.bus b).state = .releasing) (hdue : (s.bus b).relayDue = some due) (hline : (s.bus b).line = some l)
    (hroom : s.Room .x 2) :
    s.releaseCompletion b
      = ((((((State.updLine { s with now := max s.now due } l offBus).enqueue .x none (.unblock l b)).settleIntrusion
          (s.bus b)).reportReleased b (s.bus b) l).updBus b fun _ => {}).scanThenTrigger) := by
  have hfree : ((s.reach due).updLine l offBus).freeEntries .x ≠ 0 := by
    have : 2 ≤ s.freeEntries .x := hroom
    exact Nat.pos_iff_ne_zero.1 (Nat.le_of_succ_le this)
  simp only [State.releaseCompletion, hstate, hdue, hline, State.pushKept_of_room hfree]
  rfl

/-- BUS_RELEASED to a holder with a port, or none (R41). -/
theorem State.reportReleased_told {s : State} {b : BusId} {r : BusRec} {l : LineId} {src : Source} {tag : HolderTag}
    (hold : r.holder = some src) (htag : r.holderTag = some tag) (hsrc : src ≠ .rs) (hroom : s.HolderRoom src) :
    s.reportReleased b r l = s.tellHolder src (r.releaseTag.or tag.order?) fun p =>
      .busReleased r.releasePending b (s.lineFor p l) := by
  have hnot : r.holder ≠ some .rs := fun h => hsrc (Option.some.inj (hold.symm.trans h))
  rw [State.reportReleased, if_neg hnot, hold]
  cases hrel : r.releaseTag with
  | none => simpa [releasedTag, hrel, htag] using State.toHolder_eq (tag := tag) hroom
  | some t => simpa [releasedTag, hrel, HolderTag.order?] using State.toHolder_eq (tag := .order t) hroom

/-- For RS its record goes instead, and the pass ends when it closes and no other test runs (R157, R156). -/
theorem State.reportReleased_rs {s : State} {b : BusId} {r : BusRec} {l : LineId} (hold : r.holder = some .rs) :
    s.reportReleased b r l
      = if s.sweep.closing = true ∧ (s.rsTests.filter fun t => t.bus != b) = []
        then State.passEnded { s with rsTests := s.rsTests.filter fun t => t.bus != b }
        else { s with rsTests := s.rsTests.filter fun t => t.bus != b } := by
  rw [State.reportReleased, if_pos hold]
  rfl

/-- Settles O34: the five steps of `State.releaseCompletion` (R41) by the holder, then the scan, which with no request
waiting and the sweep disabled grants nothing. -/
theorem releaseCompletionFreesTheBus : Obligations.ReleaseCompletionFreesTheBus := by
  intro b s hs
  refine ⟨fun hnot => ?_, ?_⟩
  · have hsame : s.releaseCompletion b = s := by
      simp only [State.releaseCompletion]
      split
      · exact absurd ‹_› hnot
      · rfl
    exact congrArg _ ((congrArg State.finish hsame).trans hs.finish_eq)
  intro l due src tag hstate hdue hline hold htag hx hholder unblocked answered told left gone closed
  have hx1 : 1 ≤ unblocked.freeEntries .x := by
    have : 2 ≤ s.freeEntries .x := hx
    show 1 ≤ (State.enqueue _ .x none _).freeEntries .x
    rw [State.freeEntries_enqueue, if_pos rfl]
    exact Nat.le_sub_of_add_le this
  have hanswered : unblocked.settleIntrusion (s.bus b) = answered := by
    refine (State.settleIntrusion_of_room hx1).trans ?_
    cases howed : (s.bus b).owed with
    | none => simp only [answered, howed]
    | some o => cases o <;> simp only [answered, howed]
  obtain ⟨ps, hports, hroom⟩ := State.settleIntrusion_ports (r := s.bus b) hx1
  rw [hanswered] at hports hroom
  have hansroom : answered.HolderRoom src := fun p hp => by
    have hne := Source.port?_ne_x hp
    rw [hroom p hne]
    show 1 ≤ (State.enqueue _ .x none _).freeEntries p
    rw [State.freeEntries_enqueue, if_neg hne.symm]
    exact hholder p hp
  have hexec : exec (.releaseCompletion b) s
      = .next ((answered.reportReleased b (s.bus b) l).updBus b fun _ => {}).scanThenTrigger.finish := by
    rw [← hanswered]
    exact congrArg (fun t => Host.Outcome.next (State.finish t))
      (State.releaseCompletion_eq hstate hdue hline hx)
  have htold : src ≠ .rs → answered.reportReleased b (s.bus b) l = told := fun hsrc => by
    rw [State.reportReleased_told hold htag hsrc hansroom]
    have hline : ∀ p, answered.lineFor p l = s.lineFor p l := fun p => by
      rw [hports]
      rfl
    simp only [told, hline]
  have hclosed : src = .rs → answered.reportReleased b (s.bus b) l = closed := fun hsrc => by
    have hsweep : answered.sweep = s.sweep := by rw [hports]; rfl
    have htests : answered.rsTests = s.rsTests := by rw [hports]; rfl
    rw [State.reportReleased_rs (hsrc ▸ hold)]
    simp only [closed, gone, left, hsweep, htests]
  refine ⟨fun hrun hun => ⟨fun hsrc => ?_, fun hsrc hopen => ?_⟩, fun t e he => ⟨fun hsrc ht => ?_, fun hsrc ht => ?_⟩⟩
  · have hun' : (told.updBus b fun _ => {}).Unclaimed :=
      hun.congr (by simp [told, hports, unblocked]) (by simp [told, hports, unblocked])
    have hsettled : (told.updBus b fun _ => {}).Settled :=
      hs.of_running hrun (by simp [told, hports, unblocked]) (by simp [told, hports, unblocked])
    rw [hexec, htold hsrc, hun'.tells.eq, hsettled.finish_eq]
  · have hgone : closed = gone := if_neg fun h => by simp [hopen] at h
    have hun' : (gone.updBus b fun _ => {}).Unclaimed :=
      hun.congr (by simp [gone, hports, unblocked]) (by simp [gone, hports, unblocked])
    have hsettled : (gone.updBus b fun _ => {}).Settled :=
      hs.of_running hrun (by simp [gone, hports, unblocked]) (by simp [gone, hports, unblocked])
    rw [hexec, hclosed hsrc, hgone, hun'.tells.eq, hsettled.finish_eq]
  · rw [hexec, htold hsrc, ht.eq, he.finish_eq]
  · rw [hexec, hclosed hsrc, ht.eq, he.finish_eq]

/-! ## GRACE_EXPIRY (R64) -/

theorem pendingRecord_state (c : Cause) (r : BusRec) : (pendingRecord c r).state = r.state := by
  simp only [pendingRecord, intrusionOwed]
  split <;> rfl

/-- Settles O35: the release decision INTRUDED at the deadline, taken by `State.Releases.eq`. -/
theorem graceExpiryReleasesTheBus : Obligations.GraceExpiryReleasesTheBus := by
  intro b s hs
  refine ⟨fun hnot => ?_, fun due hpending => ?_⟩
  · have hsame : s.graceExpiry b = s := by
      simp only [State.graceExpiry]
      split
      · exact absurd ‹_› (hnot _)
      · rfl
      · rfl
    exact congrArg _ ((congrArg State.finish hsame).trans hs.finish_eq)
  intro at_
  have hexec : ∀ t, at_.Releases b .intruded t → exec (.graceExpiry b) s = .next t.finish := fun t ht => by
    refine congrArg (fun t => Host.Outcome.next (State.finish t)) ?_
    simp only [State.graceExpiry, hpending]
    exact ht.eq
  refine ⟨fun hfresh => ⟨fun hmoving => ?_, fun hheld hgives => ?_⟩, fun t e ht he => ?_⟩
  · have hsettled : (at_.updBus b (pendingRecord .intruded)).Settled :=
      hs.of_bus b rfl rfl
        (by
          rw [State.bus_updBus_self, pendingRecord_state]
          show (s.bus b).state ≠ .free
          rcases hmoving with h | h <;> simp [h])
        fun x hx => State.bus_updBus_ne at_ _ hx.symm
    rw [hexec _ (.pending hmoving hfresh), hsettled.finish_eq]
  · have hgives' : at_.GivesBack b := hgives.congr rfl rfl rfl rfl
    rw [hexec _ (hgives'.releases hheld .intruded), (hs.givenBack (t := at_) b .intruded rfl rfl fun _ _ => rfl).finish_eq]
  · rw [hexec t ht, he.finish_eq]

end Sys2Proof.Machine
end

section
/-!
PROOFS. The exchange link: LINE_STATE (O36), LINE_STATE_IDLE_RANGE (O37), INTRUDE (O38), INTRUDE_CANCEL (O39), SUPERVISE
and the restoration of supervision (O40), the supervision timer's expiry (O41).
-/

namespace Sys2Proof.Machine

/-! ## Orders of X -/

/-- An order of X, heard while SUPERVISED, restarts the timer and is handled (R48). -/
theorem State.HearsX.exec_heard {s : State} (hs : s.HearsX) {k : OrderKind} (hk : orderPermits k .x = true)
    {i : Instr} {tag : Byte} {handle : OrderCtx → State → State}
    (hi : exec i s = .next (s.arrival .x tag k handle).finish) :
    exec i s = .next
      (handle ⟨.x, tag, k.code⟩ { s with supTimer := some (s.now + 10000 * s.config.interval) }).finish := by
  rw [hs.exec_of_arrival hk hi, State.startSupervisionTimer_eq]

theorem State.HearsX.heard {s : State} (hs : s.HearsX) :
    State.Hears { s with supTimer := some (s.now + 10000 * s.config.interval) } .x :=
  s.startSupervisionTimer_eq ▸ hs.hears.timer

/-- After a REPLY to a port its queue still has room for one report. -/
theorem State.Hears.free_answered {s : State} {p : Port} (hs : s.Hears p) (tag : Byte) (k : OrderKind) (r : ReplyCode)
    (data : ReplyData) : 1 ≤ (s.answered p tag k r data).freeEntries p := by
  have := hs.room
  rw [State.freeEntries_answered, if_pos rfl]
  omega

/-! ## LINE_STATE (R53, R2, R3) -/

theorem callStateOfCode_eq {code : Nat} {st : CallState}
    (h : code = 0 ∧ st = .idle ∨ code = 1 ∧ st = .busy ∨ code = 2 ∧ st = .ringing) :
    callStateOfCode code = some st := by
  rcases h with ⟨rfl, rfl⟩ | ⟨rfl, rfl⟩ | ⟨rfl, rfl⟩ <;> rfl

theorem callStateOfCode_above : ∀ {code : Nat}, 2 < code → callStateOfCode code = none
  | _ + 3, _ => rfl

section
variable {s : State} {l : LineId} {st : CallState}

theorem State.reportCall_same (h : (s.line l).callState = st) :
    s.reportCall l st = s.updLine l fun r => { r with callState := st } := by
  simp [State.reportCall, h]

theorem State.reportCall_idle (h : (s.line l).callState ≠ .idle) :
    s.reportCall l .idle = (s.updLine l fun r => { r with callState := .idle }).scan := by
  simp [State.reportCall, h]

/-- A change to BUSY or RINGING takes no release decision where no automated bus has the line. -/
theorem State.reportCall_untaken (hst : st = .busy ∨ st = .ringing) (h : (s.line l).callState ≠ st)
    (hbus : s.automatedBusOn l = none) : s.reportCall l st = s.updLine l fun r => { r with callState := st } := by
  rcases hst with rfl | rfl <;> simp [State.reportCall, h, hbus]

/-- A change to BUSY or RINGING takes a release decision on an automated bus (R3). -/
theorem State.reportCall_taken (hst : st = .busy ∨ st = .ringing) (h : (s.line l).callState ≠ st) {b : BusId}
    (hbus : s.automatedBusOn l = some b) :
    s.reportCall l st = (s.updLine l fun r => { r with callState := st }).releaseDecision b .lineBusy := by
  rcases hst with rfl | rfl <;> simp [State.reportCall, h, hbus]

theorem State.automatedBusOn_offBus (h : (s.line l).onBus = none) : s.automatedBusOn l = none := by
  simp [State.automatedBusOn, h]

theorem State.automatedBusOn_desk {b : BusId} {d : DeskId} (h : (s.line l).onBus = some b)
    (hold : (s.bus b).holder = some (.desk d)) : s.automatedBusOn l = none := by
  simp [State.automatedBusOn, h, hold, Source.automated]

theorem State.automatedBusOn_automated {b : BusId} (h : (s.line l).onBus = some b)
    (hold : (s.bus b).holder = some .mc ∨ (s.bus b).holder = some .rs) : s.automatedBusOn l = some b := by
  rcases hold with hold | hold <;> simp [State.automatedBusOn, h, hold, Source.automated]

end

/-- Settles O36: the order comes down to `State.reportCall`, whose cases are the call state unchanged, IDLE, and BUSY or
RINGING on no bus, a desk's, or an automated one. -/
theorem lineStateWritesTheCallState : Obligations.LineStateWritesTheCallState := by
  intro tag n code s hs heard
  have hheard : heard.Hears .x := hs.heard
  have hexec : exec (.lineState .x tag n code) s
      = .next (lineStateOrder ⟨.x, tag, OrderKind.lineState.code⟩ n code heard).finish :=
    hs.exec_heard (handle := fun c => lineStateOrder c n code) rfl rfl
  refine ⟨fun hbad => ?_, fun l st hl hst => ?_⟩
  · have horder : lineStateOrder ⟨.x, tag, OrderKind.lineState.code⟩ n code heard
        = heard.reply ⟨.x, tag, OrderKind.lineState.code⟩ .badParameter := by
      unfold lineStateOrder
      rcases hbad with hn | hcode
      · rw [lineOf?_above hn]
      · rw [callStateOfCode_above hcode]
        cases lineOf? n <;> rfl
    rw [hexec, horder, hheard.finish_reply]
  intro written gives
  have hgives : ∀ t, (heard.answered .x tag .lineState .accepted .none).reportCall l st = t → gives t.finish := by
    rintro t rfl
    have hline : lineOf? n = some l := finOf?_eq_some.2 hl.symm
    show exec _ s = _
    rw [hexec, lineStateOrder, hline, callStateOfCode_eq hst]
    simp only [hheard.reply_eq]
  have hquiet : ∀ t : State, t.store = s.store → t.lapseInHand = s.lapseInHand → t.finish = t := fun t =>
    hs.hears.finish_of_store
  have hwritten : written.finish = written := hquiet _ rfl rfl
  have hsame : (s.line l).callState = st → gives written := fun h =>
    hwritten ▸ hgives written (State.reportCall_same h)
  refine ⟨hsame, fun hidle hempty => ?_, fun hidle hchange t e ht he => ?_, fun htaken =>
    ⟨fun hoff => ?_, fun b hon hchange => ⟨fun d hold => ?_, fun hold => ?_⟩⟩⟩
  · by_cases h : (s.line l).callState = st
    · exact hsame h
    · subst hidle
      exact hwritten ▸ hgives written
        ((State.reportCall_idle (s := heard.answered .x tag .lineState .accepted .none) h).trans
          (State.Scans.of_empty (s := written) hempty).scan_eq)
  · subst hidle
    exact he.finish_eq ▸ hgives t
      ((State.reportCall_idle (s := heard.answered .x tag .lineState .accepted .none) hchange).trans ht.scan_eq)
  · by_cases h : (s.line l).callState = st
    · exact hsame h
    · exact hwritten ▸ hgives written (State.reportCall_untaken htaken h (State.automatedBusOn_offBus hoff))
  · exact hwritten ▸ hgives written
      (State.reportCall_untaken htaken hchange (State.automatedBusOn_desk (b := b) hon hold))
  · have hreleases : ∀ t, written.Releases b .lineBusy t → gives t.finish := fun t ht =>
      hgives t ((State.reportCall_taken (s := heard.answered .x tag .lineState .accepted .none) htaken hchange
        (State.automatedBusOn_automated (b := b) hon hold)).trans ht.eq)
    refine ⟨fun t e ht he => he.finish_eq ▸ hreleases t ht, fun hleaving => ?_, fun hmoving =>
      ⟨fun hdecided => ?_, fun hfresh => ?_⟩, fun hheld hback => ?_⟩
    · exact hwritten ▸ hreleases written (.ignored (.inr hleaving))
    · exact hwritten ▸ hreleases written (.decided hmoving hdecided)
    · exact (hquiet (written.updBus b (pendingRecord .lineBusy)) rfl rfl) ▸ hreleases _ (.pending hmoving hfresh)
    · have hback' : written.GivesBack b := hback.congr rfl rfl rfl rfl
      have hquiet' : (written.givenBack b .lineBusy).finish = written.givenBack b .lineBusy :=
        hquiet _ (State.givenBack_store _ _ _) (State.givenBack_lapseInHand _ _ _)
      exact hquiet' ▸ hreleases _ (hback'.releases hheld .lineBusy)

/-! ## LINE_STATE_IDLE_RANGE (R54) -/

theorem idleRangeChanges_iff {first last : Nat} {l : LineId} {r : LineRec} :
    idleRangeChanges first last l r = true ↔ first ≤ l.val ∧ l.val ≤ last ∧ r.callState = .unknown := by
  simp [idleRangeChanges, and_assoc]

/-- The lines after an idle range (R54). -/
def idledLines (first last : Nat) (ls : Tab LineRec 2048) : Tab LineRec 2048 :=
  ls.mapIdx fun l r => if idleRangeChanges first last l r then { r with callState := .idle } else r

theorem get_idledLines (first last : Nat) (s : State) (l : LineId) : (idledLines first last s.lines).get l
    = if first ≤ l.val ∧ l.val ≤ last ∧ (s.line l).callState = .unknown then { s.line l with callState := .idle }
      else s.line l := by
  rw [idledLines, Tab.get_mapIdx]
  exact if_congr idleRangeChanges_iff rfl rfl

theorem idleRange_any_iff {first last : Nat} {s : State} :
    (s.lines.indexed.any fun x => idleRangeChanges first last x.1 x.2) = true
      ↔ ∃ l : LineId, first ≤ l.val ∧ l.val ≤ last ∧ (s.line l).callState = .unknown := by
  rw [List.any_eq_true]
  constructor
  · rintro ⟨⟨l, r⟩, hmem, hr⟩
    obtain rfl := (Tab.mem_indexed s.lines l r).1 hmem
    exact ⟨l, idleRangeChanges_iff.1 hr⟩
  · rintro ⟨l, hl⟩
    exact ⟨(l, s.lines.get l), (Tab.mem_indexed s.lines l _).2 rfl, idleRangeChanges_iff.2 hl⟩

/-- Settles O37: the lines are `idledLines`, and the scan runs exactly when one of them changed. -/
theorem idleRangeTouchesUnknownLinesOnly : Obligations.IdleRangeTouchesUnknownLinesOnly := by
  intro tag first last s hs heard
  have hheard : heard.Hears .x := hs.heard
  have hexec : exec (.lineStateIdleRange .x tag first last) s
      = .next (lineStateIdleRangeOrder ⟨.x, tag, OrderKind.lineStateIdleRange.code⟩ first last heard).finish :=
    hs.exec_heard (handle := fun c => lineStateIdleRangeOrder c first last) rfl rfl
  refine ⟨fun hbad => ?_, fun hlast hfirst => ⟨idledLines first last s.lines, get_idledLines first last s, ?_⟩⟩
  · rw [hexec, lineStateIdleRangeOrder, if_pos hbad, hheard.finish_reply]
  intro written
  have horder : lineStateIdleRangeOrder ⟨.x, tag, OrderKind.lineStateIdleRange.code⟩ first last heard
      = if (s.lines.indexed.any fun x => idleRangeChanges first last x.1 x.2) = true then written.scan else written := by
    rw [lineStateIdleRangeOrder, if_neg (by omega)]
    simp only [hheard.reply_eq]
    rfl
  refine ⟨fun hnone => ?_, fun l t e hl₁ hl₂ hunknown ht he => ?_⟩
  · have hquiet : written.finish = written := hs.hears.finish_of_store rfl rfl
    rw [hexec, horder]
    split
    next hany =>
      rcases hnone with hempty | hknown
      · rw [(State.Scans.of_empty (s := written) hempty).scan_eq, hquiet]
      · obtain ⟨l, hl₁, hl₂, hl₃⟩ := idleRange_any_iff.1 hany
        exact absurd hl₃ (hknown l hl₁ hl₂)
    · rw [hquiet]
  · rw [hexec, horder, if_pos (idleRange_any_iff.2 ⟨l, hl₁, hl₂, hunknown⟩), ht.scan_eq, he.finish_eq]

/-! ## INTRUDE (R59 to R61) -/

section
variable {s : State} {c : OrderCtx} {n : Nat} {l : LineId} {b : BusId}

theorem intrudeOrder_offBus (hl : l.val = n) (h : (s.line l).onBus = none) :
    intrudeOrder c n s = (s.reply c .accepted).pushKept .x (some c.tag) (.intrudeAnswer .granted) := by
  have hline : lineOf? n = some l := finOf?_eq_some.2 hl.symm
  simp [intrudeOrder, hline, h]

theorem intrudeOrder_decided (hl : l.val = n) (h : (s.line l).onBus = some b)
    (hd : releaseDecided (s.bus b) = true) : intrudeOrder c n s = intrudeDecided c b s := by
  have hline : lineOf? n = some l := finOf?_eq_some.2 hl.symm
  simp [intrudeOrder, hline, h, hd]

theorem intrudeOrder_automated (hl : l.val = n) (h : (s.line l).onBus = some b)
    (hd : releaseDecided (s.bus b) = false) (hold : (s.bus b).holder = some .mc ∨ (s.bus b).holder = some .rs) :
    intrudeOrder c n s = ((s.reply c .accepted).oweGranted b c.tag).releaseDecision b .intruded := by
  have hline : lineOf? n = some l := finOf?_eq_some.2 hl.symm
  rcases hold with hold | hold <;> simp [intrudeOrder, hline, h, hd, hold]

theorem intrudeOrder_desk {d : DeskId} (hl : l.val = n) (h : (s.line l).onBus = some b)
    (hd : releaseDecided (s.bus b) = false) (hold : (s.bus b).holder = some (.desk d)) :
    intrudeOrder c n s = intrudeDesk c b d l s := by
  have hline : lineOf? n = some l := finOf?_eq_some.2 hl.symm
  simp [intrudeOrder, hline, h, hd, hold]

theorem releaseDecided_iff {r : BusRec} :
    releaseDecided r = true ↔ r.releasePending ≠ none ∨ r.state = .draining ∨ r.state = .releasing := by
  simp [releaseDecided, Option.isSome_iff_ne_none, or_assoc]

end

/-- With no intrusion, a release decision on a moving bus records its cause alone (R37, R63). -/
theorem pendingRecord_of_none {c : Cause} {r : BusRec} (h : r.intrusion = .none) :
    pendingRecord c r = { r with releasePending := some c } := by
  simp [pendingRecord, intrusionOwed, h]

/-- Settles O38: the cases of `intrudeOrder` in the order of R59, an automated holder's release by `State.Releases.eq`. -/
theorem intrudeTakesTheFirstCase : Obligations.IntrudeTakesTheFirstCase := by
  intro tag n s hs heard refused gives ok
  have hheard : heard.Hears .x := hs.heard
  have hexec : exec (.intrude .x tag n) s = .next (intrudeOrder ⟨.x, tag, OrderKind.intrude.code⟩ n heard).finish :=
    hs.exec_heard (handle := fun c => intrudeOrder c n) rfl rfl
  have hreply : ∀ r, heard.reply ⟨.x, tag, OrderKind.intrude.code⟩ r = heard.answered .x tag .intrude r .none :=
    fun r => hheard.reply_eq tag .intrude r .none
  have hquiet : ∀ t : State, t.store = s.store → t.lapseInHand = s.lapseInHand → t.finish = t := fun t =>
    hs.hears.finish_of_store
  have hrefused : ∀ r, intrudeOrder ⟨.x, tag, OrderKind.intrude.code⟩ n heard
      = heard.reply ⟨.x, tag, OrderKind.intrude.code⟩ r → refused r := fun r h => by
    show exec _ s = _
    rw [hexec, h, hheard.finish_reply]
  have hgives : ∀ t : State, intrudeOrder ⟨.x, tag, OrderKind.intrude.code⟩ n heard = t → t.store = s.store →
      t.lapseInHand = s.lapseInHand → gives t := fun t h hstore hlapse => by
    show exec _ s = _
    rw [hexec, h, hquiet t hstore hlapse]
  have hfree : ok.freeEntries .x ≠ 0 := Nat.pos_iff_ne_zero.1 (hheard.free_answered tag .intrude .accepted .none)
  refine ⟨fun hn => hrefused _ ?_, fun l hl => ⟨fun hoff => hgives _ ?_ rfl rfl, fun b hon => ?_⟩⟩
  · rw [intrudeOrder, lineOf?_above hn]
  · rw [intrudeOrder_offBus hl (s := heard) hoff, hreply, State.pushKept_of_room hfree]
  intro owing
  refine ⟨fun hdecided => ?_, fun hfresh => ⟨fun hold => ?_, fun d hold hnd hnr hroom => ?_⟩⟩
  · have horder : intrudeOrder ⟨.x, tag, OrderKind.intrude.code⟩ n heard
        = intrudeDecided ⟨.x, tag, OrderKind.intrude.code⟩ b heard :=
      intrudeOrder_decided hl hon (releaseDecided_iff.2 hdecided)
    have howed : ∀ o, (s.bus b).owed = o → (heard.bus b).owed = o := fun _ h => h
    refine ⟨fun h => hgives _ ?_ rfl rfl, fun h => hrefused _ ?_, fun h => hgives _ ?_ rfl rfl⟩
    · rw [horder, intrudeDecided]
      simp only [howed _ h, hreply]
      rfl
    · rw [horder, intrudeDecided]
      simp only [howed _ h]
    · rw [horder, intrudeDecided]
      simp only [howed _ h, hreply]
      rw [State.pushKept_of_room hfree]
      rfl
  · have hreleases : (s.bus b).state ≠ .draining → (s.bus b).state ≠ .releasing →
        ∀ t, (owing ok).Releases b .intruded t → intrudeOrder ⟨.x, tag, OrderKind.intrude.code⟩ n heard = t :=
      fun hnd hnr t ht => by
        have hnot : releaseDecided (heard.bus b) = false := by
          rw [Bool.eq_false_iff, Ne, releaseDecided_iff]
          exact fun h => h.elim (fun h => h hfresh) fun h => h.elim hnd hnr
        rw [intrudeOrder_automated hl (s := heard) hon hnot hold, hreply]
        exact ht.eq
    have hbus : (owing ok).bus b = { s.bus b with owed := some .granted, intrudeTag := some tag } :=
      State.bus_updBus_self ok b _
    refine ⟨fun hnone => ⟨fun hmoving => ?_, fun hheld hback => ?_⟩, fun hnd hnr t e ht he => ?_⟩
    · have hpending : (owing ok).updBus b (pendingRecord .intruded)
          = (owing ok).updBus b fun r => { r with releasePending := some .intruded } :=
        State.updBus_congr _ _ _ _ (pendingRecord_of_none (by rw [hbus]; exact hnone))
      refine hgives _ ?_ rfl rfl
      rw [← hpending]
      exact hreleases (by rcases hmoving with h | h <;> simp [h]) (by rcases hmoving with h | h <;> simp [h]) _
        (.pending (by rw [hbus]; exact hmoving) (by rw [hbus]; exact hfresh))
    · have hback' : (owing ok).GivesBack b := hback.congr (by rw [hbus]) rfl rfl rfl
      exact hgives _ (hreleases (by simp [hheld]) (by simp [hheld]) _
        (hback'.releases (by rw [hbus]; exact hheld) .intruded)) (State.givenBack_store _ _ _)
        (State.givenBack_lapseInHand _ _ _)
    · show exec _ s = _
      rw [hexec, hreleases hnd hnr t ht, he.finish_eq]
  · have horder : intrudeOrder ⟨.x, tag, OrderKind.intrude.code⟩ n heard
        = intrudeDesk ⟨.x, tag, OrderKind.intrude.code⟩ b d l heard := by
      refine intrudeOrder_desk hl hon ?_ hold
      rw [Bool.eq_false_iff, Ne, releaseDecided_iff]
      exact fun h => h.elim (fun h => h hfresh) fun h => h.elim hnd hnr
    have hintrusion : ∀ i, (s.bus b).intrusion = i → (heard.bus b).intrusion = i := fun _ h => h
    have hdesk : 8 ≤ ok.freeEntries (.desk d) := by
      rw [State.freeEntries_answered, if_neg nofun]
      exact hroom
    refine ⟨fun hnone => hgives _ ?_ rfl rfl, fun due hpending => hrefused _ ?_, fun hkept => hgives _ ?_ rfl rfl⟩
    · rw [horder, intrudeDesk]
      simp only [hintrusion _ hnone, hreply, seconds, Nat.mul_comm _ 10000]
      rw [State.pushNotice_of_room]
      · rfl
      · exact hdesk
    · rw [horder, intrudeDesk]
      simp only [hintrusion _ hpending]
    · rw [horder, intrudeDesk]
      simp only [hintrusion _ hkept, hreply]
      rw [State.pushKept_of_room hfree, State.pushNotice_of_room]
      · rfl
      · rw [State.freeEntries_enqueue, if_neg nofun]
        exact hdesk

/-! ## INTRUDE_CANCEL (R65) -/

/-- Settles O39, by the intrusion and the answer owed. -/
theorem intrudeCancelWithdraws : Obligations.IntrudeCancelWithdraws := by
  intro tag n s hs heard refused ok
  have hheard : heard.Hears .x := hs.heard
  have hexec : exec (.intrudeCancel .x tag n) s
      = .next (intrudeCancelOrder ⟨.x, tag, OrderKind.intrudeCancel.code⟩ n heard).finish :=
    hs.exec_heard (handle := fun c => intrudeCancelOrder c n) rfl rfl
  have hreply : ∀ r, heard.reply ⟨.x, tag, OrderKind.intrudeCancel.code⟩ r
      = heard.answered .x tag .intrudeCancel r .none := fun r => hheard.reply_eq tag .intrudeCancel r .none
  have hrefused : ∀ r, intrudeCancelOrder ⟨.x, tag, OrderKind.intrudeCancel.code⟩ n heard
      = heard.reply ⟨.x, tag, OrderKind.intrudeCancel.code⟩ r → refused r := fun r h => by
    show exec _ s = _
    rw [hexec, h, hheard.finish_reply]
  have hgives : ∀ t : State, intrudeCancelOrder ⟨.x, tag, OrderKind.intrudeCancel.code⟩ n heard = t →
      t.store = s.store → t.lapseInHand = s.lapseInHand → exec (.intrudeCancel .x tag n) s = .next t :=
    fun t h hstore hlapse => by rw [hexec, h, hs.hears.finish_of_store hstore hlapse]
  refine ⟨fun hn => hrefused _ ?_, fun l hl => ?_⟩
  · rw [intrudeCancelOrder, lineOf?_above hn]
  have hline : lineOf? n = some l := finOf?_eq_some.2 hl.symm
  refine ⟨fun hoff => hrefused _ ?_, fun b hon => ⟨fun due d hpending hold hroom => hgives _ ?_ rfl rfl, fun hnot =>
    ⟨fun howed => hgives _ ?_ rfl rfl, fun howed => hrefused _ ?_⟩⟩⟩
  · rw [intrudeCancelOrder, hline]
    simp only [show (heard.line l).onBus = none from hoff]
  · have hfree : (ok.updBus b fun x => { x with intrusion := .none, intrudeTag := none }).freeEntries .x ≠ 0 :=
      Nat.pos_iff_ne_zero.1 (hheard.free_answered tag .intrudeCancel .accepted .none)
    rw [intrudeCancelOrder, hline]
    simp only [show (heard.line l).onBus = some b from hon, show (heard.bus b).intrusion = .pending due from hpending]
    simp only [withdrawPending, hreply, show (heard.bus b).holder = some (.desk d) from hold, Option.bind_some,
      Source.port?]
    rw [State.pushKept_of_room hfree, State.pushNotice_of_room]
    · rfl
    · rw [State.freeEntries_enqueue, if_neg nofun]
      show 8 ≤ ok.freeEntries (.desk d)
      rw [State.freeEntries_answered, if_neg nofun]
      exact hroom
  · rw [intrudeCancelOrder, hline]
    simp only [show (heard.line l).onBus = some b from hon, show (heard.bus b).owed = some .granted from howed]
    cases hi : (heard.bus b).intrusion with
    | pending due => exact absurd hi (hnot due)
    | none => simp only [hreply]; rfl
    | kept => simp only [hreply]; rfl
  · rw [intrudeCancelOrder, hline]
    simp only [show (heard.line l).onBus = some b from hon]
    cases hi : (heard.bus b).intrusion with
    | pending due => exact absurd hi (hnot due)
    | none =>
      cases ho : (heard.bus b).owed with
      | none => rfl
      | some o => cases o with
        | granted => exact absurd ho howed
        | withdrawn => rfl
    | kept =>
      cases ho : (heard.bus b).owed with
      | none => rfl
      | some o => cases o with
        | granted => exact absurd ho howed
        | withdrawn => rfl

/-! ## Supervision restored (R47, R49, R52) -/

/-- An order of X while UNSUPERVISED finds the state that the restoration leaves, and restarts the timer just started
(R47). -/
theorem exec_of_restores {i : Instr} {tag : Byte} {k : OrderKind} {s t : State} (hi : i.orderHead = some (.x, tag, k))
    (hs : s.Hears .x) (hx : s.supervised = false) (ht : s.Restores t) (hroom : 2 ≤ t.freeEntries .x) :
    exec i s = exec i t := by
  obtain ⟨handle, hexec⟩ := exists_arrival hi
  obtain ⟨hsup, htimer, hstore, -⟩ := ht.restored
  have hrun : t.store.phase = .running := hstore ▸ hs.running
  have hsame : t.startSupervisionTimer = t := by rw [State.startSupervisionTimer_eq, ← htimer]
  rw [hexec s, hexec t, State.arrival, State.arrival, State.frameArrival_restores hs.room hs.running hx ht,
    State.frameArrival_timed hroom hrun hsup, hsame]

/-- A SUPERVISE while UNSUPERVISED restores supervision and then gets its REPLY (R49, R52). -/
theorem exec_supervise_restores {tag : Byte} {s t e : State} (hs : s.Hears .x) (hx : s.supervised = false)
    (ht : s.Restores t) (hroom : 1 ≤ t.freeEntries .x)
    (he : (t.answered .x tag .supervise .accepted .none).EventEnds e) : exec (.supervise .x tag) s = .next e := by
  have hrun : t.isRunning = true := by
    rw [State.isRunning, ht.restored.2.2.1, hs.running]
    rfl
  have harrival : s.arrival .x tag .supervise superviseOrder = t.answered .x tag .supervise .accepted .none := by
    rw [State.arrival, State.frameArrival_restores hs.room hs.running hx ht]
    simp only [State.checkedOrder, hrun]
    exact State.reply_of_room (c := ⟨.x, tag, OrderKind.supervise.code⟩) (Nat.pos_iff_ne_zero.1 hroom) _ _
  show Host.Outcome.next (superviseArrival .x tag s).finish = _
  rw [superviseArrival, harrival, he.finish_eq]

theorem State.updPort_same (s : State) (p : Port) : (s.updPort p fun r => r) = s := by
  rw [State.updPort, State.port, Tab.set_get]

theorem freeEntries_foldl_enqueue (bs : List ReportBody) : ∀ s : State,
    (bs.foldl (fun t r => t.enqueue .x none r) s).freeEntries .x = s.freeEntries .x - bs.length := by
  induction bs with
  | nil => exact fun _ => rfl
  | cons r bs ih =>
    intro s
    rw [List.foldl_cons, ih, State.freeEntries_enqueue, if_pos rfl, List.length_cons]
    omega

/-- A sweep that is disabled is derived OFF, and nothing starts (R153). -/
theorem State.derived_off {s : State} (h : s.sweep.enabled = false) :
    s.Derived { s with sweep := sweepSeenOff s.sweep } :=
  ⟨.off, .inl ⟨h, rfl⟩, fun ⟨hactive, _⟩ => absurd hactive nofun, fun _ => rfl⟩

/-- A foldl of kept reports to X changes the ports alone. -/
theorem foldl_enqueue_ports (bs : List ReportBody) : ∀ s : State,
    ∃ ps, bs.foldl (fun t r => t.enqueue .x none r) s = { s with ports := ps } := by
  induction bs with
  | nil => exact fun s => ⟨s.ports, rfl⟩
  | cons r bs ih => exact fun s => ih (s.enqueue .x none r)

/-- Notices to the desks and M leave X's queue as it was. -/
theorem State.freeEntries_noticeAll (s : State) (body : ReportBody) :
    (s.noticeAll body).freeEntries .x = s.freeEntries .x := by
  simp [State.noticeAll, State.freeEntries_enqueue]

/-- Settles O40: `exec_supervise_restores` and `exec_of_restores`; with no request waiting and the sweep disabled the
restoration is its reports. -/
theorem superviseRestoresSupervision : Obligations.SuperviseRestoresSupervision := by
  refine ⟨fun tag s hs => ?_, fun i tag k s t hi hs hx ht hroom => exec_of_restores hi hs hx ht hroom⟩
  intro heard
  refine ⟨fun hx => ?_, fun hx => ⟨fun hun blocked hsorted hmem hroom hrooms => ?_, fun t e ht hroom he =>
    exec_supervise_restores hs hx ht hroom he⟩⟩
  · have hsx : s.HearsX := ⟨hs, hx⟩
    have hheard : heard = { s with supTimer := some (s.now + 10000 * s.config.interval) } := by
      simp only [heard, ← hx]
    rw [hheard, ← State.startSupervisionTimer_eq]
    exact hsx.exec_of_reply (handle := superviseOrder) rfl rfl rfl
  intro resync told
  have hfree : blocked.length + 3 ≤ s.freeEntries .x := hroom
  have hlength : blocked.length ≤ 30 := by
    have : s.freeEntries .x ≤ 32 := Nat.sub_le _ _
    omega
  have hkept : State.updPort heard .x (fun r =>
      if s.freeEntries .x < blocked.length + 2 then { r with queue := [], lost := true } else r) = heard := by
    have hnot : ¬ s.freeEntries .x < blocked.length + 2 := by omega
    simp only [if_neg hnot]
    exact heard.updPort_same .x
  obtain ⟨ps, hps⟩ := foldl_enqueue_ports resync heard
  have htold : told.waitQueue = s.waitQueue ∧ told.sweep = s.sweep := by
    simp only [told, hps]
    exact ⟨rfl, rfl⟩
  obtain ⟨hwaits, hsweep⟩ := htold
  have hrestores : s.Restores { told with sweep := sweepSeenOff s.sweep } := by
    refine ⟨blocked, told, hsorted, hmem, hlength, hrooms, ?_, ?_⟩
    · rw [hkept]
      exact State.Scans.of_empty (hwaits.trans hun.noWaits)
    · rw [← hsweep]
      exact State.derived_off (hsweep ▸ hun.sweepOff)
  have hentries : 1 ≤ told.freeEntries .x := by
    rw [State.freeEntries_noticeAll, freeEntries_foldl_enqueue]
    have hlen : resync.length = blocked.length + 2 := by simp [resync]
    have : heard.freeEntries .x = s.freeEntries .x := rfl
    omega
  obtain ⟨-, -, hstore, hlapse⟩ := hrestores.restored
  refine exec_supervise_restores hs hx hrestores hentries (State.Settled.ends ?_)
  exact hs.settled.of_running hs.running hstore hlapse

/-! ## SUPERVISION_TIMER_EXPIRY (R48, R51) -/

/-- Settles O41: the expiry is a lapse with cause TIMEOUT; with no automated holder and the sweep disabled its releases
and its derivation change nothing else. -/
theorem supervisionTimerExpiryLapses : Obligations.SupervisionTimerExpiryLapses := by
  intro s hs
  refine ⟨fun hnone => ?_, fun due hdue => ?_⟩
  · have hsame : s.supervisionExpiry = s := by simp [State.supervisionExpiry, hnone]
    exact congrArg _ ((congrArg State.finish hsame).trans hs.finish_eq)
  have hexec : ∀ t, State.Lapses { s with now := max s.now due } .timeout t →
      exec .supervisionTimerExpiry s = .next t.finish := fun t ht => by
    refine congrArg (fun t => Host.Outcome.next (State.finish t)) ?_
    simp only [State.supervisionExpiry, hdue]
    exact ht.eq
  refine ⟨fun hoff hholders hrooms => ⟨s.lines.map lapsedLine, ?_, s.lapsedLines_map⟩, fun t e ht he =>
    he.finish_eq ▸ hexec t ht⟩
  have hno : ∀ b, ¬ ((s.bus b).holder = some .mc ∨ (s.bus b).holder = some .rs) := fun b h =>
    h.elim (hholders b).1 (hholders b).2
  rw [hexec _ ⟨_, State.lapsedLines_map { s with now := max s.now due }, _,
    .passes _ _ _ _ (hno 0) <| .passes _ _ _ _ (hno 1) <| .passes _ _ _ _ (hno 2) <| .passes _ _ _ _ (hno 3) <| .ends _,
    hrooms, State.derived_off hoff⟩]
  exact congrArg _ (State.Settled.finish_eq (hs.congr' rfl rfl rfl))

end Sys2Proof.Machine
end

section
/-!
PROOFS. Orders on tickets and the table's changes: TICKET_HAND, TICKET_PURGE and TICKET_NOTE (O42), TICKET_CLEAR (O43),
failed and passed classes (O44).
-/

namespace Sys2Proof.Machine

/-! ## A slot changed by an order (R127, R172) -/

/-- The one dirty slot of a table that had none is the next to be written. -/
theorem State.nextSlot_of_only {s : State} {k : SlotId} (hk : s.store.dirty.get k = true)
    (hothers : ∀ j, j ≠ k → s.store.dirty.get j = false) : s.NextSlot k := by
  refine ⟨hk, ?_⟩
  by_cases h : s.store.lastSlot < k
  · exact .inl ⟨h, fun j _ hj => hothers j hj.ne⟩
  · exact .inr ⟨not_lt.1 h, fun j hj => hothers j fun e => h (e ▸ hj), fun j hj => hothers j hj.ne⟩

/-- A slot made dirty in a running state otherwise settled: its write begins at the end of the event, or it waits for the
page in flight (R172). -/
theorem State.slotDirty_ends {s : State} (hs : s.Settled) (hr : s.store.phase = .running) (k : SlotId)
    (x : Option Ticket) : (s.slotDirty k x).EventEnds (s.slotChanged k x) := by
  have hnot : ∀ {P : Prop}, (s.slotDirty k x).store.phase = .quiescing ∧ P → False := fun h => by
    have : s.store.phase = .quiescing := h.1
    simp [hr] at this
  have hdrain : ∀ (w : State) {P : Prop}, w.store.phase = s.store.phase → ¬ (w.store.phase = .draining ∧ P) :=
    fun w P hw h => by simp [hw, hr] at h
  refine ⟨hs.noLapse, _, s.slotChanged k x, .inr ⟨hnot, rfl⟩, ?_, .inr ⟨hdrain _ ?_, rfl⟩⟩
  · cases hf : s.store.inFlight with
    | some w =>
      have hchanged : s.slotChanged k x = s.slotDirty k x := if_pos (by simp [hf])
      exact .inr ⟨.inr (by simp [State.slotDirty, hf]), hchanged⟩
    | none =>
      have hidle : s.store.settingsWrite = none ∧ s.store.anyDirty = false := by
        rcases hs.serviceIdle with h | h | h
        · simp [hr] at h
        · simp [hf] at h
        · exact h
      have hclean : ∀ j, s.store.dirty.get j = false := anyDirty_iff.1 hidle.2
      have hnext : (s.slotDirty k x).NextSlot k :=
        State.nextSlot_of_only (Tab.get_set_self _ _ _) fun j hj => (Tab.get_set_ne _ _ hj.symm).trans (hclean j)
      have hback : (s.store.dirty.set k true).set k false = s.store.dirty := by
        rw [Tab.set_set, ← hclean k, Tab.set_get]
      have hslot : (s.slotDirty k x).slot k = x := Tab.get_set_self _ _ _
      have hchanged : s.slotChanged k x = { s.slotDirty k x with store :=
          { (s.slotDirty k x).store with
            inFlight := some ⟨slotPageId k, slotPage ((s.slotDirty k x).slot k), (s.slotDirty k x).now + 50⟩
            dirty := (s.slotDirty k x).store.dirty.set k false
            lastSlot := k } } := by
        rw [hslot, State.slotChanged, if_neg (by simp [hf])]
        simp only [State.slotDirty, hback]
      refine .inl ⟨?_, hf, hchanged ▸ .slot k hidle.1 hnext⟩
      show s.store.phase ≠ .loading
      simp [hr]
  · unfold State.slotChanged
    split <;> rfl

theorem State.Hears.finish_slotDirty {s t : State} {p : Port} (hs : s.Hears p) (hstore : t.store = s.store)
    (hlapse : t.lapseInHand = s.lapseInHand) (k : SlotId) (x : Option Ticket) :
    (t.slotDirty k x).finish = t.slotChanged k x :=
  (State.slotDirty_ends (hs.settled.of_running hs.running hstore hlapse) (hstore ▸ hs.running) k x).finish_eq

theorem State.slotChanged_alm (s : State) (k : SlotId) (x : Option Ticket) (a : Bool) :
    { s.slotChanged k x with alm := a } = State.slotChanged { s with alm := a } k x := by
  unfold State.slotChanged
  split <;> rfl

theorem State.slotChanged_updLine (s : State) (k : SlotId) (x : Option Ticket) (l : LineId) (f : LineRec → LineRec) :
    (s.slotChanged k x).updLine l f = (s.updLine l f).slotChanged k x := by
  unfold State.slotChanged
  split
  next h => rw [if_pos (by exact h)]; rfl
  next h => rw [if_neg (by exact h)]; rfl

/-! ## The ticket an order names (R141, R143) -/

section
variable {s : State} {c : OrderCtx} {n : Nat} {f : SlotId → Ticket → State} {k : SlotId} {t : Ticket}

theorem State.onTicket_found (h : s.NumberAt n k t) (hreach : s.inReach c.port t.line = true) :
    s.onTicket c n f = f k t := by
  simp [State.onTicket, State.ticketFor, h.found, Option.filter, hreach]

theorem State.onTicket_beyond (h : s.NumberAt n k t) (hreach : s.inReach c.port t.line = false) :
    s.onTicket c n f = s.reply c .noSuchTicket := by
  simp [State.onTicket, State.ticketFor, h.found, Option.filter, hreach]

theorem State.onTicket_none (h : ∀ j u, s.slot j = some u → u.number ≠ n) :
    s.onTicket c n f = s.reply c .noSuchTicket := by
  simp [State.onTicket, State.ticketFor, ticketNumbered_none h]

end

/-- A changed ticket in its slot, and the REPLY that gives it, where the port is heard. -/
theorem State.Hears.replyTicket_eq {s : State} {p : Port} (hs : s.Hears p) (tag : Byte) (kind : OrderKind) (k : SlotId)
    (t : Ticket) : s.replyTicket ⟨p, tag, kind.code⟩ k t
      = (s.answered p tag kind .accepted (.ticket (some ⟨t, s.lineFor p t.line⟩))).slotDirty k (some t) := by
  have hroom : (s.writeSlot k (some t)).freeEntries p ≠ 0 := by
    have : 2 ≤ s.freeEntries p := hs.room
    exact Nat.pos_iff_ne_zero.1 (Nat.le_of_succ_le this)
  rw [State.replyTicket, State.reply_of_room (c := ⟨p, tag, kind.code⟩) hroom]
  rfl

theorem State.slot_slotDirty (s : State) (k : SlotId) (x : Option Ticket) : (s.slotDirty k x).slot k = x :=
  Tab.get_set_self _ _ _

theorem State.slot_slotDirty_ne (s : State) {k j : SlotId} (x : Option Ticket) (h : j ≠ k) :
    (s.slotDirty k x).slot j = s.slot j := Tab.get_set_ne _ _ h.symm

/-- ALM once a slot no longer holds an OPEN ticket, the others and the pending marks as they were (R146). -/
theorem State.AlarmWithout.alarmed {s u : State} {k : SlotId} {alarm : Bool} (h : s.AlarmWithout k alarm)
    (hk : ∀ x, u.slot k = some x → x.state ≠ .opened) (hothers : ∀ j, j ≠ k → u.slot j = s.slot j)
    (hmarks : ∀ l, (u.line l).pendingMask = (s.line l).pendingMask) : alarm = true ↔ u.Alarmed := by
  rw [State.AlarmWithout] at h
  rw [h, State.Alarmed]
  simp only [hmarks]
  refine or_congr_left ⟨?_, ?_⟩
  · rintro ⟨j, x, hj, hx, hsev, hst⟩
    exact ⟨j, x, (hothers j hj).trans hx, hsev, hst⟩
  · rintro ⟨j, x, hx, hsev, hst⟩
    have hj : j ≠ k := by
      rintro rfl
      exact hk x hx hst
    exact ⟨j, x, hj, (hothers j hj) ▸ hx, hsev, hst⟩

/-! ## TICKET_HAND, TICKET_PURGE (R138, R140) and TICKET_NOTE (R144) -/

theorem exec_ticketHand_of_hears {s : State} (hs : s.Hears .m) (tag : Byte) (n a : Nat) :
    exec (.ticketHand .m tag n a) s = .next (ticketHandOrder ⟨.m, tag, OrderKind.ticketHand.code⟩ n a s).finish :=
  hs.exec_of_arrival (handle := fun c => ticketHandOrder c n a) nofun rfl rfl

theorem exec_ticketPurge_of_hears {s : State} (hs : s.Hears .m) (tag : Byte) (n : Nat) :
    exec (.ticketPurge .m tag n) s = .next (ticketPurgeOrder ⟨.m, tag, OrderKind.ticketPurge.code⟩ n s).finish :=
  hs.exec_of_arrival (handle := fun c => ticketPurgeOrder c n) nofun rfl rfl

theorem exec_ticketNote_of_hears {s : State} {d : DeskId} (hs : s.Hears (.desk d)) (tag : Byte) (n note : Nat) :
    exec (.ticketNote (.desk d) tag n note) s
      = .next (ticketNoteOrder ⟨.desk d, tag, OrderKind.ticketNote.code⟩ n note s).finish :=
  hs.exec_of_arrival (handle := fun c => ticketNoteOrder c n note) nofun rfl rfl

/-- Settles O42: the ticket found or not (`State.onTicket_found` and its kin), its state, and then the slot changed
(`State.Hears.finish_slotDirty`). -/
theorem ticketHandPurgeAndNoteChangeTheSlot : Obligations.TicketHandPurgeAndNoteChangeTheSlot := by
  refine ⟨fun tag n a s hs => ⟨fun hnone => ⟨?_, ?_⟩, fun k t ht => ⟨fun hst => ?_, fun hst => ?_, fun hst => ?_,
    fun alarm hst halarm => ?_⟩⟩, fun d tag n note s hs => ⟨fun hnone => ?_, fun k t ht => ?_⟩⟩
  · rw [exec_ticketHand_of_hears hs, ticketHandOrder, State.onTicket_none hnone, hs.finish_reply]
  · rw [exec_ticketPurge_of_hears hs, ticketPurgeOrder, State.onTicket_none hnone, hs.finish_reply]
  · rw [exec_ticketHand_of_hears hs, ticketHandOrder, State.onTicket_found ht rfl, if_neg hst, hs.finish_reply]
  · rw [exec_ticketPurge_of_hears hs, ticketPurgeOrder, State.onTicket_found ht rfl, if_neg hst, hs.finish_reply]
  · have hroom : (s.writeSlot k none).freeEntries .m ≠ 0 := by
      have : 2 ≤ s.freeEntries .m := hs.room
      exact Nat.pos_iff_ne_zero.1 (Nat.le_of_succ_le this)
    rw [exec_ticketPurge_of_hears hs, ticketPurgeOrder, State.onTicket_found ht rfl, if_pos hst,
      State.reply_of_room (c := ⟨.m, tag, OrderKind.ticketPurge.code⟩) hroom]
    exact congrArg _ (hs.finish_slotDirty (t := s.answered .m tag .ticketPurge .accepted .none) rfl rfl k none)
  · intro handed
    have halarmed := halarm.alarmed (u := (s.answered .m tag .ticketHand .accepted
        (.ticket (some ⟨handed, ⟨t.line.val, false⟩⟩))).slotDirty k (some handed))
      (fun x hx => by
        rw [State.slot_slotDirty, Option.some.injEq] at hx
        subst hx
        nofun)
      (fun j hj => State.slot_slotDirty_ne _ _ hj) fun l => rfl
    rw [exec_ticketHand_of_hears hs, ticketHandOrder, State.onTicket_found ht rfl, if_pos hst, hs.replyTicket_eq,
      State.slotChanged_alm]
    refine congrArg _ ((congrArg State.finish (State.evaluateAlm_running ?_ halarmed)).trans ?_)
    · exact hs.running
    exact hs.finish_slotDirty (t := { s.answered .m tag .ticketHand .accepted
      (.ticket (some ⟨handed, ⟨t.line.val, false⟩⟩)) with alm := alarm }) rfl rfl k (some handed)
  · rw [exec_ticketNote_of_hears hs, ticketNoteOrder, State.onTicket_none hnone, hs.finish_reply]
  · intro noted
    refine ⟨fun hnot => ?_, fun hm hin hst => ?_⟩
    · cases hin : s.inWindow d t.line with
      | false =>
        rw [exec_ticketNote_of_hears hs, ticketNoteOrder,
          State.onTicket_beyond ht (c := ⟨.desk d, tag, OrderKind.ticketNote.code⟩) hin, hs.finish_reply]
        rfl
      | true =>
        have hcleared : ¬ t.nonCleared = true := by simp [Ticket.nonCleared, hnot.resolve_left (by simp [hin])]
        rw [exec_ticketNote_of_hears hs, ticketNoteOrder,
          State.onTicket_found ht (c := ⟨.desk d, tag, OrderKind.ticketNote.code⟩) hin, if_neg hcleared, hs.finish_reply]
        rfl
    · have hopen : t.nonCleared = true := by simp [Ticket.nonCleared, hst]
      have hroom : 8 ≤ (s.answered (.desk d) tag .ticketNote .accepted
          (.ticket (some ⟨noted, s.lineFor (.desk d) noted.line⟩))).freeEntries .m := by
        rw [State.freeEntries_answered, if_neg nofun]
        exact hm
      obtain ⟨hlo, hhi⟩ := State.inWindow_iff.1 hin
      rw [exec_ticketNote_of_hears hs, ticketNoteOrder,
        State.onTicket_found ht (c := ⟨.desk d, tag, OrderKind.ticketNote.code⟩) hin, if_pos hopen]
      show Host.Outcome.next (((s.replyTicket ⟨.desk d, tag, OrderKind.ticketNote.code⟩ k noted).noteNotice (.desk d)
        noted).finish) = _
      rw [hs.replyTicket_eq]
      simp only [State.noteNotice, State.ticketNotice]
      rw [State.pushNotice_of_room (by exact hroom), ← State.lineFor_inside hlo hhi]
      exact congrArg _ (hs.finish_slotDirty (t := (s.answered (.desk d) tag .ticketNote .accepted
        (.ticket (some ⟨noted, s.lineFor (.desk d) noted.line⟩))).enqueue .m none (.ticketEvent (.noted noted d)))
        rfl rfl k (some noted))

/-! ## TICKET_CLEAR (R139) -/

theorem exec_ticketClear_of_hears {s : State} {p : Port} (hs : s.Hears p) (hp : p ≠ .x)
    (hk : orderPermits .ticketClear p = true) (tag : Byte) (n : Nat) :
    exec (.ticketClear p tag n) s = .next (ticketClearOrder ⟨p, tag, OrderKind.ticketClear.code⟩ n s).finish :=
  hs.exec_of_arrival (handle := fun c => ticketClearOrder c n) hp hk rfl

/-- What follows a class's application leaves the store's phase. -/
theorem State.AfterClass.phase {s t : State} {c : FaultClass} {l : LineId} (h : s.AfterClass c l t) :
    t.store.phase = s.store.phase := by
  rw [← h.eq]
  split
  · exact (s.evaluateQuarantine_spares l).phase
  · rfl

theorem State.AfterClass.evaluateAlm_eq {s t : State} {c : FaultClass} {l : LineId} {a : Bool}
    (h : s.AfterClass c l t) (hr : s.store.phase = .running) (ha : a = true ↔ t.Alarmed) :
    (if c = .hazard then s.evaluateQuarantine l else s).evaluateAlm = { t with alm := a } := by
  rw [h.eq]
  exact State.evaluateAlm_running (h.phase.trans hr) ha

/-- A TICKET_CLEAR from the maintenance centre up to the quarantine (R139). -/
theorem ticketClearOrder_mc {s : State} (hs : s.Hears .m) (tag : Byte) {n : Nat} {k : SlotId} {t : Ticket}
    (ht : s.NumberAt n k t) (hst : t.state ≠ .cleared) :
    ticketClearOrder ⟨.m, tag, OrderKind.ticketClear.code⟩ n s
      = (if t.cls = .hazard then
          ((s.answered .m tag .ticketClear .accepted (.ticket (some ⟨clearedTicket .mc s.stamp t,
            ⟨t.line.val, false⟩⟩))).slotDirty k (some (clearedTicket .mc s.stamp t))).evaluateQuarantine t.line
        else (s.answered .m tag .ticketClear .accepted (.ticket (some ⟨clearedTicket .mc s.stamp t,
          ⟨t.line.val, false⟩⟩))).slotDirty k (some (clearedTicket .mc s.stamp t))).evaluateAlm := by
  have hopen : t.nonCleared = true := by simp [Ticket.nonCleared, hst]
  rw [ticketClearOrder, State.onTicket_found ht rfl, if_pos hopen]
  simp only [hs.replyTicket_eq]
  rfl

/-- A TICKET_CLEAR from a desk up to the quarantine: M is told (R139). -/
theorem ticketClearOrder_desk {s : State} {d : DeskId} (hs : s.Hears (.desk d)) (tag : Byte) {n : Nat} {k : SlotId}
    {t : Ticket} (ht : s.NumberAt n k t) (hst : t.state ≠ .cleared) (hin : s.inWindow d t.line = true)
    (hm : s.Room .m 8) {y : Ticket} (hy : y = clearedTicket (.desk d) s.stamp t) {u : State}
    (hu : u = ((s.answered (.desk d) tag .ticketClear .accepted (.ticket (some ⟨y,
      ⟨t.line.val - (s.config.windows.get d).base, false⟩⟩))).enqueue .m none
        (.ticketEvent (.cleared y))).slotDirty k (some y)) :
    ticketClearOrder ⟨.desk d, tag, OrderKind.ticketClear.code⟩ n s
      = (if t.cls = .hazard then u.evaluateQuarantine t.line else u).evaluateAlm := by
  have hopen : t.nonCleared = true := by simp [Ticket.nonCleared, hst]
  have hroom : 8 ≤ ((s.answered (.desk d) tag .ticketClear .accepted
      (.ticket (some ⟨y, s.lineFor (.desk d) y.line⟩))).slotDirty k (some y)).freeEntries .m := by
    show 8 ≤ (s.answered (.desk d) tag .ticketClear .accepted
      (.ticket (some ⟨y, s.lineFor (.desk d) y.line⟩))).freeEntries .m
    rw [State.freeEntries_answered, if_neg nofun]
    exact hm
  have hline : s.lineFor (.desk d) y.line = ⟨t.line.val - (s.config.windows.get d).base, false⟩ := by
    obtain ⟨hlo, hhi⟩ := State.inWindow_iff.1 hin
    rw [hy]
    exact State.lineFor_inside hlo hhi
  have htold : (s.replyTicket ⟨.desk d, tag, OrderKind.ticketClear.code⟩ k y).clearNotice (.desk d) y = u := by
    rw [hs.replyTicket_eq, State.clearNotice, if_pos (show portIsDesk (.desk d) = true from rfl), State.ticketNotice, State.pushNotice_of_room hroom, hline, hu]
    rfl
  rw [ticketClearOrder, State.onTicket_found ht (c := ⟨.desk d, tag, OrderKind.ticketClear.code⟩) hin, if_pos hopen,
    ← htold, hy]
  rfl

/-- A line's quarantine set to what its pending mark calls for, when a HAZARD ticket of it has been cleared (R120). -/
def State.hazardLifted (s : State) (c : FaultClass) (l : LineId) (stays : Bool) : State :=
  if c = .hazard then s.updLine l fun r => { r with quarantined := stays } else s

theorem State.hazardLifted_fields (s : State) (c : FaultClass) (l : LineId) (stays : Bool) :
    ∃ ls, s.hazardLifted c l stays = { s with lines := ls }
      ∧ ∀ j, (ls.get j).pendingMask = (s.line j).pendingMask := by
  unfold State.hazardLifted
  split
  · refine ⟨_, rfl, fun j => ?_⟩
    rw [Tab.get_set]
    split
    next h => subst h; rfl
    · rfl
  · exact ⟨_, rfl, fun _ => rfl⟩

theorem State.hazardLifted_slotDirty (s : State) (c : FaultClass) (l : LineId) (stays : Bool) (k : SlotId)
    (x : Option Ticket) : (s.slotDirty k x).hazardLifted c l stays = (s.hazardLifted c l stays).slotDirty k x := by
  unfold State.hazardLifted
  split <;> rfl

theorem State.hazardLifted_slotChanged (s : State) (c : FaultClass) (l : LineId) (stays : Bool) (k : SlotId)
    (x : Option Ticket) : (s.slotChanged k x).hazardLifted c l stays = (s.hazardLifted c l stays).slotChanged k x := by
  unfold State.hazardLifted
  split
  · exact s.slotChanged_updLine k x l _
  · rfl

/-- Where a cleared HAZARD ticket was the line's only one, the quarantine goes unless a pending mark keeps it, and with
no request waiting and the sweep disabled nothing else happens (R120, R122). -/
theorem State.slotDirty_afterClass {s : State} {k : SlotId} {t y : Ticket} (hy : y.state = .cleared)
    (hquiet : t.cls = .hazard → s.Unclaimed ∧ (s.line t.line).quarantined = true)
    (honly : t.cls = .hazard → ∀ j u, j ≠ k → s.slot j = some u →
      ¬ (u.line = t.line ∧ u.cls = .hazard ∧ u.state ≠ .cleared)) :
    (s.slotDirty k (some y)).AfterClass t.cls t.line
      ((s.slotDirty k (some y)).hazardLifted t.cls t.line ((s.line t.line).pendingMask.get 0)) := by
  by_cases hc : t.cls = .hazard
  · obtain ⟨hun, hquarantined⟩ := hquiet hc
    have hcarries : (s.slotDirty k (some y)).CarriesHazard t.line ↔ (s.line t.line).pendingMask.get 0 = true := by
      refine or_iff_right ?_
      rintro ⟨j, u, hj, hline, hcls, hst⟩
      by_cases hjk : j = k
      · subst hjk
        rw [State.slot_slotDirty, Option.some.injEq] at hj
        exact hst (hj ▸ hy)
      · rw [State.slot_slotDirty_ne _ _ hjk] at hj
        exact honly hc j u hjk hj ⟨hline, hcls, hst⟩
    refine .inl ⟨hc, ?_⟩
    rw [State.hazardLifted, if_pos hc]
    cases hmark : (s.line t.line).pendingMask.get 0 with
    | true =>
      have hsame : ((s.slotDirty k (some y)).updLine t.line fun r => { r with quarantined := true })
          = s.slotDirty k (some y) := by
        have hline : { s.line t.line with quarantined := true } = s.line t.line := by rw [← hquarantined]
        have hset : s.lines.set t.line { s.line t.line with quarantined := true } = s.lines := by
          rw [hline, State.line, Tab.set_get]
        show State.slotDirty { s with lines := s.lines.set t.line { s.line t.line with quarantined := true } } k (some y)
          = _
        rw [hset]
      rw [hsame]
      exact .stands (iff_of_true hquarantined (hcarries.2 hmark))
    | false =>
      refine .lifts _ hquarantined (fun h => ?_) (State.Unclaimed.tells (hun.congr rfl rfl))
      simp [hcarries.1 h] at hmark
  · rw [State.hazardLifted, if_neg hc]
    exact .inr ⟨hc, rfl⟩

/-- A clearing that grants nothing, to the end of its event: the slot changed, the quarantine and ALM as they come to be
(R120, R146). -/
theorem State.Hears.finish_cleared {s x : State} {p : Port} (hs : s.Hears p) (hstore : x.store = s.store)
    (hlapse : x.lapseInHand = s.lapseInHand) (c : FaultClass) (l : LineId) (stays alarm : Bool) (k : SlotId)
    (y : Option Ticket) :
    State.finish { (x.slotDirty k y).hazardLifted c l stays with alm := alarm }
      = { (x.slotChanged k y).hazardLifted c l stays with alm := alarm } := by
  obtain ⟨ls, hfields, -⟩ := x.hazardLifted_fields c l stays
  rw [State.hazardLifted_slotDirty, State.hazardLifted_slotChanged, State.slotChanged_alm]
  refine hs.finish_slotDirty (t := { x.hazardLifted c l stays with alm := alarm }) ?_ ?_ k y
  · rw [hfields]
    exact hstore
  · rw [hfields]
    exact hlapse

/-- ALM once the cleared ticket stands in its slot (R146). -/
theorem State.AlarmWithout.alarmed_cleared {s x : State} {k : SlotId} {alarm : Bool} (h : s.AlarmWithout k alarm)
    (hslot : x.tickets = s.tickets) (hlines : x.lines = s.lines) {y : Ticket} (hy : y.state = .cleared)
    (c : FaultClass) (l : LineId) (stays : Bool) :
    alarm = true ↔ ((x.slotDirty k (some y)).hazardLifted c l stays).Alarmed := by
  obtain ⟨ls, hfields, hmarks⟩ := (x.slotDirty k (some y)).hazardLifted_fields c l stays
  rw [hfields]
  refine h.alarmed (fun z hz => ?_) (fun j hj => ?_) fun j => ?_
  · have hz' : (x.slotDirty k (some y)).slot k = some z := hz
    rw [State.slot_slotDirty, Option.some.injEq] at hz'
    simp [← hz', hy]
  · show (x.slotDirty k (some y)).slot j = _
    rw [State.slot_slotDirty_ne _ _ hj, State.slot, hslot]
    rfl
  · refine (hmarks j).trans ?_
    show (x.lines.get j).pendingMask = _
    rw [hlines]
    rfl

/-- Settles O43: refused by `State.onTicket`; otherwise the slot changes and `State.AfterClass.eq` takes the quarantine,
first where `State.slotDirty_afterClass` says what it comes to. -/
theorem ticketClearEndsTheTicket : Obligations.TicketClearEndsTheTicket := by
  have hdesk : ∀ d, orderPermits .ticketClear (.desk d) = true := fun _ => rfl
  refine ⟨fun tag n s hnone => ⟨fun hs => ?_, fun d hs => ?_⟩, fun tag n k t s ht => ⟨fun hs hst => ?_, fun d hs =>
    ⟨fun hout => ?_, fun hin hst => ?_⟩⟩, fun tag n k t s ht hst => ?_⟩
  · rw [exec_ticketClear_of_hears hs nofun rfl, ticketClearOrder, State.onTicket_none hnone, hs.finish_reply]
  · rw [exec_ticketClear_of_hears hs nofun (hdesk d), ticketClearOrder, State.onTicket_none hnone, hs.finish_reply]
  · have hcleared : ¬ t.nonCleared = true := by simp [Ticket.nonCleared, hst]
    rw [exec_ticketClear_of_hears hs nofun rfl, ticketClearOrder, State.onTicket_found ht rfl, if_neg hcleared,
      hs.finish_reply]
  · rw [exec_ticketClear_of_hears hs nofun (hdesk d), ticketClearOrder,
      State.onTicket_beyond ht (c := ⟨.desk d, tag, OrderKind.ticketClear.code⟩) hout, hs.finish_reply]
  · have hcleared : ¬ t.nonCleared = true := by simp [Ticket.nonCleared, hst]
    rw [exec_ticketClear_of_hears hs nofun (hdesk d), ticketClearOrder,
      State.onTicket_found ht (c := ⟨.desk d, tag, OrderKind.ticketClear.code⟩) hin, if_neg hcleared, hs.finish_reply]
  · intro cleared byMc byDesk
    have hmc : s.Hears .m → ∀ (w : State) (a : Bool),
        (byMc.slotDirty k (some (cleared .mc))).AfterClass t.cls t.line w → (a = true ↔ w.Alarmed) →
        exec (.ticketClear .m tag n) s = .next (State.finish { w with alm := a }) := fun hs w a hw ha => by
      rw [exec_ticketClear_of_hears hs nofun rfl, ticketClearOrder_mc hs tag ht hst]
      exact congrArg (fun x => Host.Outcome.next (State.finish x)) (hw.evaluateAlm_eq hs.running ha)
    have hd : ∀ d, s.Hears (.desk d) → s.Room .m 8 → s.inWindow d t.line = true → ∀ (w : State) (a : Bool),
        ((byDesk d).slotDirty k (some (cleared (.desk d)))).AfterClass t.cls t.line w → (a = true ↔ w.Alarmed) →
        exec (.ticketClear (.desk d) tag n) s = .next (State.finish { w with alm := a }) :=
      fun d hs hm hin w a hw ha => by
        rw [exec_ticketClear_of_hears hs nofun (hdesk d), ticketClearOrder_desk hs tag ht hst hin hm rfl rfl]
        exact congrArg (fun x => Host.Outcome.next (State.finish x)) (hw.evaluateAlm_eq hs.running ha)
    refine ⟨fun alarm halarm hquiet => ?_, fun w e a ha he => ⟨fun hs hw => ?_, fun d hs hm hin hw => ?_⟩⟩
    · intro stays freed honly
      refine ⟨fun hs => ?_, fun d hs hm hin => ?_⟩
      · rw [hmc hs _ alarm (State.slotDirty_afterClass (s := byMc) rfl
          (fun h => ⟨(hquiet h).1.congr rfl rfl, (hquiet h).2⟩) honly)
          (halarm.alarmed_cleared (x := byMc) rfl rfl rfl _ _ _)]
        exact congrArg _ (hs.finish_cleared (x := byMc) rfl rfl _ _ _ _ _ _)
      · rw [hd d hs hm hin _ alarm (State.slotDirty_afterClass (s := byDesk d) rfl
          (fun h => ⟨(hquiet h).1.congr rfl rfl, (hquiet h).2⟩) honly)
          (halarm.alarmed_cleared (x := byDesk d) rfl rfl rfl _ _ _)]
        exact congrArg _ (hs.finish_cleared (x := byDesk d) rfl rfl _ _ _ _ _ _)
    · rw [hmc hs w a hw ha, he.finish_eq]
    · rw [hd d hs hm hin w a hw ha, he.finish_eq]

/-! ## Failed classes (R129 to R135) -/

section
variable {s : State} {l : LineId} {c : FaultClass} {f : Failure} {src : Source} {stamp : Stamp}

theorem satSucc_eq (m n : Nat) : satSucc m n = if n < m then n + 1 else m := rfl

/-- The class already has its ticket: the failure is merged into it (R130). -/
theorem State.applyFailure_merges {k : SlotId} {t : Ticket} (hm : s.Room .m 8) (ht : s.TicketAt l c k t) :
    s.applyFailure l c f src stamp = (s.slotDirty k (some (mergedTicket t f stamp))).enqueue .m none
      (.ticketEvent (if t.severity.rank < f.severity.rank then .raised (mergedTicket t f stamp)
        else .merged (mergedTicket t f stamp))) := by
  simp only [State.applyFailure, ht.found, State.mergeTicket, State.ticketNotice]
  exact State.pushNotice_of_room (s := s.slotDirty k _) hm _

theorem State.applyFailure_creates {k : SlotId} {u : State}
    (hnone : ∀ j t, s.slot j = some t → ¬ (t.line = l ∧ t.cls = c ∧ t.state ≠ .cleared))
    (hslot : s.takeSlot f = some (k, u)) : s.applyFailure l c f src stamp = u.createTicket k l c f src stamp := by
  simp only [State.applyFailure, ticketOn_none hnone, hslot]

theorem State.takeSlot_empty {k : SlotId} (hk : s.slot k = none) (hbelow : ∀ j < k, s.slot j ≠ none) :
    s.takeSlot f = some (k, s) := by
  simp only [State.takeSlot, State.emptySlot_at hk hbelow]

theorem State.takeSlot_cleared {k : SlotId} {x : Ticket} (hfull : ∀ j, s.slot j ≠ none)
    (hx : s.OldestAt (fun t => t.state = .cleared) k x) : s.takeSlot f = some (k, s.takeCleared k x) := by
  have hold : (s.oldest fun t => t.state == .cleared) = some (k, x) := hx.found fun t => beq_iff_eq
  simp only [State.takeSlot, State.emptySlot_none hfull, hold]

theorem State.takeSlot_evicts {k : SlotId} {x : Ticket} (hfull : ∀ j, s.slot j ≠ none)
    (hopen : ∀ j t, s.slot j = some t → t.state ≠ .cleared) (hf : f.severity = .critical)
    (hx : s.OldestAt (fun t => t.state = .opened ∧ t.severity = .minor) k x) :
    s.takeSlot f = some (k, s.evict k x) := by
  have hno : (s.oldest fun t => t.state == .cleared) = none := State.oldest_none fun j t ht => by
    simpa using hopen j t ht
  have hold : (s.oldest fun t => t.state == .opened && t.severity == .minor) = some (k, x) :=
    hx.found fun t => by simp
  simp only [State.takeSlot, State.emptySlot_none hfull, hno, hf, hold]
  rfl

theorem State.takeSlot_none (hfull : ∀ j, s.slot j ≠ none) (hopen : ∀ j t, s.slot j = some t → t.state ≠ .cleared)
    (hkept : f.severity = .critical → ∀ j t, s.slot j = some t → ¬ (t.state = .opened ∧ t.severity = .minor)) :
    s.takeSlot f = none := by
  have hno : (s.oldest fun t => t.state == .cleared) = none := State.oldest_none fun j t ht => by
    simpa using hopen j t ht
  simp only [State.takeSlot, State.emptySlot_none hfull, hno]
  split
  next hf =>
    have hnone : (s.oldest fun t => t.state == .opened && t.severity == .minor) = none :=
      State.oldest_none fun j t ht => by simpa using hkept hf j t ht
    rw [hnone]
    rfl
  · rfl

/-- No slot is found: a pending mark, TICKET_OVERFLOW, and the offer but for class HAZARD (R135). -/
theorem State.overflowTicket_eq (hm : s.Room .m 8) : s.overflowTicket l c f src
    = { (s.updLine l fun r => { r with pendingMask := r.pendingMask.set c.index true }).enqueue .m none
          (.ticketOverflow l c f.severity f.value src) with
        retest := if c ≠ .hazard then s.retestWith l else s.retest } := by
  simp only [State.overflowTicket]
  rw [State.pushNotice_of_room (s := s.updLine l fun r => r.addPending c) hm]
  by_cases hc : c = .hazard
  · rw [if_pos hc, if_neg (not_not.2 hc)]
    rfl
  · have hline := State.line_updLine_self s l fun r => r.addPending c
    have hoffer : ((s.updLine l fun r => r.addPending c).enqueue .m none
        (.ticketOverflow l c f.severity f.value src)).retestWith l = s.retestWith l :=
      State.retestWith_congr rfl rfl ((congrArg LineRec.cls hline).trans rfl)
        ((congrArg LineRec.quarantined hline).trans rfl)
    rw [if_neg hc, if_pos hc, State.vtuOffer_eq, hoffer]
    rfl

end

/-! ## Passed classes (R136) -/

section
variable {s : State} {l : LineId} {c : FaultClass} {need : Nat} {stamp : Stamp}

theorem State.applyPass_none (hnone : ∀ k t, s.slot k = some t → ¬ (t.line = l ∧ t.cls = c ∧ t.state ≠ .cleared)) :
    s.applyPass l c need stamp = s.updLine l fun r => { r with pendingMask := r.pendingMask.set c.index false } := by
  simp only [State.applyPass, ticketOn_none hnone]
  rfl

/-- A pass counted on the class's ticket, which AUTO clears when the count reaches the clear passes. -/
theorem State.applyPass_counts {k : SlotId} {t y : Ticket} (ht : s.TicketAt l c k t)
    (hy : passedTicket t need stamp = y) : s.applyPass l c need stamp
      = State.updLine (if y.state = .cleared then (s.slotDirty k (some y)).pushNotice .m (.ticketEvent (.cleared y))
          else s.slotDirty k (some y)) l fun r => { r with pendingMask := r.pendingMask.set c.index false } := by
  simp only [State.applyPass, ht.found, hy, beq_iff_eq]
  rfl

end

theorem satSucc_7 {n : Nat} (h : n ≤ 7) : satSucc 7 n = min (n + 1) 7 := by
  rw [satSucc_eq]
  split <;> omega

/-- Settles O44: a failed class by what `State.takeSlot` finds, a passed one by its ticket's count. -/
theorem failedAndPassedClassesChangeTheTable : Obligations.FailedAndPassedClassesChangeTheTable := by
  refine ⟨fun l c f src stamp s hm => ⟨fun k t ht => ?_, fun hnone => ⟨fun k n hk hbelow hn => ?_, fun hfull =>
    ⟨fun k n x hx hn hm9 => ?_, fun hopen => ⟨fun k n x hf hx hn hm9 => ?_, fun hkept => ?_⟩⟩⟩⟩,
    fun l c need stamp s hm => ?_⟩
  · intro merged
    have hmerged : mergedTicket t f stamp = merged := by
      have hcls : t.cls = c := ht.2.2.1
      simp only [mergedTicket, merged, hcls, Severity.worse, satSucc_eq]
    rw [State.applyFailure_merges hm ht, hmerged]
  · rw [State.applyFailure_creates hnone (State.takeSlot_empty hk hbelow), State.createTicket_eq (.inl ⟨rfl, hk⟩) hn hm]
  · have hroom : 8 ≤ (s.enqueue .m none (.ticketEvent (.purged x.number x.line x.cls))).freeEntries .m := by
      rw [State.freeEntries_enqueue, if_pos rfl]
      exact Nat.le_sub_of_add_le hm9
    have htaken : s.takeCleared k x
        = (s.enqueue .m none (.ticketEvent (.purged x.number x.line x.cls))).writeSlot k none := by
      rw [State.takeCleared, State.ticketNotice, State.pushNotice_of_room hm]
    rw [State.applyFailure_creates hnone (State.takeSlot_cleared hfull hx)]
    exact State.createTicket_eq (.inr htaken) hn hroom
  · intro marked
    have hroom : 8 ≤ State.freeEntries { marked with retest := marked.retestWith x.line } .m := by
      show 8 ≤ (s.enqueue .m none _).freeEntries .m
      rw [State.freeEntries_enqueue, if_pos rfl]
      exact Nat.le_sub_of_add_le hm9
    have htaken : s.evict k x = State.writeSlot { marked with retest := marked.retestWith x.line } k none := by
      simp only [State.evict, State.ticketNotice]
      rw [State.pushNotice_of_room hm, State.vtuOffer_eq]
      rfl
    rw [State.applyFailure_creates hnone (State.takeSlot_evicts hfull hopen hf hx)]
    exact State.createTicket_eq (.inr htaken) hn hroom
  · simp only [State.applyFailure, ticketOn_none hnone, State.takeSlot_none hfull hopen hkept]
    exact State.overflowTicket_eq hm
  · intro unmarked
    refine ⟨fun hnone => State.applyPass_none hnone, fun k t ht => ?_⟩
    intro counted cleared hpasses
    have hst : counted.state ≠ .cleared := ht.2.2.2.1
    refine ⟨fun hstays => ?_, fun hneed hreach => ?_⟩
    · have hy : passedTicket t need stamp = counted := by
        rw [passedTicket]
        simp only [satSucc_7 hpasses]
        exact if_neg (by omega)
      rw [State.applyPass_counts ht hy, if_neg hst]
    · have hy : passedTicket t need stamp = cleared := by
        rw [passedTicket]
        simp only [satSucc_7 hpasses]
        exact if_pos ⟨hneed, hreach⟩
      rw [State.applyPass_counts ht hy, if_pos rfl, State.pushNotice_of_room (s := s.slotDirty k (some cleared)) hm]

end Sys2Proof.Machine
end

section
/-!
PROOFS. The maintenance centre's orders on the clock and the sweep (O45), the settings (O46) and the part (O47).
-/

namespace Sys2Proof.Machine

/-- An order of the maintenance centre that derives the sweep state at its end: nothing is left for the event's end. -/
theorem State.Hears.finish_derived {s x t : State} {p : Port} (hs : s.Hears p) (hstore : x.store = s.store)
    (hlapse : x.lapseInHand = s.lapseInHand) (h : x.Derived t) : x.rederive.finish = t := by
  rw [h.rederive_eq]
  exact (h.steady.settled (hs.settled.of_running hs.running hstore hlapse) (hstore ▸ hs.running)).finish_eq

/-! ## SET_CLOCK (R149) and the sweep's flag orders (R160) -/

theorem clockParams_iff {day h m x : Nat} :
    clockParams day h m x = true ↔ day ≤ 65535 ∧ h ≤ 23 ∧ m ≤ 59 ∧ x ≤ 59 := by
  simp [clockParams, and_assoc]

/-- The clock set, the rest flag kept on the same day alone (R149, R150). -/
theorem State.clockSet_eq (s : State) (day second : Nat) : s.clockSet day second
    = State.rederive { s with
        clock := ⟨day, second, true, s.now + 10000⟩
        sweep := { s.sweep with rest := s.sweep.rest && day == (if s.clock.valid then s.clock.day else 0) } } := by
  by_cases h : day = s.clock.dayBefore
  · have hkeep : (day == (if s.clock.valid then s.clock.day else 0)) = true := beq_iff_eq.2 h
    simp only [State.clockSet, if_pos h, hkeep, Bool.and_true]
    rfl
  · have hclear : (day == (if s.clock.valid then s.clock.day else 0)) = false := beq_eq_false_iff_ne.2 h
    simp only [State.clockSet, if_neg h, hclear, Bool.and_false]
    rfl

/-- Settles O45: each order is a REPLY, its change and `State.rederive`, which `State.Derived.rederive_eq` takes. -/
theorem clockAndSweepOrdersDeriveTheState : Obligations.ClockAndSweepOrdersDeriveTheState := by
  refine ⟨fun tag day h m x s hs => ⟨fun hbad => ?_, fun hday hh hm hx => ?_⟩, fun tag s hs => ?_⟩
  · have hparams : ¬ clockParams day h m x = true := by
      rw [clockParams_iff]
      omega
    exact hs.exec_of_reply (handle := fun c => setClockOrder c day h m x) nofun rfl rfl (if_neg hparams)
  · intro set t ht
    have hexec : exec (.setClock .m tag day h m x) s
        = .next (setClockOrder ⟨.m, tag, OrderKind.setClock.code⟩ day h m x s).finish :=
      hs.exec_of_arrival (handle := fun c => setClockOrder c day h m x) nofun rfl rfl
    have horder : setClockOrder ⟨.m, tag, OrderKind.setClock.code⟩ day h m x s = set.rederive := by
      rw [setClockOrder, if_pos (clockParams_iff.2 ⟨hday, hh, hm, hx⟩), hs.reply_eq, State.clockSet_eq,
        Nat.mul_comm h, Nat.mul_comm m]
      rfl
    rw [hexec, horder, hs.finish_derived (x := set) rfl rfl ht]
  · intro does
    have horder : ∀ (i : Instr) (k : OrderKind) (f : SweepRec → SweepRec), orderPermits k .m = true →
        exec i s = .next (s.arrival .m tag k fun c x => x.sweepOrder c f).finish → does i k (f s.sweep) :=
      fun i k f hk hi t ht => by
        rw [hs.exec_of_arrival nofun hk hi]
        simp only [State.sweepOrder, hs.reply_eq]
        exact congrArg _ (hs.finish_derived rfl rfl ht)
    refine ⟨horder _ _ (fun w => { w with enabled := true, rest := false }) rfl rfl,
      horder _ _ (fun w => { w with enabled := false }) rfl rfl, horder _ _ (fun w => { w with mcHold := true }) rfl rfl,
      horder _ _ (fun w => { w with mcHold := false }) rfl rfl, ?_⟩
    intro t ht
    rw [show exec (.sweepNewPass .m tag) s
      = .next (sweepNewPassOrder ⟨.m, tag, OrderKind.sweepNewPass.code⟩ s).finish from
        hs.exec_of_arrival (handle := sweepNewPassOrder) nofun rfl rfl]
    simp only [sweepNewPassOrder, State.sweepOrder, hs.reply_eq]
    exact congrArg _ (hs.finish_derived rfl rfl ht)

/-! ## SETTINGS_WRITE and SWEEP_SET (R169, R159) -/

/-- A settings write accepted in a running state otherwise settled: it begins at the end of the event, or waits for the
page in flight (R169, R172). -/
theorem State.acceptWrite_ends {s : State} (hs : s.Settled) (hr : s.store.phase = .running) (page : PageId)
    (d : PageData) (tag : Byte) :
    State.EventEnds { s with store := { s.store with settingsWrite := some ⟨page, d, tag⟩ } }
      (s.writeAccepted page d tag) := by
  refine ⟨hs.noLapse, _, s.writeAccepted page d tag, .inr ⟨fun ⟨h, _⟩ => ?_, rfl⟩, ?_, .inr ⟨fun ⟨h, _⟩ => ?_, rfl⟩⟩
  · have : s.store.phase = .quiescing := h
    simp [hr] at this
  · cases hf : s.store.inFlight with
    | some w => exact .inr ⟨.inr (by simp), by simp [State.writeAccepted, hf]⟩
    | none =>
      refine .inl ⟨by simp [hr], rfl, ?_⟩
      have haccepted : s.writeAccepted page d tag = { s with store :=
          { s.store with
            settingsWrite := some ⟨page, d, tag⟩, inFlight := some ⟨page, d, s.now + 50⟩ } } := by
        simp [State.writeAccepted, hf]
      rw [haccepted]
      exact .settings (s := { s with store := { s.store with settingsWrite := some ⟨page, d, tag⟩ } }) ⟨page, d, tag⟩ rfl
  · have : s.store.phase = .draining := h
    simp [hr] at this

theorem State.Hears.finish_acceptWrite {s : State} (hs : s.Hears .m) (tag : Byte) (k : OrderKind) (page : PageId)
    (d : PageData) : (s.acceptWrite ⟨.m, tag, k.code⟩ page d).finish
      = (s.answered .m tag k .accepted .none).writeAccepted page d tag := by
  simp only [State.acceptWrite, hs.reply_eq]
  exact (State.acceptWrite_ends (s := s.answered .m tag k .accepted .none)
    (hs.settled.of_running hs.running rfl rfl) hs.running page d tag).finish_eq

/-- Byte `n` of configuration page 1 formed from values as given (section 10.6). -/
theorem dataAt_config1Page (a z f l p c : Nat) (e : Bool) (n : Nat) : dataAt (config1Page a z f l p c e) n
    = ((bytes16 a ++ bytes16 z ++ bytes16 f ++ bytes16 l ++ [byteOf p] ++ bytes16 c
      ++ [byteOf (flagNat e)]).getD n 0).toNat := by
  rw [config1Page, dataAt_pageOfBytes _ _ (by simp [bytes16])]

/-- Settles O46: the checks of `settingsWriteOrder` in their order; an accepted write by `State.acceptWrite_ends`. -/
theorem settingsWritesBecomePending : Obligations.SettingsWritesBecomePending := by
  intro tag n d s hs refused
  have hexec : exec (.settingsWrite .m tag n d) s
      = .next (settingsWriteOrder ⟨.m, tag, OrderKind.settingsWrite.code⟩ n d s).finish :=
    hs.exec_of_arrival (handle := fun c => settingsWriteOrder c n d) nofun rfl rfl
  have hrefused : ∀ r, settingsWriteOrder ⟨.m, tag, OrderKind.settingsWrite.code⟩ n d s
      = s.reply ⟨.m, tag, OrderKind.settingsWrite.code⟩ r → refused r := fun r h => by
    show exec _ s = _
    rw [hexec, h, hs.finish_reply]
  refine ⟨fun hn => hrefused _ ?_, fun hlo hhi => hrefused _ ?_, fun k hk hlt => ⟨fun hbusy => hrefused _ ?_,
    fun hfree => ?_⟩, fun a z f l p c ha hz hf hl hp hc => ⟨fun hbusy => ?_, fun hfree =>
    ⟨config1Page a z f l p c s.sweepCfg.startEnabled, ?_, ?_⟩⟩⟩
  · have hpage : pageOf? n = none := finOf?_eq_none.2 hn
    simp only [settingsWriteOrder, hpage]
  · have hpage : pageOf? n = some ⟨n, by omega⟩ := finOf?_eq_some.2 rfl
    have hticket : isTicketPage ⟨n, by omega⟩ = true := by simpa [isTicketPage] using hlo
    simp only [settingsWriteOrder, hpage, hticket, if_true]
  · have hpage : pageOf? n = some k := finOf?_eq_some.2 hk.symm
    have hticket : ¬ isTicketPage k = true := by simp [isTicketPage]; omega
    simp only [settingsWriteOrder, hpage]
    rw [if_neg hticket, if_pos (Option.isSome_iff_ne_none.2 hbusy)]
  · have hpage : pageOf? n = some k := finOf?_eq_some.2 hk.symm
    have hticket : ¬ isTicketPage k = true := by simp [isTicketPage]; omega
    rw [hexec]
    simp only [settingsWriteOrder, hpage]
    rw [if_neg hticket, if_neg (by simp [hfree]), hs.finish_acceptWrite]
  · exact hs.exec_of_reply (handle := fun x => sweepSetOrder x a z f l p c) nofun rfl rfl
      (if_pos (Option.isSome_iff_ne_none.2 hbusy))
  · rw [hs.exec_of_arrival (handle := fun x => sweepSetOrder x a z f l p c) nofun rfl rfl, sweepSetOrder,
      if_neg (by simp [hfree]), hs.finish_acceptWrite]
  · intro at_
    have hat : ∀ i : Fin 32, at_ i = ((bytes16 a ++ bytes16 z ++ bytes16 f ++ bytes16 l ++ [byteOf p] ++ bytes16 c
        ++ [byteOf (flagNat s.sweepCfg.startEnabled)]).getD i.val 0).toNat := fun i => by
      rw [← dataAt_config1Page, dataAt, dif_pos i.isLt]
    refine ⟨?_, ?_, ?_, ?_, ?_, ?_, ?_, fun i hi => ?_⟩
    case refine_8 => rw [hat, List.getD_eq_default _ _ (by simpa [bytes16] using hi)]; rfl
    all_goals simp [hat, bytes16, byteOf_toNat, bytes16_word, flagNat_mod, Nat.mod_eq_of_lt, ha, hz, hf, hl, hp, hc]

/-! ## RESTART (R182, R45, R34) -/

/-- A bus as a restart's release decision leaves it while its relays move; another stays as it is (R37, R45). -/
def restartedRecord (r : BusRec) : BusRec :=
  if (r.state = .operating ∨ r.state = .switching) ∧ r.releasePending = none then pendingRecord .restart r else r

theorem restartedRecord_state (r : BusRec) : (restartedRecord r).state = r.state := by
  unfold restartedRecord
  split
  · exact pendingRecord_state _ _
  · rfl

/-- Where no bus is HELD, the release decisions of a restart mark the buses whose relays move (R45). -/
theorem State.restartWalk (bs : List BusId) : ∀ u : State, bs.Nodup → (∀ b, (u.bus b).state ≠ .held) →
    ReleaseWalk (fun r => r.state ≠ .free) .restart bs u
      { u with buses := Tab.ofFn fun b => if b ∈ bs then restartedRecord (u.bus b) else u.bus b } := by
  induction bs with
  | nil =>
    intro u _ _
    have hsame : (Tab.ofFn fun b => if b ∈ ([] : List BusId) then restartedRecord (u.bus b) else u.bus b) = u.buses :=
      Tab.ext_get fun b => by rw [Tab.get_ofFn, if_neg List.not_mem_nil]; rfl
    rw [hsame]
    exact .ends u
  | cons b bs ih =>
    intro u hnodup hheld
    obtain ⟨hb, hbs⟩ := List.nodup_cons.1 hnodup
    have hrest := ih (u.updBus b restartedRecord) hbs fun c => by
      rw [State.bus_updBus]
      split
      · rw [restartedRecord_state]
        exact hheld b
      · exact hheld c
    have hbuses : (Tab.ofFn fun x => if x ∈ bs then restartedRecord ((u.updBus b restartedRecord).bus x)
          else (u.updBus b restartedRecord).bus x)
        = Tab.ofFn fun x => if x ∈ b :: bs then restartedRecord (u.bus x) else u.bus x :=
      Tab.ext_get fun x => by
        rw [Tab.get_ofFn, Tab.get_ofFn]
        by_cases hx : x = b
        · subst hx
          rw [if_neg hb, if_pos List.mem_cons_self, State.bus_updBus_self]
        · rw [State.bus_updBus_ne _ _ (Ne.symm hx)]
          exact if_congr (by simp [hx]) rfl rfl
    rw [hbuses] at hrest
    have hsame : restartedRecord (u.bus b) = u.bus b → u.updBus b restartedRecord = u := State.updBus_same
    by_cases hmoving : (u.bus b).state = .operating ∨ (u.bus b).state = .switching
    · have hp : (u.bus b).state ≠ .free := by rcases hmoving with h | h <;> simp [h]
      refine .takes b bs u (u.updBus b restartedRecord) _ hp ?_ hrest
      by_cases hpending : (u.bus b).releasePending = none
      · rw [State.updBus_congr u b restartedRecord (pendingRecord .restart) (if_pos ⟨hmoving, hpending⟩)]
        exact .pending hmoving hpending
      · rw [hsame (if_neg fun h => hpending h.2)]
        exact .decided hmoving hpending
    · have hstays : u.updBus b restartedRecord = u := hsame (if_neg fun h => hmoving h.1)
      by_cases hfree : (u.bus b).state = .free
      · refine .passes b bs u _ (not_not.2 hfree) ?_
        rw [hstays] at hrest
        exact hrest
      · refine .takes b bs u u _ hfree (.ignored ?_) ?_
        · have := hheld b
          cases hst : (u.bus b).state <;> simp_all
        · rw [hstays] at hrest
          exact hrest

/-- While QUIESCING with a bus in use nothing is left for the event's end (R45, R172). -/
theorem State.Settled.quiescing {s t : State} (hs : s.Settled) (hr : s.store.phase = .running)
    (hstore : t.store = { s.store with phase := .quiescing, resetCause := .restart })
    (hlapse : t.lapseInHand = s.lapseInHand) (hb : ∃ b, (t.bus b).state ≠ .free) : t.Settled where
  noLapse := hlapse ▸ hs.noLapse
  notQuiet := fun _ => hb
  serviceIdle := by
    rw [hstore]
    exact .inr (hs.serviceIdle.resolve_left (by simp [hr]))
  notDrained := fun h => by simp [hstore] at h

/-- A restart that finds access quiet: the drain waits for a page in flight; with none the autoload begins (R174). -/
theorem State.quiet_finish {s t : State} (hs : s.Settled) (hr : s.store.phase = .running)
    (hstore : t.store = { s.store with phase := .quiescing, resetCause := .restart })
    (hlapse : t.lapseInHand = s.lapseInHand) (hb : ∀ b, (t.bus b).state = .free) :
    (s.store.inFlight ≠ none →
      t.finish = { t with store := { s.store with phase := .draining, resetCause := .restart } })
    ∧ (s.store.inFlight = none →
      t.finish = State.loadBegun { t with store := { s.store with phase := .draining, resetCause := .restart } }) := by
  have hidle : s.store.inFlight = none → s.store.settingsWrite = none ∧ ∀ k, s.store.dirty.get k = false := fun hf => by
    rcases hs.serviceIdle with h | h | ⟨hw, hd⟩
    · simp [hr] at h
    · simp [hf] at h
    · exact ⟨hw, anyDirty_iff.1 hd⟩
  have hquiet : t.store.phase = .quiescing := by rw [hstore]
  have hdraining : { t with store := { s.store with phase := .draining, resetCause := .restart } }
      = { t with store := { t.store with phase := .draining } } := by rw [hstore]
  refine ⟨fun hf => State.EventEnds.finish_eq ⟨hlapse ▸ hs.noLapse, _, _, .inl ⟨hquiet, hb, hdraining⟩,
      .inr ⟨.inr hf, rfl⟩, .inr ⟨fun h => hf h.2.2.1, rfl⟩⟩,
    fun hf => State.EventEnds.finish_eq ⟨hlapse ▸ hs.noLapse, _, _, .inl ⟨hquiet, hb, hdraining⟩,
      .inl ⟨nofun, hf, .idle (hidle hf).1 (hidle hf).2⟩, .inl ⟨rfl, (hidle hf).1, hf, (hidle hf).2, rfl⟩⟩⟩

theorem WaitsEnd.of_empty {t : State} {cause : WaitCause} (h : t.waitQueue = []) :
    WaitsEnd cause t.waitQueue t t := by
  rw [h]
  exact .ends t

/-- Settles O47: the release decisions by `State.ReleasesAll.eq`, the waits by `WaitsEnd.eq`; where no bus is HELD they come
to `State.restartWalk`. -/
theorem restartQuiescesThePart : Obligations.RestartQuiescesThePart := by
  intro tag s hs quiesced gives quiescing
  have hexec : ∀ t w, State.ReleasesAll { quiesced with store := quiescing } (fun r => r.state ≠ .free) .restart t →
      WaitsEnd .restart t.waitQueue t w → exec (.restart .m tag) s = .next w.finish := fun t w ht hw => by
    have horder : restartOrder ⟨.m, tag, OrderKind.restart.code⟩ s = w := by
      rw [restartOrder, hs.reply_eq, State.takeRestart, State.expireAll,
        show (State.enterRestart (s.answered .m tag .restart .accepted .none)).releaseWhere (fun r => r.state != .free)
          .restart = t from State.ReleasesAll.eq (fun r => by simp) ht, hw.eq]
    rw [hs.exec_of_arrival (handle := restartOrder) nofun rfl rfl, horder]
  refine ⟨fun hempty hheld => ⟨fun hbusy => ?_, fun hfree => ?_⟩, fun t w e ht hw he => ?_⟩
  · refine ⟨Tab.ofFn fun b => if b ∈ [(0 : BusId), 1, 2, 3] then restartedRecord (s.bus b) else s.bus b, ?_, fun b => ?_⟩
    · have hwalk := State.restartWalk [0, 1, 2, 3] { quiesced with store := quiescing } (by decide) hheld
      show exec _ s = _
      rw [hexec _ _ hwalk (.of_empty hempty)]
      refine congrArg _ (State.Settled.finish_eq (hs.settled.quiescing hs.running rfl rfl ?_))
      obtain ⟨b, hb⟩ := hbusy
      refine ⟨b, ?_⟩
      rw [State.bus, Tab.get_ofFn, if_pos (show b ∈ [(0 : BusId), 1, 2, 3] from mem_allBuses b), restartedRecord_state]
      exact hb
    · rw [Tab.get_ofFn, if_pos (show b ∈ [(0 : BusId), 1, 2, 3] from mem_allBuses b)]
      rfl
  · have hwalk : State.ReleasesAll { quiesced with store := quiescing } (fun r => r.state ≠ .free) .restart
        { quiesced with store := quiescing } :=
      .passes _ _ _ _ (not_not.2 (hfree 0)) <| .passes _ _ _ _ (not_not.2 (hfree 1)) <|
        .passes _ _ _ _ (not_not.2 (hfree 2)) <| .passes _ _ _ _ (not_not.2 (hfree 3)) <| .ends _
    obtain ⟨hwaiting, hloading⟩ :=
      State.quiet_finish (t := { quiesced with store := quiescing }) hs.settled hs.running rfl rfl hfree
    refine ⟨fun hf => ?_, fun hf => ?_⟩
    · show exec _ s = _
      rw [hexec _ _ hwalk (.of_empty hempty), hwaiting hf]
      rfl
    · show exec _ s = _
      rw [hexec _ _ hwalk (.of_empty hempty), hloading hf]
      rfl
  · rw [hexec t w ht hw, he.finish_eq]

end Sys2Proof.Machine
end

section
/-!
PROOFS. The measuring units: their timers (O48), the parts of a phase (O49), the phases of a step (O50).
-/

namespace Sys2Proof.Machine

/-! ## WARM_UP_END, STANDBY_DELAY_EXPIRY, DISCHARGE_END (R70, R71, R87) -/

section
variable {s : State} {u : MuId}

theorem State.warmUpEnd_idle (h : (s.mu u).state ≠ .warming) : s.warmUpEnd u = s := by
  simp only [State.warmUpEnd]
  split
  · exact absurd ‹_› h
  · rfl

theorem State.standbyExpiry_idle (h : (s.mu u).state ≠ .ready ∨ (s.mu u).standby = none) : s.standbyExpiry u = s := by
  simp only [State.standbyExpiry]
  split
  next hst hdue =>
    rcases h with h | h
    · exact absurd hst h
    · simp [h] at hdue
  · rfl

theorem State.dischargeEnd_idle (h : (s.mu u).state ≠ .discharging) : s.dischargeEnd u = s := by
  simp only [State.dischargeEnd]
  split
  · exact absurd ‹_› h
  · rfl

end

/-- A drained bus enters RELEASING: its unit, whose discharge has ended, is unbound, and a scan and the notice to RSS
follow (R39, R40). -/
theorem State.enterReleasing_drained {s : State} {b : BusId} {u : MuId} {f : MuRec → MuRec}
    (hbound : (s.bus b).boundMu = some u) (hf : (f (s.mu u)).state = .attached) :
    (s.updMu u f).enterReleasing b
      = ((s.updMu u fun m => freedUnit s.now s.config.standby (f m)).updBus b
          (drainedRecord (s.now + 10 * s.config.release))).scanThenTrigger := by
  have hbound' : ((s.updMu u f).bus b).boundMu = some u := hbound
  have hunit : (s.updMu u f).updMu u (unbindUnit s.now s.config.standby)
      = s.updMu u fun m => freedUnit s.now s.config.standby (f m) := by
    rw [State.updMu_updMu]
    exact State.updMu_congr _ _ _ _ (unbindUnit_attached _ _ hf)
  have horder : ((s.updMu u f).updBus b (drainedRecord (s.now + 10 * s.config.release))).unbindMu u
      = ((s.updMu u f).updMu u (unbindUnit s.now s.config.standby)).updBus b
          (drainedRecord (s.now + 10 * s.config.release)) := rfl
  rw [← hunit, ← horder]
  simp only [State.enterReleasing, hbound', ms_eq]
  rfl

/-- Settles O48, by the unit's state; the grant programme and the release as for a bus whose relays have come to rest. -/
theorem unitTimersMoveTheUnit : Obligations.UnitTimersMoveTheUnit := by
  intro u s
  refine ⟨fun hs hnot => ?_, fun b due hs hst hdue hbus => ?_, fun h => ?_, fun due hst hdue => ?_, fun hs hnot => ?_,
    fun b due hs hst hdue hbus => ?_⟩
  · exact congrArg _ ((congrArg State.finish (State.warmUpEnd_idle hnot)).trans hs.finish_eq)
  · intro at_ warm
    have hwarm : s.warmUpEnd u = warm.startGrantProgramme b := by
      simp only [State.warmUpEnd, hst, hdue, State.startBound, hbus]
      rfl
    have hexec : ∀ t, warm.startGrantProgramme b = t → t.Settled → exec (.warmUpEnd u) s = .next t := fun t ht hsettled =>
      congrArg _ ((congrArg State.finish (hwarm.trans ht)).trans hsettled.finish_eq)
    refine ⟨fun hidle => hexec warm ?_ (hs.congr' rfl rfl rfl), fun p l src tag hheld hbound hp hline hold htag =>
      hexec _ ?_ (hs.of_bus b rfl rfl ?_ fun x hx => ?_)⟩
    · rcases hidle with hnot | hnone
      · exact State.startGrantProgramme_of_not_held hnot
      · exact State.startGrantProgramme_idle (.inl hnone)
    · have hattached : (warm.mu u).state = .attached := congrArg MuRec.state (State.mu_updMu_self at_ u _)
      exact (State.startGrantProgramme_starts (s := warm) hheld hbound hp htag hattached).trans
        (State.startProgramme_eq (s := warm) hold hline)
    · show ((warm.updBus b fun r => { r with grantProgramme := none }).bus b).state ≠ .free
      rw [State.bus_updBus_self]
      show (s.bus b).state ≠ .free
      simp [hheld]
    · exact State.bus_updBus_ne warm (fun r => { r with grantProgramme := none }) hx.symm
  · exact congrArg _ (State.standbyExpiry_idle h)
  · refine congrArg Host.Outcome.next ?_
    simp only [State.standbyExpiry, hst, hdue]
    rfl
  · exact congrArg _ ((congrArg State.finish (State.dischargeEnd_idle hnot)).trans hs.finish_eq)
  · intro at_ open_ unbound
    have hend : s.dischargeEnd u = (at_.updMu u open_).drained (some b) := by
      simp only [State.dischargeEnd, hst, hdue, hbus]
      rfl
    refine ⟨fun hnot => ?_, fun hdraining hbound => ?_⟩
    · have hsame : s.dischargeEnd u = at_.updMu u open_ := hend.trans (if_neg hnot)
      have hsettled : (at_.updMu u open_).Settled := hs.congr' rfl rfl rfl
      exact congrArg _ ((congrArg State.finish hsame).trans hsettled.finish_eq)
    · have hreleases : s.dischargeEnd u = unbound.scanThenTrigger :=
        (hend.trans (if_pos hdraining)).trans (State.enterReleasing_drained (s := at_) hbound rfl)
      refine ⟨fun hun => ?_, fun t e ht he => ?_⟩
      · have hquiet : unbound.scanThenTrigger = unbound := (State.Unclaimed.tells (s := unbound) (hun.congr rfl rfl)).eq
        have hsettled : unbound.Settled :=
          hs.of_bus b rfl rfl (by rw [State.bus_updBus_self]; nofun) fun x hx => State.bus_updBus_ne _ _ hx.symm
        exact congrArg _ ((congrArg State.finish (hreleases.trans hquiet)).trans hsettled.finish_eq)
      · exact congrArg _ ((congrArg State.finish (hreleases.trans ht.eq)).trans he.finish_eq)

/-! ## A context and its step's record (R74, R76, R77) -/

section
variable {c : Context} {x : SnapStep}

theorem Context.Runs.step?_zero (h0 : c.stepIndex = 0) : c.step? = none := by simp [Context.step?, h0]

theorem Context.Runs.step?_eq (h : c.Runs x) (h1 : 1 ≤ c.stepIndex) : c.step? = some x := by
  have hne : c.stepIndex ≠ 0 := by omega
  rcases h with ⟨h0, -⟩ | ⟨-, hx⟩
  · exact absurd h0 hne
  · rw [Context.step?, if_neg hne, hx]

theorem Context.Runs.kind_eq (h : c.Runs x) : c.kind = x.kind := by
  by_cases h0 : c.stepIndex = 0
  · rcases h with ⟨-, hk, -⟩ | ⟨h1, -⟩
    · simp [Context.kind, Context.Runs.step?_zero h0, hk]
    · omega
  · simp [Context.kind, h.step?_eq (by omega)]

theorem Context.Runs.pair_eq (h : c.Runs x) : c.pair = x.pair := by
  by_cases h0 : c.stepIndex = 0
  · rcases h with ⟨-, -, hp, -⟩ | ⟨h1, -⟩
    · simp [Context.pair, Context.Runs.step?_zero h0, hp]
    · omega
  · simp [Context.pair, h.step?_eq (by omega)]

theorem Context.Runs.settleMs_eq (h : c.Runs x) : c.settleMs = x.settle := by
  by_cases h0 : c.stepIndex = 0
  · rcases h with ⟨-, -, -, hs, -⟩ | ⟨h1, -⟩
    · simp [Context.settleMs, Context.Runs.step?_zero h0, hs]
    · omega
  · simp [Context.settleMs, h.step?_eq (by omega)]

theorem Context.Runs.sampleCount_eq (h : c.Runs x) : c.sampleCount = x.samples := by
  by_cases h0 : c.stepIndex = 0
  · rcases h with ⟨-, -, -, -, hn⟩ | ⟨h1, -⟩
    · simp [Context.sampleCount, Context.Runs.step?_zero h0, hn]
    · omega
  · simp [Context.sampleCount, h.step?_eq (by omega)]

theorem Context.Runs.volts_eq (h : c.Runs x) (h1 : 1 ≤ c.stepIndex) : c.volts = x.source := by
  simp [Context.volts, h.step?_eq h1]

end

/-! ## HEAD_SET_UP_END, SETTLE_END, SAMPLE_ARRIVAL (R76, R90, R91) -/

section
variable {s : State} {u : MuId} {g : Stage} {c : Context}

theorem State.Measures.contextIn_eq (h : s.Measures u g c) : s.contextIn u g = some c := by
  obtain ⟨hst, hc, hg⟩ := h
  simp [State.contextIn, hst, hc, Option.filter, hg]

theorem State.contextIn_none (h : ∀ c, ¬ s.Measures u g c) : s.contextIn u g = none := by
  rw [Option.eq_none_iff_forall_ne_some]
  intro c hc
  unfold State.contextIn at hc
  split at hc
  next hst =>
    obtain ⟨hctx, hg⟩ := Option.filter_eq_some_iff.1 hc
    exact h c ⟨hst, hctx, by simpa using hg⟩
  · cases hc

end

theorem clipSample_eq (v : Int) : clipSample v = max (-20000) (min 20000 v) := by
  unfold clipSample sampleLimit
  split
  · omega
  · split <;> omega

theorem isClipped_eq (v : Int) : isClipped v = (max (-20000) (min 20000 v) != v) := by
  rw [Bool.eq_iff_iff, bne_iff_ne, isClipped, sampleLimit, Bool.or_eq_true, decide_eq_true_eq, decide_eq_true_eq]
  omega

theorem Accum.add_eq (a : Accum) (v : Int) : a.add v =
    ⟨a.count + 1, a.sum + max (-20000) (min 20000 v),
      a.sumSq + (max (-20000) (min 20000 v)).natAbs * (max (-20000) (min 20000 v)).natAbs,
      a.clip || max (-20000) (min 20000 v) != v⟩ := by
  rw [Accum.add, clipSample_eq, isClipped_eq]

/-- Settles O49: each part of a phase goes by its context (`State.Measures.contextIn_eq`). -/
theorem phasePartsFollowOneAnother : Obligations.PhasePartsFollowOneAnother := by
  intro u s
  refine ⟨fun h => ?_, fun hs h q f => ?_, fun hs h v => ?_, fun c x hx => ?_⟩
  · refine congrArg Host.Outcome.next ?_
    rw [State.headSetUpEnd, State.contextIn_none h]
  · have hsame : s.settleEnd u q f = s := by rw [State.settleEnd, State.contextIn_none h]
    exact congrArg _ ((congrArg State.finish hsame).trans hs.finish_eq)
  · have hsame : s.sampleArrival u v = s := by rw [State.sampleArrival, State.contextIn_none h]
    exact congrArg _ ((congrArg State.finish hsame).trans hs.finish_eq)
  · intro goes
    have hgoes : ∀ (d : Context) (t : State), s.Settled → t = State.putContext (s.reach c.due) u d → t.finish
        = State.updMu { s with now := max s.now c.due } u fun m => { m with context := some d } := by
      rintro d t hs rfl
      exact State.Settled.finish_eq (hs.congr' rfl rfl rfl)
    refine ⟨fun h => ?_, fun hs h hk q f => ?_, fun hs h hcount v => ?_⟩
    · refine congrArg Host.Outcome.next ?_
      rw [State.headSetUpEnd, h.contextIn_eq]
      simp only [ms_eq, hx.settleMs_eq]
      rfl
    · refine congrArg Host.Outcome.next (hgoes _ _ hs ?_)
      rw [State.settleEnd, h.contextIn_eq]
      exact if_neg (by rw [hx.kind_eq]; exact hk)
    · intro w
      have hshort : ¬ c.sampleCount ≤ (c.acc.add v).count := by
        rw [hx.sampleCount_eq, Accum.add]
        exact Nat.not_le.2 hcount
      refine congrArg Host.Outcome.next (hgoes _ _ hs ?_)
      rw [State.sampleArrival, h.contextIn_eq]
      refine (if_neg hshort).trans ?_
      rw [Accum.add_eq]
      rfl

/-! ## The last sample of a phase (R77, R79, R95, R99) -/

/-- The sample that brings a phase's count to N ends the phase (R95). -/
theorem State.sampleArrival_last {s : State} {u : MuId} {c : Context} {x : SnapStep} {v : Int}
    (h : s.Measures u .sampling c) (hx : c.Runs x) (hlast : x.samples ≤ c.acc.count + 1) :
    s.sampleArrival u v = State.endPhase { s with now := max s.now c.due } u
      { c with acc := c.acc.add v, due := c.due + 5 } := by
  rw [State.sampleArrival, h.contextIn_eq]
  exact if_pos (by rw [hx.sampleCount_eq]; exact hlast)

section
variable {s : State} {u : MuId} {c : Context} {x : SnapStep} {vf vm : Int}

/-- A phase M whose range test steps is taken once more on the new range (R99). -/
theorem State.endPhaseM_again {r : Range} (hstep : c.step? = some x) (hphase : c.phase = .m) (hrange : x.range = .auto)
    (hvf : c.vf = some vf) (htest : rangeTest (resInputs vf vm c.volts) c.range = some r) :
    s.endPhaseM u c vm = s.beginPhase u { c with range := r, ranged := true, vm := some vm } .mAgain := by
  have hauto : (c.step?.any fun y => y.range == .auto) = true := by simp [hstep, hrange]
  simp only [State.endPhaseM]
  rw [if_pos ⟨hphase, hauto⟩, hvf, Option.getD_some, htest]

/-- A phase M that no range step follows gives the step's result (R99, R100). -/
theorem State.endPhaseM_done (hstep : c.step? = some x) (hvf : c.vf = some vf)
    (hdone : c.phase = .m → x.range = .auto → rangeTest (resInputs vf vm c.volts) c.range = none) :
    s.endPhaseM u c vm = s.completeStep u c (resResult c vf vm) := by
  have hnone : (if c.phase = .m ∧ (c.step?.any fun y => y.range == .auto) = true
      then rangeTest (resInputs vf vm c.volts) c.range else none) = none := by
    split
    next h => exact hdone h.1 (by simpa [hstep] using h.2)
    · rfl
  simp only [State.endPhaseM]
  rw [hvf, Option.getD_some, hnone]

end

/-- Settles O50: `State.endPhase` by the phase, the next phase begun. -/
theorem lastSamplesBeginTheNextPhase : Obligations.LastSamplesBeginTheNextPhase := by
  intro u c x v s hs hm hx hlast a at_
  have hexec : ∀ d src, State.endPhase at_ u { c with acc := a, due := c.due + 5 } = at_.runOn u d src →
      exec (.sampleArrival u v) s = .next (at_.runOn u d src) := fun d src h => by
    have hsettled : (at_.runOn u d src).Settled := hs.congr' rfl rfl rfl
    exact congrArg _ ((congrArg State.finish ((State.sampleArrival_last hm hx hlast).trans h)).trans
      hsettled.finish_eq)
  refine ⟨fun h0 hphase => hexec _ _ ?_, fun h1 hphase hk hclip => hexec _ _ ?_,
    fun vf r h1 hphase hk hrange hclip hvf htest => hexec _ _ ?_⟩
  · simp only [State.endPhase, hphase, State.beginPhase, Context.enter, phaseApplies, Bool.or_false]
    rfl
  · have hvolts : c.volts = x.source := hx.volts_eq h1
    simp only [State.endPhase, hphase, hclip, State.beginPhase, Context.enter, phaseApplies, Bool.or_true]
    rw [← hvolts]
    rfl
  · have hvolts : c.volts = x.source := hx.volts_eq h1
    have hend : State.endPhase at_ u { c with acc := a, due := c.due + 5 }
        = State.endPhaseM at_ u { c with acc := a, due := c.due + 5 } a.mean := by
      simp only [State.endPhase, hphase, hclip]
      rfl
    rw [hend, State.endPhaseM_again (c := { c with acc := a, due := c.due + 5 }) (x := x) (vf := vf) (r := r)
      (hx.step?_eq h1) hphase hrange hvf
      (show rangeTest (resInputs vf a.mean c.volts) c.range = some r from hvolts ▸ htest)]
    simp only [State.beginPhase, Context.enter, phaseApplies, Bool.or_true]
    rw [← hvolts]
    rfl

end Sys2Proof.Machine
end

section
/-!
PROOFS. The completion of a step and the end of a programme (O51).
-/

namespace Sys2Proof.Machine

/-! ## A step's result (R77, R78, R79, R81, R101) -/

/-- A step's result reads nothing of the accumulator and the due time that its context holds. -/
theorem StepEnds.at_end {c : Context} {x : SnapStep} {a : Accum} {r : StepResult} (h : StepEnds c x a r) (n : Nat) :
    StepEnds { c with acc := a, due := n } x a r := by
  cases h with
  | precheck ae clip h0 hphase hleg => exact .precheck ae clip h0 hphase hleg
  | clipped h1 hae hbe hclip => exact .clipped h1 hae hbe hclip
  | vdc h1 hphase hk hclip => exact .vdc h1 hphase hk hclip
  | vac h1 hphase hk hclip => exact .vac h1 hphase hk hclip
  | res vf o h1 hk hclip hvf hdone ho => exact .res vf o h1 hk hclip hvf hdone ho

section
variable {s : State} {u : MuId} {c : Context} {x : SnapStep} {r : StepResult}

theorem clippedResult_eq (hx : c.Runs x) (mean : Int) : clippedResult c mean
    = { index := c.stepIndex, kind := x.kind, pair := x.pair, status := .done, value := some mean
        range := if x.kind = .res then some c.range else none, clip := true, ranged := c.ranged
        verdict := some .hazard } := by
  rw [clippedResult, hx.kind_eq, hx.pair_eq]

theorem plainResult_eq (hx : c.Runs x) (value : Int) : plainResult c value
    = { index := c.stepIndex, kind := x.kind, pair := x.pair, status := .done, value := some value
        verdict := some (judgeStep c.classRec x.kind value) } := by
  rw [plainResult, hx.kind_eq, hx.pair_eq]

/-- A phase's end that is its step's completion gives the step the result its kind calls for (R95). -/
theorem State.endPhase_completes (hx : c.Runs x) (h : StepEnds c x c.acc r) :
    s.endPhase u c = s.completeStep u c r := by
  cases h with
  | precheck ae clip h0 hphase hleg => simp only [State.endPhase, hphase, hleg, Option.getD_some, precheckResult]
  | clipped h1 hae hbe hclip =>
    rw [← clippedResult_eq hx]
    cases hphase : c.phase with
    | legAe => exact absurd hphase hae
    | legBe => exact absurd hphase hbe
    | single => simp only [State.endPhase, hphase, hclip, if_true]
    | f => simp only [State.endPhase, hphase, hclip, if_true]
    | m => simp only [State.endPhase, hphase, hclip, if_true]
    | mAgain => simp only [State.endPhase, hphase, hclip, if_true]
  | vdc h1 hphase hk hclip =>
    have hresult := plainResult_eq hx c.acc.mean
    rw [hk] at hresult
    rw [← hresult]
    simp [State.endPhase, hphase, hclip, hx.kind_eq, hk]
  | vac h1 hphase hk hclip =>
    have hresult := plainResult_eq hx (c.acc.rms : Int)
    rw [hk] at hresult
    rw [← hresult]
    simp [State.endPhase, hphase, hclip, hx.kind_eq, hk]
  | res vf o h1 hk hclip hvf hdone ho =>
    have hvolts : c.volts = x.source := hx.volts_eq h1
    have hphase : s.endPhase u c = s.endPhaseM u c c.acc.mean := by
      rcases hdone with h | ⟨h, -⟩ <;> simp [State.endPhase, h, hclip]
    have htest : c.phase = .m → x.range = .auto → rangeTest (resInputs vf c.acc.mean c.volts) c.range = none :=
      fun hm hauto => by
        rcases hdone with h | ⟨-, h | h⟩
        · simp [hm] at h
        · exact absurd hauto h
        · rw [hvolts, h]
    rw [hphase, State.endPhaseM_done (hx.step?_eq h1) hvf htest, resResult, hvolts, ← ho, hx.pair_eq]

/-- The charge meter's reading gives a CAP step its result (R101 to R104). -/
theorem capResult_eq (hx : c.Runs x) (hk : x.kind = .cap) (q : Nat) (full : Bool) {f : Nat}
    (hf : f = capacitance (if full then 500000 else min q 500000) x.source) : capResult c q full
    = { index := c.stepIndex, kind := .cap, pair := x.pair, status := .done, value := some (f : Int)
        isOver := full || distanceLimited f c.classRec.cpk
        verdict := some (judgeStep c.classRec .cap (f : Int)), distance := some (distanceOf f c.classRec.cpk) } := by
  have h1 : 1 ≤ c.stepIndex := by
    rcases hx with ⟨-, hvdc, -⟩ | ⟨h1, -⟩
    · simp [hk] at hvdc
    · exact h1
  have hcap : capacitance (chargeOf q full) c.volts = f := by
    rw [hx.volts_eq h1, hf]
    rfl
  rw [capResult, hx.pair_eq, hcap]

end

/-! ## What follows a step (R76, R82, R85, R86) -/

section
variable {s : State} {u : MuId} {c : Context} {r : StepResult}

/-- A step completed with room for STEP_RESULT (R82): the report and what follows the step. -/
theorem State.completeStep_eq (hroom : s.NoticeRoom c.holder) :
    s.completeStep u c r = (s.stepDone u c r).afterStep u { c with results := c.results.set c.stepIndex r } r := by
  have hreport : (s.updMu u fun m => { m with context := some (c.withResult r), source := none }).reportStep
      (c.withResult r) r = s.stepDone u c r := by
    unfold State.reportStep State.stepDone State.tellHolder
    cases hp : c.holder.port? with
    | none => simp only [Context.withResult, hp]; rfl
    | some p =>
      have hfree : 8 ≤ (s.updMu u fun m => { m with context := some (c.withResult r), source := none }).freeEntries p :=
        hroom p hp
      simp only [Context.withResult, hp]
      exact State.pushNotice_of_room hfree _
  rw [State.completeStep, hreport]
  rfl

/-- The context of a unit as its step is completed. -/
theorem State.stepDone_context (s : State) (u : MuId) (c : Context) (r : StepResult) :
    ((s.stepDone u c r).mu u).context = some { c with results := c.results.set c.stepIndex r } := by
  simp [State.stepDone, State.runOn]

theorem State.afterStep_hazard (h : r.verdict = some .hazard) : s.afterStep u c r = s.programmeEnds u .hazard :=
  if_pos h

theorem State.afterStep_complete (h : r.verdict ≠ some .hazard) (hlast : c.stepIndex = c.steps.length) :
    s.afterStep u c r = s.programmeEnds u .complete := by
  rw [State.afterStep, if_neg h, if_pos hlast]

/-- The next user step begun (R76 to R80): its first phase, for CAP with the source on. -/
theorem State.afterStep_next {y : SnapStep} (h : r.verdict ≠ some .hazard) (hy : c.steps[c.stepIndex]? = some y) :
    s.afterStep u c r
      = s.runOn u (c.atUserStep (c.stepIndex + 1) y s.now) (if y.kind = .cap then some y.source else none) := by
  have hlt : c.stepIndex < c.steps.length := (List.getElem?_eq_some_iff.1 hy).1
  have hd : c.atStep (c.stepIndex + 1) = { c with
      stepIndex := c.stepIndex + 1, vf := none, vm := none, legAe := none, ranged := false
      range := startRange y.range } := by
    simp [Context.atStep, Context.step?, hy]
  have hstep : (c.atStep (c.stepIndex + 1)).step? = some y := by simp [hd, Context.step?, hy]
  have hkind : (c.atStep (c.stepIndex + 1)).kind = y.kind := by simp [Context.kind, hstep]
  have hvolts : (c.atStep (c.stepIndex + 1)).volts = y.source := by simp [Context.volts, hstep]
  rw [State.afterStep, if_neg h, if_neg hlt.ne, State.beginStep, State.beginPhase]
  simp only [hkind, hvolts, Context.enter]
  rw [hd]
  obtain ⟨kind, pair, source, range, settle, samples⟩ := y
  cases kind with
  | vdc => simp only [firstPhase, phaseApplies, State.runOn, Context.atUserStep]
           rfl
  | vac => rfl
  | res => rfl
  | cap => rfl

end

/-! ## The end of a programme (R85, R86) -/

/-- A report to a holder and a change of a unit do not meet. -/
theorem State.tellHolder_updMu (s : State) (u : MuId) (f : MuRec → MuRec) (src : Source) (tag : Option Byte)
    (body : Port → ReportBody) : (s.updMu u f).tellHolder src tag body = (s.tellHolder src tag body).updMu u f := by
  unfold State.tellHolder
  cases src.port? <;> rfl

/-- Changes of the unit after a step's completion that agree on its record, whatever accumulator and due time its context
holds. -/
theorem State.stepDone_updMu {s : State} {u : MuId} {c : Context} {r : StepResult} {a : Accum} {n : Nat}
    {f g : MuRec → MuRec}
    (h : ∀ m : MuRec, f { m with
        context := some { c with acc := a, due := n, results := c.results.set c.stepIndex r }, source := none }
      = g { m with context := some { c with results := c.results.set c.stepIndex r }, source := none }) :
    (s.stepDone u { c with acc := a, due := n } r).updMu u f = (s.stepDone u c r).updMu u g := by
  have hf := State.tellHolder_updMu s u (fun m => { m with
    context := some { c with acc := a, due := n, results := c.results.set c.stepIndex r }, source := none })
    c.holder none fun p => .stepResult c.programme c.bus (s.lineFor p c.line) r
  have hg := State.tellHolder_updMu s u (fun m => { m with
    context := some { c with results := c.results.set c.stepIndex r }, source := none })
    c.holder none fun p => .stepResult c.programme c.bus (s.lineFor p c.line) r
  refine (congrArg (fun t => State.updMu t u f) hf).trans (Eq.trans ?_ (congrArg (fun t => State.updMu t u g) hg).symm)
  simp only [State.updMu_updMu, h]

/-- The unit at a programme's end is the same whatever accumulator and due time the context holds. -/
theorem endedUnit_alike (now d : Nat) (c : Context) (a : Accum) (n : Nat) (x : Option Context) (y : Option Int)
    (m : MuRec) : endedUnit now d { c with acc := a, due := n } { m with context := x, source := y }
      = endedUnit now d c { m with context := some c, source := none } := by
  unfold endedUnit
  cases c.sourceApplied <;> rfl

theorem State.stepDone_endProgramme (s : State) (u : MuId) (c : Context) (r : StepResult) (a : Accum) (n : Nat)
    (e : EndCause) : (s.stepDone u { c with acc := a, due := n } r).endProgramme u e
      = (s.stepDone u c r).endProgramme u e := by
  have hunit := State.stepDone_updMu (s := s) (u := u) (c := c) (r := r) (a := a) (n := n)
    (f := endedUnit s.now s.config.discharge
      { c with acc := a, due := n, results := c.results.set c.stepIndex r })
    (g := endedUnit s.now s.config.discharge { c with results := c.results.set c.stepIndex r })
    fun m => endedUnit_alike _ _ { c with results := c.results.set c.stepIndex r } a n _ _ m
  have hnow : ∀ d : Context, (s.stepDone u d r).now = s.now := fun d => State.tellHolder_now _ _ _ _
  have hconfig : ∀ d : Context, (s.stepDone u d r).config = s.config := fun d => State.tellHolder_config _ _ _ _
  have hstamp : ∀ d : Context, (s.stepDone u d r).stamp = s.stamp := fun d => by
    obtain ⟨ps, h⟩ := State.tellHolder_ports (s.runOn u { d with results := d.results.set d.stepIndex r } none) d.holder
      none fun p => .stepResult d.programme d.bus (s.lineFor p d.line) r
    rw [State.stepDone, h]
    rfl
  simp only [State.endProgramme, State.stepDone_context, hnow, hconfig, hstamp]
  rw [hunit]
  rfl

/-- What a programme's own end does is the same whatever accumulator and due time the context holds. -/
theorem State.stepDone_programmeEnds (s : State) (u : MuId) (c : Context) (r : StepResult) (a : Accum) (n : Nat)
    (e : EndCause) : (s.stepDone u { c with acc := a, due := n } r).programmeEnds u e
      = (s.stepDone u c r).programmeEnds u e := by
  simp only [State.programmeEnds, State.stepDone_context, State.stepDone_endProgramme]

section
variable {s w : State} {u : MuId} {c : Context} {e : EndCause}

theorem State.programmeEnds_of_desk {k : DeskId} (hc : (s.mu u).context = some c) (hw : s.ProgrammeEnds u c e w)
    (hold : c.holder = .desk k) : s.programmeEnds u e = w := by
  simp [State.programmeEnds, hc, hw.eq hc, hold, Source.automated]

/-- An automated holder's bus is released at the same event (R43, R86). -/
theorem State.programmeEnds_of_automated {t : State} {cause : Cause} (hc : (s.mu u).context = some c)
    (hw : s.ProgrammeEnds u c e w) (hold : c.holder = .mc ∨ c.holder = .rs)
    (he : e = .complete ∧ cause = .programmeDone ∨ e = .hazard ∧ cause = .hazard)
    (ht : w.Releases c.bus cause t) : s.programmeEnds u e = t := by
  have hauto : c.holder.automated = true := by rcases hold with h | h <;> rw [h] <;> rfl
  rcases he with ⟨rfl, rfl⟩ | ⟨rfl, rfl⟩ <;> simp [State.programmeEnds, hc, hw.eq hc, hauto, ht.eq]

end

/-- A step's completion, by its last phase's end or the charge meter, comes down to what follows a completed step. -/
theorem State.completes_of_event {s : State} {u : MuId} {c : Context} {x : SnapStep} {i : Instr} {r : StepResult}
    (hx : c.Runs x)
    (h : (∃ v, i = .sampleArrival u v ∧ s.Measures u .sampling c ∧ x.samples ≤ c.acc.count + 1
        ∧ StepEnds c x (c.acc.add v) r)
      ∨ ∃ q full, i = .settleEnd u q full ∧ s.Measures u .settle c ∧ x.kind = .cap
        ∧ (let f := capacitance (if full then 500000 else min q 500000) x.source
          r = {
            index := c.stepIndex, kind := .cap, pair := x.pair, status := .done, value := some (f : Int)
            isOver := full || distanceLimited f c.classRec.cpk
            verdict := some (judgeStep c.classRec .cap (f : Int)), distance := some (distanceOf f c.classRec.cpk) })) :
    ∃ a n, exec i s = .next
      (State.completeStep { s with now := max s.now c.due } u { c with acc := a, due := n } r).finish := by
  rcases h with ⟨v, rfl, hm, hlast, hr⟩ | ⟨q, full, rfl, hm, hk, hr⟩
  · refine ⟨c.acc.add v, c.due + 5, ?_⟩
    have hends := State.endPhase_completes (s := { s with now := max s.now c.due }) (u := u)
      (c := { c with acc := c.acc.add v, due := c.due + 5 }) (x := x) hx (hr.at_end _)
    exact congrArg (fun t => Host.Outcome.next (State.finish t)) ((State.sampleArrival_last hm hx hlast).trans hends)
  · refine ⟨c.acc, c.due, congrArg (fun t => Host.Outcome.next (State.finish t)) ?_⟩
    rw [State.settleEnd, hm.contextIn_eq, hr, ← capResult_eq hx hk q full rfl]
    exact if_pos (by rw [hx.kind_eq]; exact hk)

/-- The unit of a programme's end, its holder no RS (R85, R87). -/
theorem State.mu_ended (s : State) (u : MuId) (c : Context) (e : EndCause) :
    (s.ended u c e).mu u = unitAtEnd s.now s.config.discharge c (s.mu u) := by
  simp [State.ended]

theorem State.ended_bus (s : State) (u : MuId) (c : Context) (e : EndCause) : (s.ended u c e).bus = s.bus :=
  State.tellHolder_bus _ _ _ _

/-- After STEP_RESULT a holder with room for a notice still has room for a kept report. -/
theorem State.holderRoom_stepDone (s : State) {u : MuId} {c : Context} {r : StepResult} (h : s.NoticeRoom c.holder) :
    (s.stepDone u c r).HolderRoom c.holder := fun p hp => by
  have hroom := h p hp
  simp only [State.stepDone, State.tellHolder, hp]
  rw [State.freeEntries_enqueue, if_pos rfl]
  show 1 ≤ s.freeEntries p - 1
  omega

/-- Settles O51: the event is a completed step (`State.completes_of_event`), and what follows it the next step begun or the
programme's end, whose release `State.Releases.eq` takes. -/
theorem stepsComplete : Obligations.StepsComplete := by
  intro u c x i r s hs hx hevent hroom at_ d told
  obtain ⟨a, n, hexec⟩ := State.completes_of_event hx hevent
  have hdone : State.completeStep at_ u { c with acc := a, due := n } r
      = (at_.stepDone u { c with acc := a, due := n } r).afterStep u { d with acc := a, due := n } r :=
    State.completeStep_eq (c := { c with acc := a, due := n }) hroom
  have hcontext : (told.mu u).context = some d := at_.stepDone_context u c r
  have hnow : told.now = at_.now := State.tellHolder_now _ _ _ _
  have hstore : told.store = s.store := State.tellHolder_store _ _ _ _
  have hlapse : told.lapseInHand = s.lapseInHand := State.tellHolder_lapseInHand _ _ _ _
  have hbus : told.bus = s.bus := State.tellHolder_bus _ _ _ _
  have hfinish : ∀ t : State, t.lapseInHand = s.lapseInHand → t.store = s.store → t.bus = s.bus → t.finish = t :=
    fun t h₁ h₂ h₃ => State.Settled.finish_eq (hs.congr h₁ h₂ fun b hb => h₃ ▸ hb)
  refine ⟨fun y hverdict hy => ?_, fun e he => ?_⟩
  · have hnext : (at_.stepDone u { c with acc := a, due := n } r).afterStep u { d with acc := a, due := n } r
        = told.runOn u (d.atUserStep (c.stepIndex + 1) y at_.now)
            (if y.kind = .cap then some y.source else none) := by
      have hnow' : (at_.stepDone u { c with acc := a, due := n } r).now = at_.now := State.tellHolder_now _ _ _ _
      rw [State.afterStep_next (c := { d with acc := a, due := n }) hverdict hy, hnow']
      exact State.stepDone_updMu fun m => rfl
    rw [hexec, hdone, hnext]
    exact congrArg _ (hfinish _ hlapse hstore hbus)
  intro cause
  have hend : exec i s = .next (told.programmeEnds u e).finish := by
    have hafter : (at_.stepDone u { c with acc := a, due := n } r).afterStep u { d with acc := a, due := n } r
        = told.programmeEnds u e := by
      rcases he with ⟨rfl, hverdict⟩ | ⟨rfl, hverdict, hlast⟩
      · exact (State.afterStep_hazard hverdict).trans (at_.stepDone_programmeEnds u c r a n .hazard)
      · exact (State.afterStep_complete (c := { d with acc := a, due := n }) hverdict hlast).trans
          (at_.stepDone_programmeEnds u c r a n .complete)
    rw [hexec, hdone, hafter]
  have hcause : e = .complete ∧ cause = .programmeDone ∨ e = .hazard ∧ cause = .hazard := by
    rcases he with ⟨rfl, -⟩ | ⟨rfl, -⟩
    · exact .inr ⟨rfl, rfl⟩
    · exact .inl ⟨rfl, rfl⟩
  refine ⟨fun hticket => ?_, fun w f hw => ⟨fun k hold hf => ?_, fun hold t ht hf => ?_⟩⟩
  · have hends : c.holder ≠ .rs → told.ProgrammeEnds u d e (told.ended u d e) := fun hrs =>
      ⟨_, .inl ⟨hrs, at_.holderRoom_stepDone hroom, rfl⟩, .inl ⟨hticket, rfl⟩⟩
    have hended : (told.ended u d e).bus = s.bus := (State.ended_bus _ _ _ _).trans hbus
    have hended_lapse := (told.ended_lapseInHand u d e).trans hlapse
    have hended_store := (told.ended_store u d e).trans hstore
    refine ⟨fun k hold => ?_, fun hold hheld hbound => ⟨fun happlied => ?_, fun happlied hun => ?_⟩⟩
    · rw [hend, State.programmeEnds_of_desk hcontext (hends (by rw [hold]; nofun)) hold,
        hfinish _ hended_lapse hended_store hended]
    · have hunit : ((told.ended u d e).mu u).state = .discharging := by
        simp [State.mu_ended, unitAtEnd, d, happlied]
      have hrel : (told.ended u d e).Releases c.bus cause ((told.ended u d e).updBus c.bus (drainingRecord cause)) :=
        .drains u (by rw [hended]; exact hheld) (by rw [hended]; exact hbound) hunit
      have hsettled : ((told.ended u d e).updBus c.bus (drainingRecord cause)).Settled :=
        hs.of_bus c.bus hended_lapse hended_store (by rw [State.bus_updBus_self]; nofun) fun y hy =>
          (State.bus_updBus_ne _ _ hy.symm).trans (by rw [hended])
      rw [hend, State.programmeEnds_of_automated hcontext (hends (by rw [hold]; nofun)) (.inl hold) hcause hrel,
        hsettled.finish_eq]
    · have hunit : ((told.ended u d e).mu u).state = .attached := by
        simp [State.mu_ended, unitAtEnd, d, happlied]
      have hgives : (told.ended u d e).GivesBack c.bus :=
        .inr ⟨hun.congr (by simp [State.ended, told, State.stepDone, State.runOn, at_])
          (by simp [State.ended, told, State.stepDone, State.runOn, at_]), u, by rw [hended]; exact hbound, .inl hunit⟩
      have hsettled : ((told.ended u d e).givenBack c.bus cause).Settled :=
        hs.givenBack c.bus cause hended_lapse hended_store fun y _ => by rw [hended]
      rw [hend, State.programmeEnds_of_automated hcontext (hends (by rw [hold]; nofun)) (.inl hold) hcause
        (hgives.releases (by rw [hended]; exact hheld) cause), hsettled.finish_eq]
  · rw [hend, State.programmeEnds_of_desk hcontext hw hold, hf.finish_eq]
  · rw [hend, State.programmeEnds_of_automated hcontext hw hold hcause ht, hf.finish_eq]

end Sys2Proof.Machine
end

section
/-!
PROOFS. The sweep's events (O52), the clock (O53), the write service and the phases of a restart (O54, O55).
-/

namespace Sys2Proof.Machine

/-! ## Settled states after triggers and derivations -/

/-- A trigger leaves a settled state settled: where the part does not run nothing starts (R45). -/
theorem State.Triggered.settled {s t : State} (h : s.Triggered t) (hs : s.Settled) : t.Settled := by
  cases h with
  | passed => exact hs
  | attempted _ hm ht => exact ht.steady.settled hs hm.running

theorem State.Derived.settled {s t : State} (h : s.Derived t) (hs : s.Settled) : t.Settled := by
  obtain ⟨st, -, hactive, hother⟩ := h
  have hseen : (s.seen st).Settled := hs.congr' rfl rfl rfl
  by_cases hst : st = .active ∧ s.sweep.lastState ≠ .active
  · exact (hactive hst).settled hseen
  · exact hother hst ▸ hseen

/-! ## PACING_TIMER_EXPIRY and PASS_END (R154, R156) -/

theorem State.passEnded_buses (s : State) : s.passEnded.buses = s.buses := by
  unfold State.passEnded State.pushNotice
  split <;> rfl

/-- Settles O52, by the pacing timer and the condition of the pass's end. -/
theorem sweepEventsTakeTheirAttempts : Obligations.SweepEventsTakeTheirAttempts := by
  intro s hs
  refine ⟨fun hnone => ?_, fun due t hdue ht => ?_, fun hnot => ?_, fun hclosing htests => ?_⟩
  · have hsame : s.pacingExpiry = s := by simp [State.pacingExpiry, hnone]
    exact congrArg _ ((congrArg State.finish hsame).trans hs.finish_eq)
  · have hexpiry : s.pacingExpiry = t := by
      simp only [State.pacingExpiry, hdue]
      exact ht.trigger_eq
    exact congrArg _ ((congrArg State.finish hexpiry).trans (ht.settled (hs.congr' rfl rfl rfl)).finish_eq)
  · have hsame : s.passEndIfDue = s := if_neg fun h => hnot.elim (fun hc => by simp [hc] at h) fun ht => ht h.2
    exact congrArg _ ((congrArg State.finish hsame).trans hs.finish_eq)
  · have hend : s.passEndIfDue = s.passEnded := if_pos ⟨hclosing, htests⟩
    have hsettled : s.passEnded.Settled :=
      hs.congr' s.passEnded_steady.lapse s.passEnded_steady.store s.passEnded_buses
    exact congrArg _ ((congrArg State.finish hend).trans hsettled.finish_eq)

/-! ## CLOCK_ADVANCE (R148, R150) -/

theorem Clock.next_within {c : Clock} (h : c.second < 86399) :
    c.next = { c with second := c.second + 1, secondDue := c.secondDue + 10000 } :=
  if_neg (Nat.not_le.2 h)

theorem Clock.next_midnight {c : Clock} (h : c.second = 86399) :
    c.next = { c with day := (c.day + 1) % 65536, second := 0, secondDue := c.secondDue + 10000 } :=
  if_pos h.ge

/-- Settles O53: within a day the minute decides whether the sweep state is derived; at midnight the rest flag goes first. -/
theorem clockCountsTheSeconds : Obligations.ClockCountsTheSeconds := by
  intro s hs
  refine ⟨fun hinvalid => ?_, fun hvalid => ?_⟩
  · have hsame : s.clockAdvance = s := if_neg (by simp [hinvalid])
    exact congrArg _ ((congrArg State.finish hsame).trans hs.finish_eq)
  intro day second due at_
  have hadvance : s.clockAdvance = if s.clock.next.minute = s.clock.minute then
      (if s.clock.next.day = s.clock.day then { at_ with clock := s.clock.next }
        else State.clearRest { at_ with clock := s.clock.next })
      else (if s.clock.next.day = s.clock.day then { at_ with clock := s.clock.next }
        else State.clearRest { at_ with clock := s.clock.next }).rederive := if_pos hvalid
  refine ⟨fun hwithin => ?_, fun hmidnight => ?_⟩
  · intro t
    have hclock : s.clock.next = ⟨day, second + 1, true, due + 10000⟩ := by
      rw [Clock.next_within hwithin, hvalid]
    rw [hclock, if_pos rfl] at hadvance
    refine ⟨fun hsame => ?_, fun hminute t' ht => ?_⟩
    · have hsettled : t.Settled := hs.congr' rfl rfl rfl
      exact congrArg _ ((congrArg State.finish (hadvance.trans (if_pos hsame))).trans hsettled.finish_eq)
    · have hsettled : t'.Settled := ht.settled (hs.congr' rfl rfl rfl)
      exact congrArg _ ((congrArg State.finish ((hadvance.trans (if_neg hminute)).trans ht.rederive_eq)).trans
        hsettled.finish_eq)
  · intro t t' ht
    have hclock : s.clock.next = ⟨(day + 1) % 65536, 0, true, due + 10000⟩ := by
      rw [Clock.next_midnight hmidnight, hvalid]
    have hday : (day + 1) % 65536 ≠ s.clock.day := by
      show (day + 1) % 65536 ≠ day
      omega
    have hminute : Clock.minute ⟨(day + 1) % 65536, 0, true, due + 10000⟩ ≠ s.clock.minute := by
      have hlast : s.clock.minute = 86399 / 60 := congrArg (· / 60) hmidnight
      rw [hlast]
      show 0 / 60 ≠ 86399 / 60
      decide
    rw [hclock, if_neg hminute, if_neg hday] at hadvance
    have hsettled : t'.Settled := ht.settled (hs.congr' rfl rfl rfl)
    exact congrArg _ ((congrArg State.finish (hadvance.trans ht.rederive_eq)).trans hsettled.finish_eq)

/-! ## The write service's choice (R172) -/

section
variable {s t : State}

theorem State.Chooses.phase_eq (h : s.Chooses t) : t.store.phase = s.store.phase := by
  cases h <;> rfl

theorem State.Chooses.lapse_eq (h : s.Chooses t) : t.lapseInHand = s.lapseInHand := by
  cases h <;> rfl

theorem State.Chooses.buses_eq (h : s.Chooses t) : t.buses = s.buses := by
  cases h <;> rfl

/-- A choice that leaves nothing in flight found nothing to write. -/
theorem State.Chooses.idle_of_none (h : s.Chooses t) (hnone : t.store.inFlight = none) :
    t.store.settingsWrite = none ∧ ∀ k, t.store.dirty.get k = false := by
  cases h with
  | settings q _ => exact absurd hnone nofun
  | slot k _ _ => exact absurd hnone nofun
  | idle hw hd => exact ⟨hw, hd⟩

/-- After a choice the service has a page in flight, or nothing to begin. -/
theorem State.Chooses.serviceIdle (h : s.Chooses t) :
    t.store.inFlight.isSome = true ∨ (t.store.settingsWrite = none ∧ t.store.anyDirty = false) := by
  cases hf : t.store.inFlight with
  | some w => exact .inl rfl
  | none =>
    obtain ⟨hw, hd⟩ := h.idle_of_none hf
    exact .inr ⟨hw, anyDirty_iff.2 hd⟩

/-- The end of an event that leaves nothing in flight, where access is not quiet: the choice, and a drain with nothing
left begins the autoload (R172, R174). -/
theorem State.Chooses.finish_eq (h : s.Chooses t) (hlapse : s.lapseInHand = none) (hp : s.store.phase ≠ .loading)
    (hf : s.store.inFlight = none) (hquiet : ¬ (s.store.phase = .quiescing ∧ ∀ b, (s.bus b).state = .free)) :
    s.finish = if s.store.phase = .draining ∧ t.store.inFlight = none then t.loadBegun else t := by
  refine State.EventEnds.finish_eq ⟨hlapse, s, t, .inr ⟨hquiet, rfl⟩, .inl ⟨hp, hf, h⟩, ?_⟩
  split
  next hdone =>
    obtain ⟨hw, hd⟩ := h.idle_of_none hdone.2
    exact .inl ⟨h.phase_eq.trans hdone.1, hw, hdone.2, hd, rfl⟩
  next hnot => exact .inr ⟨fun hdone => hnot ⟨h.phase_eq ▸ hdone.1, hdone.2.2.1⟩, rfl⟩

end

/-! ## Page write completions (R170, R172) -/

theorem isTicketPage_iff {p : PageId} : isTicketPage p = true ↔ 106 ≤ p.val := by
  simp [isTicketPage]

theorem isTicketPage_below {p : PageId} (h : p.val < 106) : isTicketPage p = false :=
  Bool.eq_false_iff.2 fun ht => absurd (isTicketPage_iff.1 ht) (by omega)

theorem State.loadShadow_fields (s : State) (p : PageId) (d : PageData) :
    (s.loadShadow p d).store = s.store ∧ (s.loadShadow p d).ports = s.ports
      ∧ (s.loadShadow p d).lapseInHand = s.lapseInHand ∧ (s.loadShadow p d).buses = s.buses := by
  refine ⟨s.loadShadow_store p d, ?_⟩
  unfold State.loadShadow
  split
  case h_4 =>
    rw [State.loadMap]
    exact ⟨rfl, rfl, rfl⟩
  all_goals exact ⟨rfl, rfl, rfl⟩

section
variable {s : State} {p : PageId}

theorem State.pageEffects_config0 (h : p.val = 0) : s.pageEffects p = s.scan.rederive.sweepTrigger := by
  rw [State.pageEffects, pageKind_config0 h]

theorem State.pageEffects_config1 (h : p.val = 1) : s.pageEffects p = s.clearRest.rederive.sweepTrigger := by
  rw [State.pageEffects, pageKind_config1 h]

theorem State.pageEffects_lines (hlo : 2 ≤ p.val) (hhi : p.val < 74) : s.pageEffects p = s.pruneRetest := by
  by_cases hcls : p.val < 10
  · rw [State.pageEffects, pageKind_cls ⟨p.val - 2, by omega⟩ (by show p.val = 2 + (p.val - 2); omega)]
  · rw [State.pageEffects, pageKind_map ⟨p.val - 10, by omega⟩ (by show p.val = 10 + (p.val - 10); omega)]

theorem State.pageEffects_prog (hlo : 74 ≤ p.val) (hhi : p.val < 106) : s.pageEffects p = s := by
  by_cases heven : (p.val - 74) % 2 = 0
  · have hfirst : p.val = 74 + 2 * ((p.val - 74) / 2) := by omega
    rw [State.pageEffects, pageKind_progFirst ⟨(p.val - 74) / 2, by omega⟩ hfirst]
  · have hsecond : p.val = 75 + 2 * ((p.val - 74) / 2) := by omega
    rw [State.pageEffects, pageKind_progSecond ⟨(p.val - 74) / 2, by omega⟩ hsecond]

end

section
variable {s : State}

/-- A settings write's completion, as the shadow loaded, WRITE_DONE reported, the write absent, and the service's choice
taken leave it, with the effects of its page. -/
theorem State.settingsWritten_eq {w : InFlight} {q : PendingWrite} {t : State} (hw : s.store.inFlight = some w)
    (hq : s.store.settingsWrite = some q) (hpage : w.page.val < 106) (hp : s.store.phase ≠ .loading) (hroom : s.Room .m 1)
    (ht : State.Chooses (State.clearSettingsWrite
      (((s.written w).loadShadow w.page w.data).enqueue .m (some q.tag) (.writeDone w.page))) t) :
    s.settingsWritten = t.pageEffects w.page := by
  obtain ⟨hstore, hports, -⟩ := (s.written w).loadShadow_fields w.page w.data
  have hfree : ((s.written w).loadShadow w.page w.data).freeEntries .m = s.freeEntries .m := by
    simp only [State.freeEntries, State.port, hports]
    rfl
  have hkept : ((s.written w).loadShadow w.page w.data).pushKept .m (some q.tag) (.writeDone w.page)
      = ((s.written w).loadShadow w.page w.data).enqueue .m (some q.tag) (.writeDone w.page) :=
    State.pushKept_of_room (by rw [hfree]; exact Nat.pos_iff_ne_zero.1 hroom) _ _
  have hchosen := ht.choose_eq
    (by show ((s.written w).loadShadow w.page w.data).store.phase ≠ .loading; rw [hstore]; exact hp)
    (by show ((s.written w).loadShadow w.page w.data).store.inFlight = none; rw [hstore]; rfl)
  have hload : s.settingsWritten = ((((s.written w).loadShadow w.page w.data).pushKept .m (some q.tag)
      (.writeDone w.page)).clearSettingsWrite.chooseWrite).pageEffects w.page := by
    simp only [State.settingsWritten, hw, hq, isTicketPage_below hpage]
    rfl
  rw [hload, hkept, hchosen]

/-- While RUNNING the choice after a settings write's completion leaves the event settled. -/
theorem State.Chooses.settled_of_running {t : State} (h : s.Chooses t) (hlapse : s.lapseInHand = none)
    (hrun : s.store.phase = .running) : t.Settled where
  noLapse := h.lapse_eq.trans hlapse
  notQuiet hq := absurd (h.phase_eq.symm.trans hq) (by simp [hrun])
  serviceIdle := .inr h.serviceIdle
  notDrained hd := absurd (h.phase_eq.symm.trans hd) (by simp [hrun])

end

/-- Settles O54, by what is in flight; the effects of a settings page by its area. -/
theorem pageWritesComplete : Obligations.PageWritesComplete := by
  intro s hs
  have hnotQuiet : ¬ (s.store.phase = .quiescing ∧ ∀ b, (s.bus b).state = .free) := fun ⟨hq, hfree⟩ =>
    let ⟨b, hb⟩ := hs.notQuiet hq
    hb (hfree b)
  refine ⟨fun hnone => ?_, fun w t hw hpage hp ht => ?_, fun hnone => ?_, fun w q t hw hpage hq hp hroom => ?_⟩
  · have hsame : s.slotWritten = s := by
      cases hf : s.store.inFlight with
      | none => simp only [State.slotWritten, hf]
      | some w => simp [State.slotWritten, hf, isTicketPage_below (hnone w hf)]
    exact congrArg _ ((congrArg State.finish hsame).trans hs.finish_eq)
  · have hwritten : s.slotWritten = s.written w := by
      simp only [State.slotWritten, hw, isTicketPage_iff.2 hpage]
      rfl
    have hfinish := ht.finish_eq (s := s.written w) hs.noLapse hp rfl hnotQuiet
    have hends := (congrArg State.finish hwritten).trans hfinish
    refine ⟨fun hgoes => ?_, fun hdrain hidle => ?_⟩
    · exact congrArg _ (hends.trans (if_neg fun h => hgoes.elim (· h.1) (· h.2)))
    · exact congrArg _ (hends.trans (if_pos ⟨hdrain, hidle⟩))
  · have hsame : s.settingsWritten = s := by
      cases hf : s.store.inFlight with
      | none => simp only [State.settingsWritten, hf]
      | some w =>
        cases hq : s.store.settingsWrite with
        | none => simp only [State.settingsWritten, hf, hq]
        | some q => simp [State.settingsWritten, hf, hq, isTicketPage_iff.2 (hnone w q hf hq)]
    exact congrArg _ ((congrArg State.finish hsame).trans hs.finish_eq)
  · intro loaded ends ht
    have hwritten : s.settingsWritten = t.pageEffects w.page := State.settingsWritten_eq hw hq hpage hp hroom ht
    obtain ⟨hstore, -, hlapse, -⟩ := (s.written w).loadShadow_fields w.page w.data
    have hrunning : s.store.phase = .running → t.store.phase = .running := fun hrun =>
      ht.phase_eq.trans ((congrArg Store.phase hstore).trans hrun)
    have hsettled : s.store.phase = .running → t.Settled := fun hrun =>
      ht.settled_of_running (hlapse.trans hs.noLapse) ((congrArg Store.phase hstore).trans hrun)
    have hends : ∀ u, t.pageEffects w.page = u → (s.store.phase = .running → u.Settled) → ends u := fun u hu hset =>
      ⟨fun hrun => congrArg _ ((congrArg State.finish (hwritten.trans hu)).trans (hset hrun).finish_eq),
        fun e he => congrArg _ ((congrArg State.finish (hwritten.trans hu)).trans he.finish_eq)⟩
    refine ⟨fun hprog => ?_, fun hlo hhi => ?_, fun t₁ t₂ hone h₁ h₂ => ?_, fun t₀ t₁ t₂ hzero h₀ h₁ h₂ => ?_⟩
    · exact hends t (State.pageEffects_prog hprog hpage) hsettled
    · exact hends _ (State.pageEffects_lines hlo hhi) fun hrun => (hsettled hrun).congr' rfl rfl rfl
    · refine hends t₂ ?_ fun hrun => h₂.settled (h₁.settled ((hsettled hrun).congr' rfl rfl rfl))
      rw [State.pageEffects_config1 hone, State.clearRest, h₁.rederive_eq, h₂.trigger_eq]
    · refine hends t₂ ?_ fun hrun => h₂.settled (h₁.settled (h₀.steady.settled (hsettled hrun) (hrunning hrun)))
      rw [State.pageEffects_config0 hzero, h₀.scan_eq, h₁.rederive_eq, h₂.trigger_eq]

/-! ## The phases of a restart (R174) -/

section
variable {s : State}

theorem State.Settled.accessQuiet_stays (hs : s.Settled) : s.accessQuietIfDue = s := by
  refine if_neg fun ⟨hq, hall⟩ => ?_
  obtain ⟨b, hb⟩ := hs.notQuiet hq
  exact hb (all_free_iff.1 hall b)

theorem State.Settled.drainEnd_stays (hs : s.Settled) : s.drainEndIfDue = s := by
  refine if_neg fun ⟨hd, hwrite, hflight, hdirty⟩ => ?_
  rcases hs.notDrained hd with h | h | h
  · simp [Option.isNone_iff_eq_none.1 hwrite] at h
  · simp [Option.isNone_iff_eq_none.1 hflight] at h
  · exact hdirty h

theorem State.drainEnd_begins (hd : s.store.phase = .draining) (hwrite : s.store.settingsWrite = none)
    (hflight : s.store.inFlight = none) (hdirty : ∀ k, s.store.dirty.get k = false) : s.drainEndIfDue = s.loadBegun := by
  have hclean := anyDirty_iff.2 hdirty
  exact if_pos ⟨hd, by simp [hwrite], by simp [hflight], by simp [hclean]⟩

/-- An event that begins the autoload has nothing more to do. -/
theorem State.loadBegun_settled (h : s.lapseInHand = none) : s.loadBegun.Settled :=
  ⟨h, nofun, .inl rfl, nofun⟩

end

/-- Settles O55: a settled state has neither left to take; elsewhere each acts and the event ends. -/
theorem restartPhasesFollow : Obligations.RestartPhasesFollow := by
  intro s
  refine ⟨fun hs => ⟨?_, ?_⟩, fun hlapse => ⟨fun hq hfree => ?_, fun hd hwrite hflight hdirty => ?_⟩⟩
  · exact congrArg _ ((congrArg State.finish hs.accessQuiet_stays).trans hs.finish_eq)
  · exact congrArg _ ((congrArg State.finish hs.drainEnd_stays).trans hs.finish_eq)
  · intro drains
    have hacts : s.accessQuietIfDue = drains := if_pos ⟨hq, all_free_iff.2 hfree⟩
    refine ⟨fun hflight => ?_, fun hflight t ht => ?_⟩
    · have hsome : drains.store.inFlight.isSome = true := Option.isSome_iff_ne_none.2 hflight
      have hsettled : drains.Settled := ⟨hlapse, nofun, .inr (.inl hsome), fun _ => .inr (.inl hsome)⟩
      exact congrArg _ ((congrArg State.finish hacts).trans hsettled.finish_eq)
    · have hfinish : drains.finish = if t.store.inFlight = none then t.loadBegun else t := by
        rw [ht.finish_eq hlapse nofun hflight fun h => absurd h.1 nofun]
        exact if_congr (and_iff_right rfl) rfl rfl
      exact congrArg _ ((congrArg State.finish hacts).trans hfinish)
  · exact congrArg _ ((congrArg State.finish (State.drainEnd_begins hd hwrite hflight hdirty)).trans
      (State.loadBegun_settled hlapse).finish_eq)

end Sys2Proof.Machine
end

section
/-!
PROOFS. The pages an autoload reads (O56): the check (R165), what a bad page gives (R167), and what each shadow takes from a
page in the layouts of section 10.6.
-/

namespace Sys2Proof.Machine

/-! ## A page's check and the next page (R165, R167) -/

theorem sum_bytes_le (bs : List Byte) : (bs.map BitVec.toNat).sum ≤ bs.length * 255 := by
  induction bs with
  | nil => simp
  | cons b bs ih =>
    have := b.isLt
    simp only [List.map_cons, List.sum_cons, List.length_cons]
    omega

theorem pageGood_iff (d : PageData) (check : BitVec 16) :
    pageGood d check = true ↔ check.toNat + (d.items.map BitVec.toNat).sum = 65535 := by
  have hsum := sum_bytes_le d.items
  rw [d.size_eq] at hsum
  have hcheck := check.isLt
  rw [pageGood, beq_iff_eq, ← BitVec.toNat_inj, pageCheck, byteSum, BitVec.toNat_ofNat]
  omega

theorem isEmptySlotPage_iff (d : PageData) : isEmptySlotPage d = true ↔ ∀ i, d.get i = 0 := by
  rw [isEmptySlotPage, Tab.items_eq]
  simp

section
variable {s : State} {p : PageId}

/-- The page's turn taken, after what it gave is in `t` (R167). -/
def State.pageTaken (s t : State) : State :=
  { t with store := { t.store with loadIndex := s.store.loadIndex + 1, loadDue := s.store.loadDue + pageReadTime } }

theorem State.readPage_of_done (h : s.store.phase ≠ .loading ∨ 362 ≤ s.store.loadIndex) : s.readPage = s := by
  unfold State.readPage
  split
  next p hl hp =>
    have hlt := p.isLt
    rw [val_of_pageOf hp] at hlt
    exact absurd h (not_or.2 ⟨not_not.2 hl, Nat.not_le.2 hlt⟩)
  · rfl

theorem State.readPage_eq (hl : s.store.phase = .loading) (hp : s.store.loadIndex = p.val) : s.readPage
    = s.pageTaken (if pageGood (s.store.array.get p).data (s.store.array.get p).check
        then (s.reach s.store.loadDue).loadGood p (s.store.array.get p).data
        else (s.reach s.store.loadDue).loadDefault p) := by
  have hpage : pageOf? s.store.loadIndex = some p := finOf?_eq_some.2 hp
  simp only [State.readPage, hl, hpage]
  rfl

/-- A settings page's shadow does not depend on the autoload's place in the array. -/
theorem State.pageTaken_loadShadow (u : State) (d : PageData) : s.pageTaken (u.loadShadow p d)
    = (s.pageTaken u).loadShadow p d := by
  unfold State.loadShadow
  split
  case h_4 =>
    simp only [State.loadMap]
    rfl
  all_goals rfl

theorem State.loadGood_settings (s : State) (h : p.val < 106) (d : PageData) : s.loadGood p d = s.loadShadow p d := by
  unfold State.loadGood
  split
  case h_1 n hkind => exact absurd (pageKind_ticket hkind) (by omega)
  all_goals rfl

theorem State.loadGood_slot (s : State) {n : SlotId} (h : p.val = 106 + n.val) (d : PageData) : s.loadGood p d
    = if isEmptySlotPage d then s else { s with store := { s.store with image := s.store.image ++ [(n, d)] } } := by
  simp only [State.loadGood, pageKind_slot n h]

end

/-! ## Defaults of a programme's pages (R167) -/

theorem count_defaultEntry (q : ProgId) : (defaultEntry q).count = if q = 0 then 8 else 0 := by
  unfold defaultEntry
  split <;> rfl

theorem defaultFirstPage_steps (q : ProgId) (e : ProgEntry) (i : Fin 10) : (defaultFirstPage q e).steps.get i
    = if i.val / 5 = 0 then (defaultEntry q).steps.get i else e.steps.get i := by
  simp only [defaultFirstPage, Tab.get_mapIdx]
  exact if_congr (by omega) rfl rfl

theorem defaultSecondPage_steps (q : ProgId) (e : ProgEntry) (i : Fin 10) : (defaultSecondPage q e).steps.get i
    = if i.val / 5 = 1 then (defaultEntry q).steps.get i else e.steps.get i := by
  have := i.isLt
  simp only [defaultSecondPage, Tab.get_mapIdx]
  exact if_congr (by omega) rfl rfl

/-! ## What a shadow takes from a page (section 10.6) -/

theorem pageByte_bne_zero (d : PageData) (n : Nat) : (pageByte d n != 0#8) = (dataAt d n != 0) := by
  rw [← pageByte_toNat, Bool.eq_iff_iff, bne_iff_ne, bne_iff_ne, not_iff_not, ← BitVec.toNat_inj]
  rfl

theorem held_zero (b n : Nat) : held 0 b n = min b n := Nat.zero_max _

theorem loadWindow_eq (base count : Nat) : (loadWindow base count).base = min 2047 base
    ∧ (loadWindow base count).count = held 1 (2048 - (loadWindow base count).base) count := by
  refine ⟨Nat.min_comm .., clampNat_eq _ ?_⟩
  show 1 ≤ 2048 - min base 2047
  omega

theorem rateOfCode_above {n : Nat} (h : n = 1 ∨ 3 < n) : rateOfCode n = .b19200 := by
  match n, h with
  | 0, h | 2, h | 3, h => exact absurd h (by decide)
  | 1, _ | _ + 4, _ => rfl

/-- The kind's code as section 10.6 writes it. -/
theorem kindOfCode_code {n : Nat} (h : n < 4) : (kindOfCode n).code = n := by
  interval_cases n <;> rfl

theorem rangeOfCode_code {n : Nat} (h : n < 4) : (rangeOfCode n).code = n := by
  interval_cases n <;> rfl

theorem dataWord_lt (d : PageData) (n : Nat) : dataWord d n < 65536 := page16_eq d n ▸ page16_lt d n

theorem signed8_bounds (b : Byte) : -128 ≤ signed8 b ∧ signed8 b ≤ 127 ∧ (b.toNat : Int) = signed8 b % 256 := by
  have := b.isLt
  simp only [signed8, BitVec.toInt_eq_toNat_cond]
  split <;> omega

/-- A step record loaded from a page stands there as its bytes give it (R72). -/
theorem stepAt_loadStep (d : PageData) (n : Nat) : StepAt d n (loadStep d n) := by
  have hlt := dataAt_lt d n
  have hkind : (loadStep d n).kind.code = dataAt d n / 64 := by
    have hcode : (dataAt d n / 64) % 4 = dataAt d n / 64 := by omega
    simp only [loadStep, pageByte_toNat, hcode]
    exact kindOfCode_code (by omega)
  have hrange : (loadStep d n).range.code = dataAt d n % 4 := by
    simp only [loadStep, pageByte_toNat]
    exact rangeOfCode_code (by omega)
  refine ⟨hkind.symm.trans ?_, ?_, hrange.symm.trans ?_, ?_, ?_, ?_⟩
  · cases (loadStep d n).kind <;> rfl
  · simp [loadStep, pairCodeOf, pageByte_toNat]
  · rcases (loadStep d n).range with (_ | _ | _) | _ <;> rfl
  · rw [← pageByte_toNat]
    exact (signed8_bounds _).2.2
  · exact (page16_eq d (n + 2)).symm.trans (Nat.mod_eq_of_lt (page16_lt d (n + 2))).symm
  · rw [← pageByte_toNat]
    exact (Nat.mod_eq_of_lt (pageByte d (n + 4)).isLt).symm

section
variable (s : State) (d : PageData)

theorem State.loadShadow_config0 : ∃ c : Config0, s.loadShadow 0 d = { s with config := c }
    ∧ c.operate = held 5 50 (dataAt d 0) ∧ c.release = held 5 50 (dataAt d 1) ∧ c.switch = held 5 50 (dataAt d 2)
    ∧ (∀ k : DeskId, (c.windows.get k).base = min 2047 (dataWord d (3 + 4 * k.val))
      ∧ (c.windows.get k).count = held 1 (2048 - (c.windows.get k).base) (dataWord d (5 + 4 * k.val)))
    ∧ c.allowDesk = min 4 (dataAt d 19) ∧ c.allowMc = min 4 (dataAt d 20) ∧ c.allowRs = min 4 (dataAt d 21)
    ∧ c.busReserve = min 3 (dataAt d 22 % 16) ∧ c.muReserve = dataAt d 22 / 16 % 2
    ∧ c.deskWait = held 5 120 (dataAt d 23) ∧ c.mcWait = held 10 600 (dataWord d 24) ∧ c.grace = held 2 60 (dataAt d 26)
    ∧ c.interval = held 1 60 (dataAt d 27) ∧ c.standby = dataAt d 28 ∧ c.discharge = held 50 500 (dataWord d 29)
    ∧ (dataAt d 31 = 0 → c.rate = .b9600) ∧ (dataAt d 31 = 2 → c.rate = .b38400) ∧ (dataAt d 31 = 3 → c.rate = .b115200)
    ∧ (dataAt d 31 = 1 ∨ 3 < dataAt d 31 → c.rate = .b19200) := by
  refine ⟨loadConfig0 d, by rw [State.loadShadow, pageKind_config0 rfl], ?_⟩
  have hrate : (loadConfig0 d).rate = rateOfCode (dataAt d 31) := by rw [← pageByte_toNat]; rfl
  have hwindow : ∀ k : DeskId, (loadConfig0 d).windows.get k
      = loadWindow (dataWord d (3 + 4 * k.val)) (dataWord d (5 + 4 * k.val)) := fun k => by
    rw [← page16_eq, ← page16_eq, loadConfig0, Tab.get_ofFn]
  refine ⟨?_, ?_, ?_, fun k => by rw [hwindow]; exact loadWindow_eq _ _, ?_, ?_, ?_, ?_, ?_, ?_, ?_, ?_, ?_, ?_, ?_,
    fun h => by rw [hrate, h]; rfl, fun h => by rw [hrate, h]; rfl, fun h => by rw [hrate, h]; rfl,
    fun h => hrate.trans (rateOfCode_above h)⟩
  all_goals simp [loadConfig0, pageByte_toNat, page16_eq, clampNat_eq, held_zero]

theorem State.loadShadow_config1 : ∃ w : SweepCfg, s.loadShadow 1 d = { s with sweepCfg := w }
    ∧ w.windowStart = min (dataWord d 0) 1439 ∧ w.windowEnd = min (dataWord d 2) 1439
    ∧ w.first = min (dataWord d 4) 2047 ∧ w.last = max w.first (min (dataWord d 6) 2047)
    ∧ w.programme.val = min (dataAt d 8) 15 ∧ w.pacing = held 1 600 (dataWord d 9)
    ∧ w.startEnabled = (dataAt d 11 != 0) := by
  refine ⟨loadConfig1 d, by rw [State.loadShadow, pageKind_config1 rfl], ?_⟩
  simp [loadConfig1, heldProgramme, pageByte_toNat, page16_eq, clampNat_eq, pageByte_bne_zero]

theorem State.loadShadow_class {p : PageId} (c : ClassId) (h : p.val = 2 + c.val) : ∃ r : ClassRec,
    s.loadShadow p d = { s with classes := s.classes.set c r }
    ∧ r.hazardLimit = held 100 20000 (dataWord d 0)
    ∧ r.fdcWarn = min (held 1 20000 (dataWord d 2)) r.fdcFail ∧ r.fdcFail = held 1 20000 (dataWord d 4)
    ∧ r.facWarn = min (held 1 20000 (dataWord d 6)) r.facFail ∧ r.facFail = held 1 20000 (dataWord d 8)
    ∧ r.irWarn = max (min 1000000000 (dataLong d 10)) r.irFail ∧ r.irFail = min 1000000000 (dataLong d 14)
    ∧ r.capMin = dataWord d 18 ∧ r.cpk = held 20 100 (dataAt d 20) ∧ r.clearPasses = min 7 (dataAt d 21)
    ∧ r.isProtected = (dataAt d 22 != 0) ∧ r.inSweep = (dataAt d 23 != 0) := by
  refine ⟨loadClass d, by rw [State.loadShadow, pageKind_cls c h], ?_⟩
  simp [loadClass, orderLevels, clampClass, pageByte_toNat, page16_eq, page32_eq, clampNat_eq, held_zero,
    pageByte_bne_zero]

theorem State.loadShadow_map {p : PageId} (m : Fin 64) (h : p.val = 10 + m.val) : ∃ lines : Tab LineRec 2048,
    s.loadShadow p d = { s with lines := lines }
    ∧ ∀ l : LineId, (l.val / 32 ≠ m.val → lines.get l = s.line l)
      ∧ ∃ c : ClassId, c.val = min 7 (dataAt d (l.val % 32))
        ∧ (l.val / 32 = m.val → lines.get l = { s.line l with cls := c }) := by
  refine ⟨_, by rw [State.loadShadow, pageKind_map m h]; rfl, fun l => ⟨fun hne => ?_, ?_⟩⟩
  · rw [Tab.get_mapIdx, if_neg hne]
    rfl
  · refine ⟨loadClassId (pageByte d (l.val % 32)), ?_, fun heq => ?_⟩
    · rw [← pageByte_toNat]
      exact Nat.min_comm ..
    · rw [Tab.get_mapIdx, if_pos heq]
      rfl

theorem State.loadShadow_programme {p : PageId} (q : ProgId) (h : p.val = 74 + 2 * q.val ∨ p.val = 75 + 2 * q.val) :
    ∃ e : ProgEntry, s.loadShadow p d = { s with library := s.library.set q e }
      ∧ e.count = (if p.val % 2 = 0 then min 10 (dataAt d 0) else (s.library.get q).count)
      ∧ ∀ i : Fin 10, e.steps.get i = if p.val % 2 = i.val / 5
        then loadStep d (if i.val < 5 then 1 + 6 * i.val else 6 * (i.val - 5)) else (s.library.get q).steps.get i := by
  rcases h with h | h
  · have hpar : p.val % 2 = 0 := by omega
    refine ⟨loadFirstPage d (s.library.get q), by rw [State.loadShadow, pageKind_progFirst q h], ?_, fun i => ?_⟩
    · rw [if_pos hpar, ← pageByte_toNat]
      exact Nat.min_comm ..
    · rw [loadFirstPage, Tab.get_mapIdx, hpar]
      by_cases hi : i.val < 5
      · rw [if_pos hi, if_pos (by omega), if_pos hi]
      · rw [if_neg hi, if_neg (by omega)]
  · have hpar : p.val % 2 = 1 := by omega
    refine ⟨loadSecondPage d (s.library.get q), by rw [State.loadShadow, pageKind_progSecond q h], ?_, fun i => ?_⟩
    · rw [if_neg (by omega)]
      rfl
    · have hlt := i.isLt
      rw [loadSecondPage, Tab.get_mapIdx, hpar]
      by_cases hi : i.val < 5
      · rw [if_neg (by omega), if_neg (by omega)]
      · rw [if_pos (by omega), if_pos (by omega), if_neg hi]

end

theorem loadStep_bounds (d : PageData) (n : Nat) : (loadStep d n).settle < 65536 ∧ (loadStep d n).samples < 256
    ∧ -128 ≤ (loadStep d n).source ∧ (loadStep d n).source ≤ 127 :=
  ⟨page16_lt d (n + 2), (pageByte d (n + 4)).isLt, (signed8_bounds _).1,
    (signed8_bounds _).2.1⟩

/-- Settles O56: the page by its area, good or bad by its check; the layouts by what `loadShadow` takes from each. -/
theorem autoloadReadsThePages : Obligations.AutoloadReadsThePages := by
  refine ⟨fun s => ⟨fun h => congrArg _ (State.readPage_of_done h), fun p hl hp => ?_⟩, fun s d =>
    ⟨s.loadShadow_config0 d, s.loadShadow_config1 d, fun _ c h => s.loadShadow_class d c h,
      fun _ m h => s.loadShadow_map d m h, fun p q h => ?_⟩⟩
  · intro page k read gives bad
    have hread := State.readPage_eq hl hp
    have htaken : s.pageTaken (s.reach s.store.loadDue) = read := by
      rw [State.pageTaken, hp]
      rfl
    refine ⟨fun hcheck => ?_, fun hcheck => ?_⟩
    · rw [if_pos ((pageGood_iff _ _).2 hcheck)] at hread
      refine ⟨fun hlow => ?_, fun n hn => ?_⟩
      · refine congrArg _ (hread.trans ?_)
        rw [State.loadGood_settings _ hlow, State.pageTaken_loadShadow, htaken]
      · rw [State.loadGood_slot _ hn] at hread
        refine ⟨fun hzero => ?_, fun i hi => ?_⟩
        · rw [if_pos ((isEmptySlotPage_iff _).2 hzero)] at hread
          exact congrArg _ (hread.trans htaken)
        · rw [if_neg fun hz => hi ((isEmptySlotPage_iff _).1 hz i), State.pageTaken, hp] at hread
          exact congrArg _ hread
    · rw [if_neg fun hg => hcheck ((pageGood_iff _ _).1 hg), State.pageTaken, hp] at hread
      refine ⟨fun h => ?_, fun h => ?_, fun c h => ?_, fun m h => ?_, fun q h => ?_, fun h => ?_⟩
      · rw [State.loadDefault, pageKind_config0 h] at hread
        exact congrArg _ hread
      · rw [State.loadDefault, pageKind_config1 h] at hread
        exact congrArg _ hread
      · rw [State.loadDefault, pageKind_cls c h] at hread
        exact congrArg _ hread
      · rw [State.loadDefault, pageKind_map m h] at hread
        exact congrArg _ hread
      · rcases h with h | h
        · rw [State.loadDefault, pageKind_progFirst q h] at hread
          refine ⟨_, congrArg _ hread, ?_, fun i => ?_⟩
          · rw [if_neg (by omega)]
            exact count_defaultEntry q
          · rw [show p.val % 2 = 0 by omega]
            exact (defaultFirstPage_steps _ _ i).trans (if_congr eq_comm rfl rfl)
        · rw [State.loadDefault, pageKind_progSecond q h] at hread
          refine ⟨_, congrArg _ hread, ?_, fun i => ?_⟩
          · rw [if_pos (by omega)]
            rfl
          · rw [show p.val % 2 = 1 by omega]
            exact (defaultSecondPage_steps _ _ i).trans (if_congr eq_comm rfl rfl)
      · have hlt := p.isLt
        rw [State.loadDefault, pageKind_slot ⟨p.val - 106, by omega⟩ (by show p.val = 106 + (p.val - 106); omega)] at hread
        exact congrArg _ hread
  · obtain ⟨e, he, hcount, hsteps⟩ := s.loadShadow_programme d q h
    refine ⟨e, he, hcount, fun i => ⟨fun hne => (hsteps i).trans (if_neg hne), fun heq => ?_⟩⟩
    have hstep := (hsteps i).trans (if_pos heq)
    exact hstep ▸ ⟨stepAt_loadStep d _, loadStep_bounds d _⟩

end Sys2Proof.Machine
end

section
/-!
PROOFS. The measurement arithmetic of chapter 5 and the clamps of a snapshot's step (O59). Each quotient is pinned by the two
inequalities around it.
-/

namespace Sys2Proof.Machine

/-! ## Quotients -/

/-- A floor of a quotient is the one whole number its two inequalities leave. -/
theorem ediv_of_bounds {n d x : Int} (hd : 0 < d) (hle : x * d ≤ n) (hlt : n < (x + 1) * d) : n / d = x :=
  le_antisymm (Int.lt_add_one_iff.1 (Int.ediv_lt_of_lt_mul hd hlt)) (Int.le_ediv_of_mul_le hd hle)

theorem ediv_bounds (n : Int) {d : Int} (hd : 0 < d) : n / d * d ≤ n ∧ n < (n / d + 1) * d :=
  ⟨Int.ediv_mul_le n hd.ne', Int.lt_ediv_add_one_mul_self n hd⟩

/-! ## Mean and RMS (R92, R93) -/

section
variable {a : Accum}

theorem Accum.mean_bounds (h : 1 ≤ a.count) : a.mean * a.count ≤ a.sum + (a.count / 2 : Nat)
    ∧ a.sum + (a.count / 2 : Nat) < (a.mean + 1) * a.count :=
  ediv_bounds _ (by omega)

theorem Accum.mean_within (h : 1 ≤ a.count) (hlo : -20000 * (a.count : Int) ≤ a.sum) (hhi : a.sum ≤ 20000 * a.count) :
    -20000 ≤ a.mean ∧ a.mean ≤ 20000 := by
  have hpos : (0 : Int) < a.count := by omega
  refine ⟨Int.le_ediv_of_mul_le hpos (by omega), Int.lt_add_one_iff.1 (Int.ediv_lt_of_lt_mul hpos ?_)⟩
  show a.sum + (a.count / 2 : Nat) < (20000 + 1) * (a.count : Int)
  omega

theorem Accum.rms_eq {f : Int} (hf : f = ((a.sumSq / a.count : Nat) : Int) - a.mean * a.mean) :
    a.rms = min (isqrt f.toNat) 20000 := by
  rw [hf]
  rfl

theorem Accum.rms_of_nonpos {f : Int} (hf : f = ((a.sumSq / a.count : Nat) : Int) - a.mean * a.mean) (h : f ≤ 0) :
    a.rms = 0 := by
  rw [Accum.rms_eq hf, Int.toNat_of_nonpos h]
  rfl

theorem Accum.rms_of_root {f : Int} (hf : f = ((a.sumSq / a.count : Nat) : Int) - a.mean * a.mean) {r : Nat} (hnn : 0 ≤ f)
    (hmax : f ≤ 400000000) (hle : (r : Int) * r ≤ f) (hlt : f < ((r : Int) + 1) * (r + 1)) : a.rms = r := by
  obtain ⟨v, rfl⟩ := Int.eq_ofNat_of_zero_le hnn
  have hle' : r * r ≤ v := by exact_mod_cast hle
  have hlt' : v < (r + 1) * (r + 1) := by exact_mod_cast hlt
  have hroot : Nat.sqrt v = r := (Nat.eq_sqrt.2 ⟨hle', hlt'⟩).symm
  have hr : r ≤ 20000 := Nat.mul_self_le_mul_self_iff.1 (by omega)
  rw [Accum.rms_eq hf, Int.toNat_natCast, isqrt_eq_sqrt (by omega), hroot]
  exact Nat.min_eq_left hr

end

/-! ## Resistance (R96 to R99) -/

theorem resInputs_of_nonneg (vf vm : Int) {v : Int} (h : 0 ≤ v) : resInputs vf vm v = ⟨v * 100, vm - vf, v * 100 - vm⟩ :=
  if_neg (by omega)

/-- A negative source turns every voltage round (R96). -/
theorem resInputs_of_neg (vf vm : Int) {v : Int} (h : v < 0) : resInputs vf vm v = resInputs (-vf) (-vm) (-v) := by
  rw [resInputs_of_nonneg _ _ (by omega : 0 ≤ -v), Int.neg_mul]
  exact if_pos (by omega)

section
variable {rs : Nat} {i : ResInputs}

theorem resistance_open (h : i.den ≤ 2) : resistance rs i = ⟨1000000000, true, false⟩ := if_pos h

theorem resistance_short (hden : 2 < i.den) (hnum : i.num ≤ 0) : resistance rs i = ⟨0, false, true⟩ := by
  rw [resistance, if_neg (by omega), if_pos hnum]

theorem resistance_rounded {x : Nat} (hden : 2 < i.den) (hnum : 0 < i.num) (hle : (x : Int) * i.den ≤ rs * i.num + i.den / 2)
    (hlt : rs * i.num + i.den / 2 < ((x : Int) + 1) * i.den) :
    resistance rs i = if 1000000000 < x then ⟨1000000000, true, false⟩ else ⟨x, false, false⟩ := by
  have hquot := ediv_of_bounds (by omega) hle hlt
  rw [resistance, if_neg (by omega), if_neg (by omega), hquot]
  exact if_congr Nat.cast_lt rfl rfl

theorem rangeTest_up (h : i.den < i.vs / 20) : rangeTest i .r100k = some .r1m := if_pos ⟨h, rfl⟩

theorem rangeTest_down (hden : i.vs / 20 ≤ i.den) (hnum : i.num < i.vs / 20) : rangeTest i .r100k = some .r10k :=
  (if_neg fun h => Int.not_lt.2 hden h.1).trans (if_pos ⟨hnum, rfl⟩)

theorem rangeTest_stays (hden : i.vs / 20 ≤ i.den) (hnum : i.vs / 20 ≤ i.num) (r : Range) : rangeTest i r = none :=
  (if_neg fun h => Int.not_lt.2 hden h.1).trans (if_neg fun h => Int.not_lt.2 hnum h.1)

end

/-! ## Capacitance and distance (R102, R103) -/

/-- No charge the meter gives at 10 V or more reaches the limit of the field. -/
theorem capacitance_bounds {q : Nat} {v : Int} (hq : q ≤ 500000) (hv : 10 ≤ v.natAbs) :
    capacitance q v * (v.natAbs * 100) ≤ q * 100 + v.natAbs * 100 / 2
      ∧ q * 100 + v.natAbs * 100 / 2 < (capacitance q v + 1) * (v.natAbs * 100) ∧ capacitance q v ≤ 50000 := by
  have hpos : 0 < v.natAbs * 100 := by omega
  have hsmall : (q * 100 + v.natAbs * 100 / 2) / (v.natAbs * 100) < 50001 := by
    refine (Nat.div_lt_iff_lt_mul hpos).2 ?_
    omega
  have hcap : capacitance q v = (q * 100 + v.natAbs * 100 / 2) / (v.natAbs * 100) := Nat.min_eq_left (by omega)
  rw [hcap]
  exact ⟨Nat.div_mul_le_self .., Nat.lt_mul_of_div_lt (Nat.lt_succ_self _) hpos, by omega⟩

section
variable {c k d : Nat}

theorem rawDistance_eq (hle : d * k ≤ c * 1000 + k / 2) (hlt : c * 1000 + k / 2 < (d + 1) * k) :
    rawDistance c k = d := Nat.div_eq_of_lt_le hle hlt

theorem distance_within (hraw : rawDistance c k = d) (h : d ≤ 99999) : distanceOf c k = d ∧ distanceLimited c k = false := by
  rw [distanceOf, distanceLimited, hraw]
  exact ⟨Nat.min_eq_left h, decide_eq_false (Nat.not_lt.2 h)⟩

theorem distance_limited (hraw : rawDistance c k = d) (h : 99999 < d) :
    distanceOf c k = 99999 ∧ distanceLimited c k = true := by
  rw [distanceOf, distanceLimited, hraw]
  exact ⟨Nat.min_eq_right h.le, decide_eq_true h⟩

end

/-! ## The clamps of a snapshot's step (R75) -/

theorem clampSettle_eq (n : Nat) : clampSettle n = max 10 (min 2000 n) := by
  unfold clampSettle
  split_ifs <;> omega

theorem clampSource_zero : clampSource 0 = 10 := rfl

theorem clampSource_pos {v : Int} (h : 0 < v) : clampSource v = max 10 (min 120 v) := by
  unfold clampSource
  split_ifs <;> omega

theorem clampSource_neg {v : Int} (h : v < 0) : clampSource v = min (-10) (max (-120) v) := by
  unfold clampSource
  split_ifs <;> omega

/-- A sample count is brought down to a power of two, 0 up to 1 and above 64 down to 64. -/
theorem clampSamples_power (s : Nat) : ∃ n, n ≤ 6 ∧ clampSamples s = 2 ^ n ∧ (s = 0 → n = 0) ∧ (64 ≤ s → n = 6)
    ∧ (1 ≤ s → s ≤ 64 → 2 ^ n ≤ s ∧ s < 2 ^ (n + 1)) := by
  unfold clampSamples
  split_ifs
  · exact ⟨0, by omega⟩
  · exact ⟨1, by omega⟩
  · exact ⟨2, by omega⟩
  · exact ⟨3, by omega⟩
  · exact ⟨4, by omega⟩
  · exact ⟨5, by omega⟩
  · exact ⟨6, by omega⟩

theorem pairOfCode_ab {k : Fin 4} (h : k = 0 ∨ k = 3) : pairOfCode k = .ab := by
  rcases h with rfl | rfl <;> rfl

/-- Settles O59, result by result. -/
theorem resultsAreWorkedExactly : Obligations.ResultsAreWorkedExactly := by
  refine ⟨fun a h => ⟨a.mean_bounds h, a.mean_within h, Nat.min_le_right .., fun f hf =>
      ⟨Accum.rms_of_nonpos hf, fun r => Accum.rms_of_root hf⟩⟩,
    fun vf vm v => ⟨resInputs_of_nonneg vf vm, resInputs_of_neg vf vm⟩, fun g i => ?_,
    fun i => ⟨rangeTest_up, rangeTest_down, rangeTest_stays⟩, fun q v hq hv _ => capacitance_bounds hq hv,
    fun c k d _ hle hlt => ⟨distance_within (rawDistance_eq hle hlt), distance_limited (rawDistance_eq hle hlt)⟩,
    fun r => ?_⟩
  · intro rs
    have hohms : g.ohms = rs := by cases g <;> rfl
    rw [hohms]
    exact ⟨resistance_open, resistance_short, fun x => resistance_rounded⟩
  · refine ⟨rfl, rfl, clampSettle_eq _, clampSamples_power _, fun h => ?_, clampSource_pos, clampSource_neg, fun h => ?_,
      fun h => ?_, pairOfCode_ab⟩
    · exact (congrArg clampSource h).trans clampSource_zero
    · exact congrArg pairOfCode h
    · exact congrArg pairOfCode h

end Sys2Proof.Machine
end

section
/-!
PROOFS. Verdicts, fault classes, severities and the outcome of a programme by class (O60): the worst of a list by the
recursion of its fold, a class's failing steps by membership.
-/

namespace Sys2Proof.Machine

/-! ## Verdicts and classes of steps (R111 to R114) -/

theorem judgePrecheck_hazard {c : ClassRec} {ae be : Int} {clip : Bool} : judgePrecheck c ae be clip = .hazard
    ↔ clip = true ∨ c.hazardLimit ≤ ae.natAbs ∨ c.hazardLimit ≤ be.natAbs := by
  have hcond : (clip || decide (c.hazardLimit ≤ ae.natAbs) || decide (c.hazardLimit ≤ be.natAbs)) = true
      ↔ clip = true ∨ c.hazardLimit ≤ ae.natAbs ∨ c.hazardLimit ≤ be.natAbs := by simp [or_assoc]
  rw [judgePrecheck, ite_eq_left_iff]
  refine ⟨fun h => hcond.1 (by_contra fun hn => absurd (h hn) nofun), fun h hn => absurd (hcond.2 h) hn⟩

theorem judgePrecheck_pass {c : ClassRec} {ae be : Int} {clip : Bool} (h : judgePrecheck c ae be clip ≠ .hazard) :
    judgePrecheck c ae be clip = .pass := if_neg fun hif => h (if_pos hif)

theorem stepClass_hazard {r : StepResult} (h : r.index = 0 ∨ r.clip = true) : stepClass r = .hazard := if_pos h

theorem stepClass_unclipped {r : StepResult} (hindex : r.index ≠ 0) (hclip : r.clip = false) :
    (r.kind = .vdc → stepClass r = .foreignDc) ∧ (r.kind = .vac → stepClass r = .foreignAc)
      ∧ (r.kind = .res → r.pair = .ab → stepClass r = .lowIrAb) ∧ (r.kind = .res → r.pair = .ae → stepClass r = .lowIrAe)
      ∧ (r.kind = .res → r.pair = .be → stepClass r = .lowIrBe) ∧ (r.kind = .cap → stepClass r = .openLine) := by
  have hnot : ¬ (r.index = 0 ∨ r.clip = true) := by simp [hindex, hclip]
  simp only [stepClass, if_neg hnot]
  refine ⟨fun h => ?_, fun h => ?_, fun h hp => ?_, fun h hp => ?_, fun h hp => ?_, fun h => ?_⟩ <;> simp only [h]
  all_goals simp only [hp]

theorem Verdict.severity?_none {v : Verdict} : v.severity? = none ↔ v = .pass := by cases v <;> simp [Verdict.severity?]

/-! ## The worst verdict (R86) -/

theorem Verdict.worse_spec (a b : Verdict) : (a.worse b = a ∨ a.worse b = b) ∧ a.rank ≤ (a.worse b).rank
    ∧ b.rank ≤ (a.worse b).rank := by
  unfold Verdict.worse
  split
  · exact ⟨.inr rfl, by omega, le_rfl⟩
  · exact ⟨.inl rfl, le_rfl, by omega⟩

theorem Verdict.rank_inj {v w : Verdict} (h : v.rank = w.rank) : v = w := by
  cases v <;> cases w <;> simp [Verdict.rank] at h <;> rfl

/-- A step of the worst verdict's fold. -/
def worstOf (a : Option Verdict) (r : StepResult) : Option Verdict :=
  match a, r.verdict with
  | none, v => v
  | some x, some y => some (x.worse y)
  | some x, none => some x

theorem worstVerdict_eq (rs : List StepResult) :
    worstVerdict rs = (rs.filter fun r => r.status == .done).foldl worstOf none := rfl

/-- From a verdict on, the fold gives one that is that verdict or a step's, and that none of them is above. -/
theorem foldl_worstOf_some (rs : List StepResult) : ∀ v : Verdict, (∀ r ∈ rs, r.verdict ≠ none) →
    ∃ w, rs.foldl worstOf (some v) = some w ∧ (w = v ∨ ∃ r ∈ rs, r.verdict = some w) ∧ v.rank ≤ w.rank
      ∧ ∀ r ∈ rs, ∀ x, r.verdict = some x → x.rank ≤ w.rank := by
  induction rs with
  | nil => exact fun v _ => ⟨v, rfl, .inl rfl, Nat.le_refl _, fun _ hr => absurd hr List.not_mem_nil⟩
  | cons r rs ih =>
    intro v hv
    obtain ⟨y, hy⟩ := Option.ne_none_iff_exists'.1 (hv r List.mem_cons_self)
    obtain ⟨hone, hleft, hright⟩ := v.worse_spec y
    obtain ⟨w, hw, hfrom, habove, hall⟩ := ih (v.worse y) fun r hr => hv r (List.mem_cons_of_mem _ hr)
    refine ⟨w, ?_, ?_, hleft.trans habove, fun x hx z hz => ?_⟩
    · simpa [worstOf, hy] using hw
    · rcases hfrom with rfl | ⟨x, hx, hxw⟩
      · rcases hone with h | h
        · exact .inl h
        · exact .inr ⟨r, List.mem_cons_self, by rw [hy, h]⟩
      · exact .inr ⟨x, List.mem_cons_of_mem _ hx, hxw⟩
    · rcases List.mem_cons.1 hx with rfl | hx
      · obtain rfl : y = z := Option.some.inj (hy.symm.trans hz)
        exact hright.trans habove
      · exact hall x hx z hz

section
variable {rs : List StepResult}

/-- A verdict of one of a list's DONE steps. -/
def HasVerdict (rs : List StepResult) (v : Verdict) : Prop := ∃ r ∈ rs, r.status = .done ∧ r.verdict = some v

theorem worstVerdict_none (h : ∀ r ∈ rs, r.status ≠ .done) :
    worstVerdict rs = none := by
  have hnil : rs.filter (fun r => r.status == .done) = [] := List.filter_eq_nil_iff.2 fun r hr => by simp [h r hr]
  rw [worstVerdict_eq, hnil]
  rfl

theorem worstVerdict_some (hv : ∀ r ∈ rs, r.status = .done → r.verdict ≠ none) {r : StepResult} (hr : r ∈ rs)
    (hdone : r.status = .done) : ∃ w, worstVerdict rs = some w ∧ HasVerdict rs w ∧ ∀ x, HasVerdict rs x → x.rank ≤ w.rank := by
  have hmem : ∀ x, x ∈ rs.filter (fun r => r.status == .done) ↔ x ∈ rs ∧ x.status = .done := fun x => by simp
  rw [worstVerdict_eq]
  cases hfilter : rs.filter (fun r => r.status == .done) with
  | nil => exact absurd ((hmem r).2 ⟨hr, hdone⟩) (by simp [hfilter])
  | cons y ys =>
    rw [hfilter] at hmem
    have hverdict : ∀ x ∈ y :: ys, x.verdict ≠ none := fun x hx => hv x ((hmem x).1 hx).1 ((hmem x).1 hx).2
    obtain ⟨v, hyv⟩ := Option.ne_none_iff_exists'.1 (hverdict y List.mem_cons_self)
    obtain ⟨w, hw, hfrom, habove, hall⟩ := foldl_worstOf_some ys v fun x hx => hverdict x (List.mem_cons_of_mem _ hx)
    refine ⟨w, by simpa [worstOf, hyv] using hw, ?_, fun x ⟨z, hz, hzdone, hzv⟩ => ?_⟩
    · rcases hfrom with rfl | ⟨x, hx, hxw⟩
      · exact ⟨y, ((hmem y).1 List.mem_cons_self).1, ((hmem y).1 List.mem_cons_self).2, hyv⟩
      · obtain ⟨hin, hd⟩ := (hmem x).1 (List.mem_cons_of_mem _ hx)
        exact ⟨x, hin, hd, hxw⟩
    · rcases List.mem_cons.1 ((hmem z).2 ⟨hz, hzdone⟩) with rfl | hz
      · obtain rfl : v = x := Option.some.inj (hyv.symm.trans hzv)
        exact habove
      · exact hall z hz x hzv

theorem worstVerdict_eq_none_iff (hv : ∀ r ∈ rs, r.status = .done → r.verdict ≠ none) :
    worstVerdict rs = none ↔ ∀ r ∈ rs, r.status ≠ .done := by
  refine ⟨fun hnone r hr hdone => ?_, worstVerdict_none⟩
  obtain ⟨w, hw, -⟩ := worstVerdict_some hv hr hdone
  exact absurd (hnone.symm.trans hw) nofun

theorem worstVerdict_eq_some_iff (hv : ∀ r ∈ rs, r.status = .done → r.verdict ≠ none) (v : Verdict) :
    worstVerdict rs = some v ↔ HasVerdict rs v ∧ ∀ w, HasVerdict rs w → w.rank ≤ v.rank := by
  refine ⟨fun h => ?_, fun ⟨⟨r, hr, hdone, hrv⟩, hall⟩ => ?_⟩
  · obtain ⟨r, hr, hdone⟩ : ∃ r ∈ rs, r.status = .done := by
      by_contra hnone
      push Not at hnone
      exact absurd ((worstVerdict_none hnone).symm.trans h) nofun
    obtain ⟨w, hw, hhas, habove⟩ := worstVerdict_some hv hr hdone
    obtain rfl : w = v := Option.some.inj (hw.symm.trans h)
    exact ⟨hhas, habove⟩
  · obtain ⟨w, hw, hhas, habove⟩ := worstVerdict_some hv hr hdone
    exact Verdict.rank_inj (le_antisymm (hall w hhas) (habove v ⟨r, hr, hdone, hrv⟩)) ▸ hw

end

/-! ## The worst severity (R114, R116) -/

theorem Severity.worse_spec (a b : Severity) : (a.worse b = a ∨ a.worse b = b) ∧ a.rank ≤ (a.worse b).rank
    ∧ b.rank ≤ (a.worse b).rank := by
  unfold Severity.worse
  split
  · exact ⟨.inr rfl, by omega, le_rfl⟩
  · exact ⟨.inl rfl, le_rfl, by omega⟩

theorem Severity.eq_minor_of_rank {v : Severity} (h : v.rank ≤ Severity.minor.rank) : v = .minor := by
  cases v with
  | minor => rfl
  | major => exact absurd h (by decide)
  | critical => exact absurd h (by decide)

/-- A step of the worst severity's fold. -/
def severerOf (a : Severity) (r : StepResult) : Severity :=
  match r.verdict.bind Verdict.severity? with
  | some x => a.worse x
  | none => a

theorem worstSeverity_eq (rs : List StepResult) : worstSeverity rs = rs.foldl severerOf .minor := rfl

/-- The fold from a severity on gives that severity or a step's, and none of them is above it. -/
theorem foldl_severerOf (rs : List StepResult) : ∀ a : Severity, a.rank ≤ (rs.foldl severerOf a).rank
    ∧ (∀ r ∈ rs, ∀ x, r.verdict.bind Verdict.severity? = some x → x.rank ≤ (rs.foldl severerOf a).rank)
    ∧ (rs.foldl severerOf a = a ∨ ∃ r ∈ rs, r.verdict.bind Verdict.severity? = some (rs.foldl severerOf a)) := by
  induction rs with
  | nil => exact fun a => ⟨Nat.le_refl _, fun _ hr => absurd hr List.not_mem_nil, .inl rfl⟩
  | cons r rs ih =>
    intro a
    obtain ⟨habove, hall, hfrom⟩ := ih (severerOf a r)
    rw [List.foldl_cons]
    cases hr : r.verdict.bind Verdict.severity? with
    | none =>
      have hsame : severerOf a r = a := by simp only [severerOf, hr]
      rw [hsame] at habove hall hfrom ⊢
      refine ⟨habove, fun x hx y hy => ?_, hfrom.imp_right fun ⟨x, hx, hxs⟩ => ⟨x, List.mem_cons_of_mem _ hx, hxs⟩⟩
      rcases List.mem_cons.1 hx with rfl | hx
      · exact absurd (hr.symm.trans hy) nofun
      · exact hall x hx y hy
    | some z =>
      have hworse : severerOf a r = a.worse z := by simp only [severerOf, hr]
      rw [hworse] at habove hall hfrom ⊢
      obtain ⟨hone, hleft, hright⟩ := a.worse_spec z
      refine ⟨hleft.trans habove, fun x hx y hy => ?_, ?_⟩
      · rcases List.mem_cons.1 hx with rfl | hx
        · obtain rfl : z = y := Option.some.inj (hr.symm.trans hy)
          exact hright.trans habove
        · exact hall x hx y hy
      · rcases hfrom with hfrom | ⟨x, hx, hxs⟩
        · rcases hone with h | h
          · exact .inl (hfrom.trans h)
          · exact .inr ⟨r, List.mem_cons_self, by rw [hr, hfrom, h]⟩
        · exact .inr ⟨x, List.mem_cons_of_mem _ hx, hxs⟩

/-- Among steps that bear a severity the worst is one of theirs, and none is above it. -/
theorem worstSeverity_spec {rs : List StepResult} (hne : rs ≠ [])
    (hall : ∀ r ∈ rs, ∃ v sv, r.verdict = some v ∧ v.severity? = some sv) :
    (∀ r ∈ rs, ∀ v, r.verdict = some v → ∃ sv, v.severity? = some sv ∧ sv.rank ≤ (worstSeverity rs).rank)
      ∧ ∃ r ∈ rs, ∃ v, r.verdict = some v ∧ v.severity? = some (worstSeverity rs) := by
  rw [worstSeverity_eq]
  obtain ⟨-, hbound, hfrom⟩ := foldl_severerOf rs .minor
  have hle : ∀ r ∈ rs, ∀ v sv, r.verdict = some v → v.severity? = some sv → sv.rank ≤ (rs.foldl severerOf .minor).rank :=
    fun r hr v sv hv hsv => hbound r hr sv (by rw [hv]; exact hsv)
  refine ⟨fun r hr v hv => ?_, ?_⟩
  · obtain ⟨w, sv, hw, hsv⟩ := hall r hr
    obtain rfl : w = v := Option.some.inj (hw.symm.trans hv)
    exact ⟨sv, hsv, hle r hr w sv hv hsv⟩
  · rcases hfrom with hminor | ⟨r, hr, hrs⟩
    · obtain ⟨r, hr⟩ := List.exists_mem_of_ne_nil rs hne
      obtain ⟨v, sv, hv, hsv⟩ := hall r hr
      have hle := hle r hr v sv hv hsv
      rw [hminor] at hle ⊢
      exact ⟨r, hr, v, hv, Severity.eq_minor_of_rank hle ▸ hsv⟩
    · obtain ⟨v, hv, hsv⟩ := Option.bind_eq_some_iff.1 hrs
      exact ⟨r, hr, v, hv, hsv⟩

/-! ## A class failed or passed (R116, R117) -/

/-- A DONE step of a class whose verdict is not PASS. -/
def StepResult.Fails (k : FaultClass) (r : StepResult) : Prop :=
  r.status = .done ∧ stepClass r = k ∧ r.verdict ≠ some .pass

section
variable {rs : List StepResult} {k : FaultClass}

theorem mem_doneOf {r : StepResult} : r ∈ doneOf k rs ↔ r ∈ rs ∧ r.status = .done ∧ stepClass r = k := by
  simp [doneOf]

theorem isSome_severity_iff {o : Option Verdict} (h : o ≠ none) : (o.bind Verdict.severity?).isSome = true ↔ o ≠ some .pass := by
  obtain ⟨v, rfl⟩ := Option.ne_none_iff_exists'.1 h
  cases v <;> simp [Verdict.severity?]

theorem mem_failingOf (hv : ∀ r ∈ rs, r.status = .done → r.verdict ≠ none) {r : StepResult} :
    r ∈ failingOf k rs ↔ r ∈ rs ∧ r.Fails k := by
  rw [failingOf, List.mem_filter, mem_doneOf]
  refine ⟨fun ⟨⟨hr, hdone, hk⟩, hs⟩ => ⟨hr, hdone, hk, (isSome_severity_iff (hv r hr hdone)).1 hs⟩,
    fun ⟨hr, hdone, hk, hp⟩ => ⟨⟨hr, hdone, hk⟩, (isSome_severity_iff (hv r hr hdone)).2 hp⟩⟩

theorem failingOf_append (xs ys : List StepResult) : failingOf k (xs ++ ys) = failingOf k xs ++ failingOf k ys := by
  simp only [failingOf, doneOf, List.filter_append]

theorem failingOf_nil (hv : ∀ r ∈ rs, r.status = .done → r.verdict ≠ none) (h : ∀ r ∈ rs, ¬ r.Fails k) :
    failingOf k rs = [] :=
  List.eq_nil_iff_forall_not_mem.2 fun r hr => h r ((mem_failingOf hv).1 hr).1 ((mem_failingOf hv).1 hr).2

/-- The last failing step stands last among the failing ones. -/
theorem failingOf_last (hv : ∀ r ∈ rs, r.status = .done → r.verdict ≠ none) {xs ys : List StepResult} {r : StepResult}
    (hrs : rs = xs ++ r :: ys) (hr : r.Fails k) (hys : ∀ y ∈ ys, ¬ y.Fails k) : (failingOf k rs).getLast? = some r := by
  subst hrs
  have hrest : failingOf k ys = [] := failingOf_nil (fun y hy => hv y (by simp [hy])) hys
  have hin : r ∈ failingOf k [r] :=
    (mem_failingOf fun x hx => hv x (by simp [List.mem_singleton.1 hx])).2 ⟨List.mem_singleton_self r, hr⟩
  have hone : failingOf k [r] = [r] :=
    (List.sublist_singleton.1 (List.filter_sublist.trans List.filter_sublist)).resolve_left (List.ne_nil_of_mem hin)
  rw [List.append_cons, failingOf_append, failingOf_append, hrest, hone, List.append_nil, List.getLast?_concat]

theorem valuePair_eq (r : StepResult) : valuePair r = if r.kind = .vdc ∨ r.kind = .vac then some r.pair else none := by
  unfold valuePair
  cases r.kind <;> rfl

theorem failureOf_none (hv : ∀ r ∈ rs, r.status = .done → r.verdict ≠ none) (h : ∀ r ∈ rs, ¬ r.Fails k) :
    failureOf k rs = none := by
  rw [failureOf, failingOf_nil hv h]
  rfl

theorem failureOf_last {r : StepResult} (h : (failingOf k rs).getLast? = some r) : failureOf k rs
    = some ⟨worstSeverity (failingOf k rs), r.value.getD 0, valuePair r, if k = .openLine then r.distance else none⟩ := by
  rw [failureOf, h]

/-- A failing step bears a severity. -/
theorem exists_severity_of_mem (hv : ∀ r ∈ rs, r.status = .done → r.verdict ≠ none) {r : StepResult}
    (hr : r ∈ failingOf k rs) : ∃ v sv, r.verdict = some v ∧ v.severity? = some sv := by
  obtain ⟨hin, hdone, -, hpass⟩ := (mem_failingOf hv).1 hr
  obtain ⟨sv, hsv⟩ := Option.isSome_iff_exists.1 ((isSome_severity_iff (hv r hin hdone)).2 hpass)
  obtain ⟨v, hrv, hvs⟩ := Option.bind_eq_some_iff.1 hsv
  exact ⟨v, sv, hrv, hvs⟩

theorem passedIn_iff (cause : EndCause) : passedIn k cause rs = true ↔ cause = .complete
    ∧ (∃ r ∈ rs, r.status = .done ∧ stepClass r = k) ∧ ∀ r ∈ rs, ¬ r.Fails k := by
  have hsome : (doneOf k rs).isEmpty = false ↔ ∃ r ∈ rs, r.status = .done ∧ stepClass r = k := by
    rw [List.isEmpty_eq_false_iff_exists_mem]
    exact exists_congr fun r => mem_doneOf
  have hpass : (∀ r ∈ doneOf k rs, r.verdict = some .pass) ↔ ∀ r ∈ rs, ¬ r.Fails k := by
    refine forall_congr' fun r => ?_
    rw [mem_doneOf, StepResult.Fails]
    tauto
  rw [passedIn, Bool.and_eq_true, Bool.and_eq_true, beq_iff_eq, Bool.not_eq_true', hsome, List.all_eq_true, and_assoc,
    ← hpass]
  exact and_congr_right fun _ => and_congr_right fun _ => forall₂_congr fun _ _ => beq_iff_eq

end

/-- Settles O60, table by table; the outcome of a class by its last failing step. -/
theorem verdictsFollowTheClass : Obligations.VerdictsFollowTheClass := by
  refine ⟨fun c v n => ⟨rfl, rfl, rfl, if_congr Nat.cast_lt rfl rfl⟩,
    fun c ae be clip => ⟨judgePrecheck_hazard, judgePrecheck_pass⟩, fun r => ⟨stepClass_hazard, stepClass_unclipped⟩,
    by decide, fun rs hv => ⟨⟨worstVerdict_eq_none_iff hv, worstVerdict_eq_some_iff hv⟩, fun k =>
      ⟨failureOf_none hv, fun xs ys r hrs hr hys => ?_, passedIn_iff⟩⟩⟩
  have hlast := failingOf_last hv hrs hr hys
  have hne : failingOf k rs ≠ [] := fun h => by simp [h] at hlast
  obtain ⟨hbound, x, hx, v, hxv, hvs⟩ := worstSeverity_spec hne fun _ => exists_severity_of_mem hv
  refine ⟨_, failureOf_last hlast, rfl, valuePair_eq r, rfl, fun y w hy hfails hw => ?_, x, v, ?_⟩
  · exact hbound y ((mem_failingOf hv).2 ⟨hy, hfails⟩) w hw
  · obtain ⟨hin, hfails⟩ := (mem_failingOf hv).1 hx
    exact ⟨hin, hfails, hxv, hvs⟩

end Sys2Proof.Machine
end

section
/-!
PROOFS. The examination of the ticket pages an autoload gathers (R147), for O57: a record as loaded, and what the walk over
the pages keeps, discards and marks.
-/

namespace Sys2Proof.Machine

/-! ## A stored record as loaded (section 10.6, R147) -/

section
variable {d : PageData} {t : Ticket}

theorem loadedStamp_iff {n f : Nat} {x : Stamp} : LoadedStamp d n f x ↔ loadStamp d n f = x := by
  have hsecond : page16 d (n + 2) + 65536 * flagNat (bitOf (pageByte d 6).toNat (f + 1))
      = dataWord d (n + 2) + if (dataAt d 6).testBit (f + 1) = true then 65536 else 0 := by
    rw [page16_eq, bitOf, pageByte_toNat, flagNat]
    split <;> rfl
  have hvalid : bitOf (pageByte d 6).toNat f = (dataAt d 6).testBit f := by rw [bitOf, pageByte_toNat]
  constructor
  · intro ⟨hday, hsec, hval⟩
    rw [loadStamp, page16_eq d n]
    simp only [hsecond, hvalid, ← hday, ← hsec, ← hval]
  · rintro rfl
    exact ⟨page16_eq d n, hsecond, hvalid⟩

theorem storedDistance_eq : storedDistance d = dataWord d 12 + if (dataAt d 5).testBit 2 = true then 65536 else 0 := by
  rw [storedDistance, page16_eq, bitOf, pageByte_toNat, flagNat]
  split <;> rfl

theorem severityField : page16 d 2 / 16384 % 4 = dataAt d 2 / 64 := by
  have := dataAt_lt d 2
  have := dataAt_lt d (2 + 1)
  rw [page16_eq, dataWord]
  omega

theorem classField : page16 d 2 / 2048 % 8 = dataAt d 2 / 8 % 8 := by
  have := dataAt_lt d (2 + 1)
  rw [page16_eq, dataWord]
  omega

theorem stateField : (pageByte d 4).toNat / 64 % 4 = dataAt d 4 / 64 := by
  have := dataAt_lt d 4
  rw [pageByte_toNat]
  omega

/-- What a stored record's coded fields hold, codes of R125 every one. -/
structure RecordCoded (d : PageData) (sv : Severity) (c : FaultClass) (st : TicketState) (src : Source)
    (cl : Option Clearer) : Prop where
  severity : dataAt d 2 / 64 = severityCode sv
  cls : dataAt d 2 / 8 % 8 = classCode c
  state : dataAt d 4 / 64 = stateCode st
  source : dataAt d 4 / 8 % 8 = sourceCode src
  clearer : storedClearer st d = some cl

theorem loadTicket_iff : loadTicket d = some t ↔ ∃ sv c st src cl, RecordCoded d sv c st src cl ∧ dataWord d 0 ≠ 0
    ∧ t = ticketFields d sv c st src cl := by
  unfold loadTicket
  simp only [Option.bind_eq_bind, Option.bind_eq_some_iff, severityOfCode_iff, faultClassOfCode_iff, ticketStateOfCode_iff,
    sourceOfCode_iff, severityField, classField, stateField]
  simp only [pageByte_toNat, page16_eq]
  constructor
  · rintro ⟨sv, hsv, c, hc, st, hst, src, hsrc, cl, hcl, h⟩
    split at h
    · cases h
    next hn => exact ⟨sv, c, st, src, cl, ⟨hsv, hc, hst, hsrc, hcl⟩, hn, (Option.some.inj h).symm⟩
  · rintro ⟨sv, c, st, src, cl, ⟨hsv, hc, hst, hsrc, hcl⟩, hn, rfl⟩
    exact ⟨sv, hsv, c, hc, st, hst, src, hsrc, cl, hcl, if_neg hn⟩

theorem storedClearer_cleared (o : Option Clearer) : storedClearer .cleared d = some o
    ↔ ∃ v, o = some v ∧ dataAt d 4 % 8 = clearedByCode (some v) := by
  simp only [storedClearer, if_pos, Option.map_eq_some_iff, clearerOfCode_iff, clearerCode, pageByte_toNat]
  exact ⟨fun ⟨v, hv, ho⟩ => ⟨v, ho.symm, hv⟩, fun ⟨v, ho, hv⟩ => ⟨v, hv, ho.symm⟩⟩

theorem storedClearer_other {st : TicketState} (h : st ≠ .cleared) : storedClearer st d = some none := if_neg h

/-- A record is discarded exactly when its number is 0 or a coded field holds no code (R147). -/
theorem loadTicket_none_iff : loadTicket d = none ↔ DiscardedRecord d := by
  rw [Option.eq_none_iff_forall_ne_some]
  constructor
  · intro hnone
    by_contra hkept
    simp only [DiscardedRecord, not_or, not_forall, not_not, not_and] at hkept
    obtain ⟨hn, ⟨sv, hsv⟩, ⟨c, hc⟩, ⟨st, hst⟩, ⟨src, hsrc⟩, hclearer⟩ := hkept
    obtain ⟨cl, hcl⟩ : ∃ cl, storedClearer st d = some cl := by
      by_cases hcleared : st = .cleared
      · subst hcleared
        obtain ⟨v, hv⟩ := hclearer hst
        exact ⟨some v, (storedClearer_cleared _).2 ⟨v, rfl, hv⟩⟩
      · exact ⟨none, storedClearer_other hcleared⟩
    exact hnone _ (loadTicket_iff.2 ⟨sv, c, st, src, cl, ⟨hsv, hc, hst, hsrc, hcl⟩, hn, rfl⟩)
  · intro hdiscarded t ht
    obtain ⟨sv, c, st, src, cl, ⟨hsv, hc, hst, hsrc, hcl⟩, hn, -⟩ := loadTicket_iff.1 ht
    rcases hdiscarded with h | h | h | h | h | ⟨hcleared, h⟩
    · exact hn h
    · exact h sv hsv
    · exact h c hc
    · exact h st hst
    · exact h src hsrc
    · have hst' : st = .cleared := by
        cases st <;> simp [stateCode] at hst hcleared
        · omega
        · omega
        · rfl
      subst hst'
      obtain ⟨v, -, hv⟩ := (storedClearer_cleared _).1 hcl
      exact h v hv

theorem dataLong_lt (n : Nat) : dataLong d n < 4294967296 := by
  have := dataWord_lt d n
  have := dataWord_lt d (n + 2)
  unfold dataLong
  omega

theorem signed32_eq {n : Nat} (h : n < 4294967296) :
    signed32 n = if n < 2147483648 then (n : Int) else (n : Int) - 4294967296 := by
  rw [signed32, BitVec.toInt_eq_toNat_cond, BitVec.toNat_ofNat, Nat.mod_eq_of_lt h]
  split <;> split <;> omega

/-- A kept record is loaded field by field with the corrections of R147. -/
theorem loadedTicket_of_loadTicket (h : loadTicket d = some t) : LoadedTicket d t := by
  obtain ⟨sv, c, st, src, cl, ⟨hsv, hc, hst, hsrc, hcl⟩, hn, rfl⟩ := loadTicket_iff.1 h
  have hbit : ∀ k, bitOf (pageByte d 5).toNat k = (dataAt d 5).testBit k := fun k => by rw [bitOf, pageByte_toNat]
  exact {
    number := page16_eq d 0
    severity := ⟨fun hz => if_pos hz, fun hz => (congrArg severityCode (if_neg hz)).trans hsv.symm⟩
    cls := hc.symm
    line := congrArg (· % 2048) (page16_eq d 2)
    state := hst.symm
    source := hsrc.symm
    clearedBy := by
      refine ⟨fun hcleared => ?_, fun hother => ?_⟩
      · obtain rfl : st = .cleared := hcleared
        obtain ⟨v, hv, hcode⟩ := (storedClearer_cleared _).1 hcl
        exact ⟨v, hv, hcode.symm⟩
      · exact (Option.some.inj ((storedClearer_other hother).symm.trans hcl)).symm
    assignee := by simp only [ticketFields, hbit, page16_eq]
    note := by simp only [ticketFields, hbit, page16_eq]
    passes := by simp only [ticketFields, pageByte_toNat]
    distance := by simp only [ticketFields, storedDistance_eq]
    repeats := by simp only [ticketFields, pageByte_toNat]
    value := by
      simp only [ticketFields, page32_eq]
      exact signed32_eq (dataLong_lt 8)
    pair := rfl
    firstSeen := loadedStamp_iff.2 rfl
    lastSeen := loadedStamp_iff.2 rfl
    clearedAt := ⟨fun hcleared => ⟨_, if_pos hcleared, loadedStamp_iff.2 rfl⟩, fun hother => if_neg hother⟩ }

/-- Which loadings of a kept record count as corrections (log 17). -/
theorem ticketCorrected_iff : ticketCorrected d t = true ↔ CorrectedRecord d t := by
  have hdistance : storedDistance d ≠ 0 ↔ dataWord d 12 ≠ 0 ∨ (dataAt d 5).testBit 2 = true := by
    rw [storedDistance_eq]
    split
    next h => simp [h]
    next h => simp [h]
  have hstamp : loadStamp d 26 4 ≠ noStamp ↔ ¬ LoadedStamp d 26 4 ⟨0, 0, false⟩ := not_congr loadedStamp_iff.symm
  simp only [ticketCorrected, severityField, clearerCode, pageByte_toNat, Bool.or_eq_true, Bool.and_eq_true, beq_iff_eq,
    bne_iff_ne, hdistance, hstamp, Severity.code_eq, CorrectedRecord, or_assoc]

end

/-! ## One page examined -/

section
variable {e : Examined} {n : SlotId} {d : PageData} {x : Ticket}

theorem conflicts_iff {kept : Tab (Option Ticket) 256} : conflicts kept x = true ↔ ∃ m y, kept.get m = some y ∧ y.Clashes x := by
  constructor
  · intro h
    by_contra hnone
    push Not at hnone
    unfold conflicts at h
    obtain ⟨o, ho, hconf⟩ := List.any_eq_true.1 h
    obtain ⟨m, rfl⟩ := (Tab.mem_items _ _).1 ho
    cases hm : kept.get m with
    | none => simp [hm] at hconf
    | some y =>
      simp only [hm, Ticket.nonCleared, Bool.or_eq_true, Bool.and_eq_true, beq_iff_eq, bne_iff_ne] at hconf
      refine hnone m y hm (hconf.imp_right fun ⟨⟨⟨hx, hy⟩, hl⟩, hc⟩ => ⟨hy, hx, hl, hc⟩)
  · intro ⟨m, y, hm, hclash⟩
    by_contra hnone
    obtain ⟨hnumber, hclass⟩ := conflicts_false (Bool.eq_false_iff.2 hnone) m y hm
    exact hclash.elim hnumber fun ⟨hy, hx, hl, hc⟩ => hclass hx hy ⟨hl, hc⟩

/-- A page's record is discarded after what has been kept so far (R147). -/
def Examined.Drops (e : Examined) (d : PageData) : Prop :=
  loadTicket d = none ∨ ∃ x, loadTicket d = some x ∧ conflicts e.tickets x = true

theorem examineSlot_drops (h : e.Drops d) :
    examineSlot e (n, d) = { e with dirty := e.dirty.set n true, discarded := e.discarded + 1 } := by
  rcases h with h | ⟨x, hx, hc⟩
  · simp only [examineSlot, h]
  · simp only [examineSlot, hx, hc, if_true]

theorem examineSlot_keeps (hx : loadTicket d = some x) (hc : conflicts e.tickets x = false) : examineSlot e (n, d)
    = { e with
        tickets := e.tickets.set n (some x)
        dirty := if ticketCorrected d x then e.dirty.set n true else e.dirty } := by
  simp only [examineSlot, hx, hc]
  rfl

theorem Examined.drops_or (e : Examined) (d : PageData) :
    e.Drops d ∨ ∃ x, loadTicket d = some x ∧ conflicts e.tickets x = false := by
  cases hx : loadTicket d with
  | none => exact .inl (.inl hx)
  | some x =>
    cases hc : conflicts e.tickets x with
    | true => exact .inl (.inr ⟨x, hx, hc⟩)
    | false => exact .inr ⟨x, rfl, hc⟩

theorem examineSlot_other {m : SlotId} (h : n ≠ m) : (examineSlot e (n, d)).tickets.get m = e.tickets.get m
    ∧ (examineSlot e (n, d)).dirty.get m = e.dirty.get m := by
  rcases e.drops_or d with hd | ⟨x, hx, hc⟩
  · rw [examineSlot_drops hd]
    exact ⟨rfl, Tab.get_set_ne _ _ h⟩
  · rw [examineSlot_keeps hx hc]
    refine ⟨Tab.get_set_ne _ _ h, ?_⟩
    show (if ticketCorrected d x then e.dirty.set n true else e.dirty).get m = e.dirty.get m
    split
    · exact Tab.get_set_ne _ _ h
    · rfl

/-- The page's own slot is filled, or marked dirty with nothing new in it. -/
theorem examineSlot_self (e : Examined) (n : SlotId) (d : PageData) :
    (∃ x, loadTicket d = some x ∧ (examineSlot e (n, d)).tickets.get n = some x
      ∧ (examineSlot e (n, d)).discarded = e.discarded)
    ∨ ((examineSlot e (n, d)).tickets.get n = e.tickets.get n ∧ (examineSlot e (n, d)).dirty.get n = true
      ∧ (examineSlot e (n, d)).discarded = e.discarded + 1) := by
  rcases e.drops_or d with hd | ⟨x, hx, hc⟩
  · rw [examineSlot_drops hd]
    exact .inr ⟨rfl, Tab.get_set_self _ _ _, rfl⟩
  · rw [examineSlot_keeps hx hc]
    exact .inl ⟨x, hx, Tab.get_set_self _ _ _, rfl⟩

/-- A page kept marks its slot dirty when it was corrected, and otherwise leaves its mark. -/
theorem examineSlot_mark (hx : loadTicket d = some x) (hc : conflicts e.tickets x = false) :
    (CorrectedRecord d x → (examineSlot e (n, d)).dirty.get n = true)
      ∧ (¬ CorrectedRecord d x → (examineSlot e (n, d)).dirty.get n = e.dirty.get n) := by
  rw [examineSlot_keeps hx hc, ← ticketCorrected_iff]
  refine ⟨fun h => ?_, fun h => ?_⟩
  · show (if ticketCorrected d x then e.dirty.set n true else e.dirty).get n = true
    rw [if_pos h]
    exact Tab.get_set_self _ _ _
  · exact congrArg (fun marks : Tab Bool 256 => marks.get n) (if_neg h)

end

/-! ## The walk over the gathered pages -/

section
variable {n : SlotId} {d : PageData}

theorem examineAll_other (image : List (SlotId × PageData)) : ∀ e : Examined, (∀ d, (n, d) ∉ image) →
    (image.foldl examineSlot e).tickets.get n = e.tickets.get n ∧ (image.foldl examineSlot e).dirty.get n = e.dirty.get n := by
  induction image with
  | nil => exact fun _ _ => ⟨rfl, rfl⟩
  | cons z zs ih =>
    intro e h
    obtain ⟨m, c⟩ := z
    have hne : m ≠ n := fun hmn => h c (hmn ▸ List.mem_cons_self)
    obtain ⟨htickets, hdirty⟩ := ih (examineSlot e (m, c)) fun d hd => h d (List.mem_cons_of_mem _ hd)
    exact ⟨htickets.trans (examineSlot_other hne).1, hdirty.trans (examineSlot_other hne).2⟩

/-- Every kept ticket comes from a gathered page of its slot. -/
theorem examineAll_source (image : List (SlotId × PageData)) : ∀ (e : Examined) (x : Ticket),
    (image.foldl examineSlot e).tickets.get n = some x →
    e.tickets.get n = some x ∨ ∃ d, (n, d) ∈ image ∧ loadTicket d = some x := by
  induction image with
  | nil => exact fun _ _ => .inl
  | cons z zs ih =>
    intro e x hx
    obtain ⟨m, c⟩ := z
    rcases ih (examineSlot e (m, c)) x hx with hhead | ⟨d, hd, hload⟩
    · by_cases hmn : m = n
      · subst hmn
        rcases examineSlot_self e m c with ⟨y, hy, hkept, -⟩ | ⟨hsame, -⟩
        · exact .inr ⟨c, List.mem_cons_self, hy.trans (hkept.symm.trans hhead)⟩
        · exact .inl (hsame.symm.trans hhead)
      · exact .inl ((examineSlot_other hmn).1.symm.trans hhead)
    · exact .inr ⟨d, List.mem_cons_of_mem _ hd, hload⟩

/-- A slot once filled stays filled, and one marked dirty stays so. -/
theorem examineAll_lasts (image : List (SlotId × PageData)) : ∀ e : Examined,
    (e.tickets.get n ≠ none → (image.foldl examineSlot e).tickets.get n ≠ none)
      ∧ (e.dirty.get n = true → (image.foldl examineSlot e).dirty.get n = true) := by
  induction image with
  | nil => exact fun _ => ⟨id, id⟩
  | cons z zs ih =>
    intro e
    obtain ⟨m, c⟩ := z
    obtain ⟨hfilled, hmarked⟩ := ih (examineSlot e (m, c))
    suffices h : (e.tickets.get n ≠ none → (examineSlot e (m, c)).tickets.get n ≠ none)
        ∧ (e.dirty.get n = true → (examineSlot e (m, c)).dirty.get n = true) from
      ⟨hfilled ∘ h.1, hmarked ∘ h.2⟩
    by_cases hmn : m = n
    · subst hmn
      rcases e.drops_or c with hd | ⟨x, hx, hc⟩
      · rw [examineSlot_drops hd]
        exact ⟨id, fun _ => Tab.get_set_self _ _ _⟩
      · refine ⟨fun _ => by rw [examineSlot_keeps hx hc]; simp, fun hdirty => ?_⟩
        by_cases hcorrected : CorrectedRecord c x
        · exact (examineSlot_mark hx hc).1 hcorrected
        · exact ((examineSlot_mark hx hc).2 hcorrected).trans hdirty
    · rw [(examineSlot_other hmn).1, (examineSlot_other hmn).2]
      exact ⟨id, id⟩

/-- A gathered page whose slot is left empty marked it dirty. -/
theorem examineAll_discarded_dirty (image : List (SlotId × PageData)) : ∀ e : Examined, (n, d) ∈ image →
    (image.foldl examineSlot e).tickets.get n = none → (image.foldl examineSlot e).dirty.get n = true := by
  induction image with
  | nil => exact fun _ h => absurd h List.not_mem_nil
  | cons z zs ih =>
    intro e hmem hnone
    rcases List.mem_cons.1 hmem with rfl | hrest
    · obtain ⟨hfilled, hmarked⟩ := examineAll_lasts (n := n) zs (examineSlot e (n, d))
      rcases examineSlot_self e n d with ⟨x, -, hkept, -⟩ | ⟨-, hdirty, -⟩
      · exact absurd hnone (hfilled (by rw [hkept]; nofun))
      · exact hmarked hdirty
    · exact ih _ hrest hnone

/-- Pages of ascending slots fill or discard one slot each. -/
theorem examineAll_count (image : List (SlotId × PageData)) : ∀ e : Examined, image.Pairwise (fun a b => a.1 < b.1) →
    (∀ z ∈ image, e.tickets.get z.1 = none) → (image.foldl examineSlot e).discarded
      = e.discarded + (image.filter fun z => ((image.foldl examineSlot e).tickets.get z.1).isNone).length := by
  induction image with
  | nil => exact fun _ _ _ => rfl
  | cons z zs ih =>
    intro e hsorted hempty
    obtain ⟨n, d⟩ := z
    obtain ⟨hhead, htail⟩ := List.pairwise_cons.1 hsorted
    have hafter : ∀ d', (n, d') ∉ zs := fun d' h => absurd (hhead _ h) (lt_irrefl n)
    have hrest := ih (examineSlot e (n, d)) htail fun z hz =>
      (examineSlot_other (hhead z hz).ne).1.trans (hempty z (List.mem_cons_of_mem _ hz))
    have hslot := (examineAll_other zs (examineSlot e (n, d)) hafter).1
    rw [List.foldl_cons, hrest, List.filter_cons, hslot]
    rcases examineSlot_self e n d with ⟨x, -, hkept, hcount⟩ | ⟨hsame, -, hcount⟩
    · rw [hkept, hcount]
      rfl
    · rw [hsame, hempty (n, d) List.mem_cons_self, hcount, if_pos Option.isNone_none, List.length_cons]
      omega

/-- What the examination has before a page of ascending slots, and how its end stands to that page. -/
theorem examine_at {image : List (SlotId × PageData)} (dirty : Tab Bool 256) (hsorted : image.Pairwise fun a b => a.1 < b.1)
    (hmem : (n, d) ∈ image) : ∃ e : Examined, e.dirty.get n = dirty.get n ∧ e.tickets.get n = none
      ∧ (∀ m y, e.tickets.get m = some y → m < n ∧ (examine image dirty).tickets.get m = some y)
      ∧ (examine image dirty).tickets.get n = (examineSlot e (n, d)).tickets.get n
      ∧ (examine image dirty).dirty.get n = (examineSlot e (n, d)).dirty.get n := by
  obtain ⟨before, after, rfl⟩ := List.append_of_mem hmem
  obtain ⟨-, hlater, hcross⟩ := List.pairwise_append.1 hsorted
  obtain ⟨hafter, -⟩ := List.pairwise_cons.1 hlater
  have hempty : ∀ m, (⟨Tab.replicate 256 none, dirty, 0⟩ : Examined).tickets.get m = none := fun m => by simp
  have hbelow : ∀ z ∈ before, z.1 < n := fun z hz => hcross z hz (n, d) List.mem_cons_self
  have hbefore := examineAll_other (n := n) before ⟨Tab.replicate 256 none, dirty, 0⟩
    fun d' h => absurd (hbelow _ h) (lt_irrefl n)
  have hend : examine (before ++ (n, d) :: after) dirty
      = after.foldl examineSlot (examineSlot (before.foldl examineSlot ⟨Tab.replicate 256 none, dirty, 0⟩) (n, d)) := by
    rw [examine, List.foldl_append, List.foldl_cons]
  have hself := examineAll_other after
    (examineSlot (before.foldl examineSlot ⟨Tab.replicate 256 none, dirty, 0⟩) (n, d))
    fun d' h => absurd (hafter _ h) (lt_irrefl n)
  refine ⟨before.foldl examineSlot ⟨Tab.replicate 256 none, dirty, 0⟩, hbefore.2, hbefore.1.trans (hempty n),
    fun m y hy => ?_, by rw [hend]; exact hself.1, by rw [hend]; exact hself.2⟩
  have hlt : m < n := by
    rcases examineAll_source before _ y hy with h | ⟨d', hd', -⟩
    · exact absurd ((hempty m).symm.trans h) nofun
    · exact hbelow _ hd'
  refine ⟨hlt, ?_⟩
  rw [hend, (examineAll_other after _ fun d' h => absurd (hlt.trans (hafter _ h)) (lt_irrefl m)).1,
    (examineSlot_other hlt.ne').1]
  exact hy

end

/-! ## The pair a code stands for (R113) -/

theorem freePair_foreign {k : FaultClass} (h : k = .foreignDc ∨ k = .foreignAc) (code : Nat) : freePair k code ≠ none := by
  have hlt := Nat.mod_lt code (show 3 > 0 by decide)
  rcases h with rfl | rfl <;> simp only [freePair] <;> interval_cases code % 3 <;> exact nofun

theorem freePair_other {k : FaultClass} (h₁ : k ≠ .hazard) (h₂ : k ≠ .foreignDc) (h₃ : k ≠ .foreignAc) (code : Nat) :
    freePair k code = none := by
  cases k with
  | hazard => exact absurd rfl h₁
  | foreignDc => exact absurd rfl h₂
  | foreignAc => exact absurd rfl h₃
  | lowIrAb | lowIrAe | lowIrBe | openLine => rfl

end Sys2Proof.Machine
end

section
/-!
PROOFS. AUTOLOAD_COMPLETION (R168, O57): the part as its first six steps leave it, said once as a state, and what becomes of a
lapse owed.
-/

namespace Sys2Proof.Machine

/-! ## The number counter (R147) -/

/-- The highest number of a table's tickets, so far. -/
def topNumber (a : Nat) (o : Option Ticket) : Nat :=
  match o with
  | some t => max a t.number
  | none => a

theorem foldl_topNumber (os : List (Option Ticket)) : ∀ a, a ≤ os.foldl topNumber a
    ∧ (∀ x, some x ∈ os → x.number ≤ os.foldl topNumber a)
    ∧ (os.foldl topNumber a = a ∨ ∃ x, some x ∈ os ∧ x.number = os.foldl topNumber a) := by
  induction os with
  | nil => exact fun a => ⟨Nat.le_refl _, fun _ h => absurd h List.not_mem_nil, .inl rfl⟩
  | cons o os ih =>
    intro a
    obtain ⟨hle, hall, hfrom⟩ := ih (topNumber a o)
    have hhead : a ≤ topNumber a o ∧ (∀ x, o = some x → x.number ≤ topNumber a o)
        ∧ (topNumber a o = a ∨ ∃ x, o = some x ∧ x.number = topNumber a o) := by
      cases o with
      | none => exact ⟨Nat.le_refl _, fun _ h => absurd h (Option.some_ne_none _).symm, .inl rfl⟩
      | some y =>
        refine ⟨Nat.le_max_left .., fun x hx => Option.some.inj hx ▸ Nat.le_max_right .., ?_⟩
        exact (max_choice a y.number).imp id fun h => ⟨y, rfl, h.symm⟩
    refine ⟨hhead.1.trans hle, fun x hx => ?_, ?_⟩
    · rcases List.mem_cons.1 hx with hx | hx
      · exact (hhead.2.1 x hx.symm).trans hle
      · exact hall x hx
    · rw [List.foldl_cons]
      rcases hfrom with hfrom | ⟨x, hx, hnum⟩
      · rcases hhead.2.2 with h | ⟨x, hx, hnum⟩
        · exact .inl (hfrom.trans h)
        · exact .inr ⟨x, List.mem_cons.2 (.inl hx.symm), hnum.trans hfrom.symm⟩
      · exact .inr ⟨x, List.mem_cons_of_mem _ hx, hnum⟩

theorem counterAfterLoad_eq {tickets : Tab (Option Ticket) 256} {top : Nat}
    (hrange : ∀ n t, tickets.get n = some t → t.InRange)
    (h : (∀ n, tickets.get n = none) ∧ top = 0
      ∨ (∃ n x, tickets.get n = some x ∧ x.number = top) ∧ ∀ n x, tickets.get n = some x → x.number ≤ top) :
    counterAfterLoad tickets = if top = 65535 then 1 else top + 1 := by
  have htop : tickets.items.foldl topNumber 0 = top := by
    obtain ⟨-, hall, hfrom⟩ := foldl_topNumber tickets.items 0
    have hin : ∀ n x, tickets.get n = some x → some x ∈ tickets.items := fun n x hx => (Tab.mem_items _ _).2 ⟨n, hx⟩
    rcases h with ⟨hnone, rfl⟩ | ⟨⟨n, x, hx, rfl⟩, hmax⟩
    · refine hfrom.resolve_right fun ⟨x, hx, _⟩ => ?_
      obtain ⟨n, hn⟩ := (Tab.mem_items _ _).1 hx
      exact absurd ((hnone n).symm.trans hn) nofun
    · refine le_antisymm ?_ (hall x (hin n x hx))
      rcases hfrom with hzero | ⟨y, hy, hnum⟩
      · omega
      · obtain ⟨m, hm⟩ := (Tab.mem_items _ _).1 hy
        exact hnum ▸ hmax m y hm
  have hcounter : counterAfterLoad tickets = if tickets.items.foldl topNumber 0 = 0 then 1
      else nextNumber (tickets.items.foldl topNumber 0) := rfl
  have hbound : top ≤ 65535 := by
    rcases h with ⟨-, rfl⟩ | ⟨⟨n, x, hx, rfl⟩, -⟩
    · omega
    · exact (hrange n x hx).2.1
  rw [hcounter, htop, nextNumber]
  split_ifs <;> omega

/-! ## The part as it comes up (R168 steps 1 to 6) -/

section
variable {s : State}

theorem State.loadTickets_slot (n : SlotId) : s.loadTickets.slot n
    = ((examine s.store.image s.store.dirty).tickets.get n).map (s.withLoadedPair n) := by
  simp only [State.slot, State.loadTickets, Tab.get_mapIdx]

theorem State.loadTickets_line (l : LineId) : s.loadTickets.line l = { s.line l with
    quarantined := (hazardLines (examine s.store.image s.store.dirty).tickets).contains l
      || (s.line l).hasPending .hazard } := by
  simp only [State.line, State.loadTickets, Tab.get_mapIdx]

theorem State.loadTickets_alarmed : s.loadTickets.Alarmed
    ↔ (∃ n x, (examine s.store.image s.store.dirty).tickets.get n = some x ∧ x.severity = .critical ∧ x.state = .opened)
      ∨ ∃ l, (s.line l).pendingMask.get 0 = true := by
  refine or_congr (exists_congr fun n => ?_) (exists_congr fun l => by rw [State.loadTickets_line])
  simp only [State.loadTickets_slot, Option.map_eq_some_iff]
  constructor
  · rintro ⟨-, ⟨x, hx, rfl⟩, hsev, hst⟩
    rw [s.withLoadedPair_eq n x] at hsev hst
    exact ⟨x, hx, hsev, hst⟩
  · rintro ⟨x, hx, hsev, hst⟩
    refine ⟨_, ⟨x, hx, rfl⟩, ?_⟩
    rw [s.withLoadedPair_eq n x]
    exact ⟨hsev, hst⟩

theorem State.loadTickets_lines {lines : Tab LineRec 2048} (h : ∀ l, ∃ q, lines.get l = { s.line l with quarantined := q }
    ∧ (q = true ↔ (s.line l).pendingMask.get 0 = true ∨ ∃ n x, (examine s.store.image s.store.dirty).tickets.get n = some x
      ∧ x.line = l ∧ x.cls = .hazard ∧ x.state ≠ .cleared)) : s.loadTickets.lines = lines := Tab.ext_get fun l => by
  obtain ⟨q, hq, hiff⟩ := h l
  have hquarantine : ((hazardLines (examine s.store.image s.store.dirty).tickets).contains l
      || (s.line l).hasPending .hazard) = q := by
    rw [Bool.eq_iff_iff, hiff, Bool.or_eq_true, List.contains_iff_mem, mem_hazardLines, or_comm]
    rfl
  rw [hq, ← hquarantine]
  exact State.loadTickets_line l

/-- The part before its sweep state is derived, steps 3 and 4 of the completion taken (R168). -/
def State.blocksUp (s : State) : State :=
  { s with
    alm := s.almDue
    units := s.units.map standbyUnit
    sweep := { s.sweep with
      enabled := s.sweepCfg.startEnabled, pacing := some (s.now + 10000 * s.sweepCfg.pacing)
      cursor := if s.store.resetCause = .por then s.sweepCfg.first else s.sweep.cursor } }

theorem State.sweepTrigger_of_not_running (h : s.store.phase ≠ .running) : s.sweepTrigger = s :=
  if_neg fun hstart => h (State.mayStart_iff.1 hstart).running

theorem State.setUpBlocks_eq (h : s.store.phase = .loading) : s.setUpBlocks = s.blocksUp.seen s.blocksUp.sweepState := by
  have hup : s.setUpBlocks = s.blocksUp.rederive := by
    simp only [State.setUpBlocks, State.setUpSweep, State.startPacing_eq, State.blocksUp, State.pacingRestarted]
    cases s.store.resetCause <;> rfl
  have hquiet : (s.blocksUp.seen s.blocksUp.sweepState).sweepTrigger = s.blocksUp.seen s.blocksUp.sweepState :=
    State.sweepTrigger_of_not_running (by show s.store.phase ≠ .running; rw [h]; nofun)
  rw [hup, State.rederive]
  split
  · exact hquiet
  · rfl

/-- The part after steps 1 to 5, RUNNING at the loaded rate (R168, R183), its sweep state not yet derived. -/
def State.comeUp (s : State) : State :=
  let t := s.loadTickets.blocksUp
  { t with linkRate := t.config.rate, store := { t.store with phase := .running, lastSlot := 255 } }

/-- The part after step 6: START to every port. -/
def State.announced (s : State) : State :=
  allPorts.foldl (fun t p => t.enqueue p none (.start s.comeUp.store.resetCause s.comeUp.store.bad))
    (s.comeUp.seen s.comeUp.sweepState)

/-- Kept reports to ports that have room, one to each. -/
theorem foldl_pushKept_each (body : ReportBody) (ps : List Port) : ∀ t : State, ps.Nodup → (∀ p ∈ ps, 1 ≤ t.freeEntries p) →
    ps.foldl (fun t p => t.pushKept p none body) t = ps.foldl (fun t p => t.enqueue p none body) t := by
  induction ps with
  | nil => exact fun _ _ _ => rfl
  | cons p ps ih =>
    intro t hdistinct hroom
    obtain ⟨hp, hps⟩ := List.nodup_cons.1 hdistinct
    rw [List.foldl_cons, List.foldl_cons, State.pushKept_of_room (Nat.pos_iff_ne_zero.1 (hroom p List.mem_cons_self))]
    refine ih _ hps fun q hq => ?_
    rw [State.freeEntries_enqueue, if_neg fun hpq : p = q => hp (hpq ▸ hq)]
    exact hroom q (List.mem_cons_of_mem _ hq)

/-- Reports queued change the ports alone. -/
theorem foldl_enqueue_each (body : ReportBody) (ps : List Port) : ∀ t : State,
    ∃ q, ps.foldl (fun t p => t.enqueue p none body) t = { t with ports := q } := by
  induction ps with
  | nil => exact fun t => ⟨t.ports, rfl⟩
  | cons p ps ih => exact fun t => ih (t.enqueue p none body)

/-- The supervision timer does not depend on the reports queued. -/
theorem foldl_enqueue_timer (body : ReportBody) (timer : Option Nat) (ps : List Port) : ∀ t : State,
    ps.foldl (fun t p => t.enqueue p none body) { t with supTimer := timer }
      = { ps.foldl (fun t p => t.enqueue p none body) t with supTimer := timer } := by
  induction ps with
  | nil => exact fun _ => rfl
  | cons p ps ih => exact fun t => ih (t.enqueue p none body)

/-- The completion, its lapse or timer apart, leaves the part as `State.announced` says (R168). -/
theorem State.autoloadCompletion_eq (hl : s.store.phase = .loading) (hi : s.store.loadIndex = 362)
    (hroom : ∀ p, 1 ≤ s.freeEntries p) : s.autoloadCompletion = s.announced.supervisionAtStart := by
  have hphase : s.loadTickets.store.phase = .loading := by simp only [State.loadTickets, hl]
  have hstart : s.loadTickets.setUpBlocks.startRunning
      = allPorts.foldl (fun t p => t.pushKept p none (.start s.comeUp.store.resetCause s.comeUp.store.bad))
        (s.comeUp.seen s.comeUp.sweepState) := by
    rw [State.setUpBlocks_eq hphase]
    rfl
  have hfree : ∀ p, (s.comeUp.seen s.comeUp.sweepState).freeEntries p = s.freeEntries p := fun p => by
    simp only [State.freeEntries, State.port, State.seen, State.comeUp, State.blocksUp, State.loadTickets]
  rw [foldl_pushKept_each _ allPorts _ (by decide) fun p _ => (hroom p).trans_eq (hfree p).symm] at hstart
  rw [State.autoloadCompletion, if_pos ⟨hl, hi⟩, hstart, State.announced]

theorem State.autoloadCompletion_of_unread (h : s.store.phase ≠ .loading ∨ s.store.loadIndex ≠ 362) :
    s.autoloadCompletion = s := if_neg fun ⟨hl, hi⟩ => h.elim (· hl) (· hi)

/-- The part up, from the components its records are given by. -/
theorem State.comeUp_eq {tickets : Tab (Option Ticket) 256} {lines : Tab LineRec 2048} {alarm : Bool} {top : Nat}
    (htickets : s.TableLoaded tickets)
    (hlines : ∀ l, ∃ q, lines.get l = { s.line l with quarantined := q }
      ∧ (q = true ↔ (s.line l).pendingMask.get 0 = true ∨ ∃ n x, (examine s.store.image s.store.dirty).tickets.get n = some x
        ∧ x.line = l ∧ x.cls = .hazard ∧ x.state ≠ .cleared))
    (halarm : alarm = true ↔ (∃ n x, (examine s.store.image s.store.dirty).tickets.get n = some x ∧ x.severity = .critical
      ∧ x.state = .opened) ∨ ∃ l, (s.line l).pendingMask.get 0 = true)
    (htop : (∀ n, (examine s.store.image s.store.dirty).tickets.get n = none) ∧ top = 0
      ∨ (∃ n x, (examine s.store.image s.store.dirty).tickets.get n = some x ∧ x.number = top)
        ∧ ∀ n x, (examine s.store.image s.store.dirty).tickets.get n = some x → x.number ≤ top) :
    s.comeUp = { s with
      tickets := tickets, counter := if top = 65535 then 1 else top + 1, lines := lines, alm := alarm
      draws := s.draws + 1
      units := s.units.map fun m => { m with state := .standby, standby := none }
      linkRate := s.config.rate
      sweep := { s.sweep with
        enabled := s.sweepCfg.startEnabled, pacing := some (s.now + 10000 * s.sweepCfg.pacing)
        cursor := if s.store.resetCause = .por then s.sweepCfg.first else s.sweep.cursor }
      store := { s.store with
        phase := .running, lastSlot := 255, dirty := (examine s.store.image s.store.dirty).dirty, image := []
        bad := { s.store.bad with
          ticket := s.store.bad.ticket + (examine s.store.image s.store.dirty).discarded } } } := by
  have hcounter : s.loadTickets.counter = if top = 65535 then 1 else top + 1 :=
    counterAfterLoad_eq (examine_inRange _ _) htop
  have halm : s.loadTickets.almDue = alarm := by
    rw [Bool.eq_iff_iff, State.almDue_iff, State.loadTickets_alarmed, halarm]
  have hload : s.loadTickets = { s with
      tickets := tickets, counter := if top = 65535 then 1 else top + 1, lines := lines, draws := s.draws + 1
      store := { s.store with
        dirty := (examine s.store.image s.store.dirty).dirty, image := []
        bad := { s.store.bad with
          ticket := s.store.bad.ticket + (examine s.store.image s.store.dirty).discarded } } } := by
    rw [← htickets.eq, ← State.loadTickets_lines hlines, ← hcounter]
    simp only [State.loadTickets]
  simp only [State.comeUp, State.blocksUp, halm]
  rw [hload]
  rfl

/-! ## The lapse owed and the supervision timer (R50) -/

/-- The announced part differs from the part before START in its ports and the sweep state derived. -/
theorem State.announced_ports (s : State) :
    ∃ q, s.announced = { s.comeUp.seen s.comeUp.sweepState with ports := q } := foldl_enqueue_each _ _ _

/-- What the completion leaves of the part up to its last step. -/
theorem State.announced_fields (s : State) : s.announced.lapseOwed = s.lapseOwed ∧ s.announced.supervised = s.supervised
    ∧ s.announced.now = s.now ∧ s.announced.config = s.config ∧ s.announced.supTimer = s.supTimer
    ∧ s.announced.lapseInHand = s.lapseInHand ∧ s.announced.buses = s.buses
    ∧ s.announced.store.inFlight = s.store.inFlight ∧ s.announced.store.phase = .running := by
  obtain ⟨q, hq⟩ := s.announced_ports
  simp only [hq, State.seen, State.comeUp, State.blocksUp, State.loadTickets, and_self]

/-- The part announced, with a supervision timer of its own. -/
theorem State.announced_timer {up : State} {st : SweepState} {cause : ResetCause} {bad : BadCounts} (hup : s.comeUp = up)
    (hst : up.SweepIs st) (hcause : up.store.resetCause = cause) (hbad : up.store.bad = bad) (timer : Option Nat) :
    [Port.desk 0, .desk 1, .desk 2, .desk 3, .x, .m].foldl (fun t p => t.enqueue p none (.start cause bad))
      ({ up with supTimer := timer }.seen st) = { s.announced with supTimer := timer } := by
  obtain rfl := State.sweepIs_iff.1 hst
  subst hup hcause hbad
  exact foldl_enqueue_timer _ timer allPorts (s.comeUp.seen s.comeUp.sweepState)

theorem State.supervisionAtStart_none {sup : Bool} {now : Nat} {config : Config0} {timer : Option Nat}
    (howed : s.lapseOwed = none) (hsup : s.supervised = sup) (hnow : s.now = now) (hconfig : s.config = config)
    (htimer : s.supTimer = timer) : s.supervisionAtStart
      = { s with supTimer := if sup then some (now + 10000 * config.interval) else timer } := by
  subst hsup hnow hconfig htimer
  have hstart : s.supervisionAtStart = if s.supervised then s.startSupervisionTimer else s := by
    simp only [State.supervisionAtStart, howed]
  rw [hstart, State.startSupervisionTimer_eq]
  split <;> rfl

theorem State.supervisionAtStart_owed {c : LapseCause} {sup : Bool} (howed : s.lapseOwed = some c)
    (hsup : s.supervised = sup) : s.supervisionAtStart
      = if sup then { s with lapseOwed := none }.lapse c else { s with lapseOwed := none } := by
  subst hsup
  simp only [State.supervisionAtStart, howed]

/-- A lapse with no bus to release (R51): UNSUPERVISED, the timer stopped, the lines and the ports changed, the sweep state
derived. -/
theorem State.lapse_of_free (hfree : ∀ b, (s.bus b).state = .free) (c : LapseCause) : ∃ q st, s.lapse c
    = { s with
        supervised := false, supTimer := none, lines := s.lines.map lapsedLine, ports := q
        sweep := { s.sweep with lastState := st } } := by
  have hnotice : ∀ (ps : List Port) (t : State), ∃ q, ps.foldl (fun t p => t.pushNotice p (.supervisionLost c)) t
      = { t with ports := q } := by
    intro ps
    induction ps with
    | nil => exact fun t => ⟨t.ports, rfl⟩
    | cons p ps ih =>
      intro t
      obtain ⟨q, hq⟩ := ih (t.pushNotice p (.supervisionLost c))
      refine ⟨q, hq.trans ?_⟩
      unfold State.pushNotice
      split <;> rfl
  have hrelease : s.lapseState.releaseWhere (fun r => r.holder.any Source.automated) .unsupervised = s.lapseState := by
    have hstep : ∀ bs : List BusId, bs.foldl (fun t b => if (t.bus b).holder.any Source.automated
        then t.releaseDecision b .unsupervised else t) s.lapseState = s.lapseState := by
      intro bs
      induction bs with
      | nil => rfl
      | cons b bs ih =>
        have hsame : s.lapseState.releaseDecision b .unsupervised = s.lapseState := by
          have hb : (s.lapseState.bus b).state = .free := hfree b
          simp only [State.releaseDecision, hb]
        rw [List.foldl_cons, hsame, ite_self]
        exact ih
    exact hstep allBuses
  obtain ⟨q, hq⟩ := hnotice desksAndM s.lapseState
  refine ⟨q, State.sweepState { s.lapseState with ports := q }, ?_⟩
  have hactive : State.sweepState { s.lapseState with ports := q } ≠ .active := fun hst => by
    have hsup := State.sweepIs_iff.2 hst
    rcases hsup with h | h | h | ⟨-, -, h, -⟩
    · exact absurd h.2 nofun
    · exact absurd h.2.2 nofun
    · exact absurd h.2.2.2 nofun
    · exact absurd h nofun
  rw [State.lapse, State.lapseEffects, hrelease, State.pushNotices, hq, State.rederive]
  exact if_neg fun h => hactive h.1

/-- The end of an event while RUNNING with no overflow's lapse in hand is the service's choice alone. -/
theorem State.finish_of_running (hlapse : s.lapseInHand = none) (hrun : s.store.phase = .running) :
    ∃ st : Store, s.finish = { s with store := st } ∧ st.phase = .running ∧ st.image = s.store.image := by
  have hsettle : s.settleLapse = s := by simp only [State.settleLapse, hlapse]
  have hquiet : s.accessQuietIfDue = s := if_neg fun h => by rw [hrun] at h; exact absurd h.1 nofun
  obtain ⟨st, hst, hphase, himage⟩ : ∃ st : Store, s.chooseWrite = { s with store := st } ∧ st.phase = s.store.phase
      ∧ st.image = s.store.image := by
    unfold State.chooseWrite
    dsimp only
    split
    · exact ⟨s.store, rfl, rfl, rfl⟩
    · split
      · exact ⟨_, rfl, rfl, rfl⟩
      · split
        · exact ⟨_, rfl, rfl, rfl⟩
        · exact ⟨s.store, rfl, rfl, rfl⟩
  refine ⟨st, ?_, hphase.trans hrun, himage⟩
  rw [State.finish, hsettle, hquiet, hst]
  have hrunning : st.phase ≠ .draining := by
    rw [hphase, hrun]
    nofun
  exact if_neg fun h => hrunning h.1

theorem State.completion_unowed (hl : s.store.phase = .loading) (hi : s.store.loadIndex = 362)
    (hroom : ∀ p, 1 ≤ s.freeEntries p) (howed : s.lapseOwed = none) : s.autoloadCompletion
    = { s.announced with
        supTimer := if s.supervised then some (s.now + 10000 * s.config.interval) else s.supTimer } := by
  obtain ⟨howed', hsup, hnow, hconfig, htimer, -⟩ := s.announced_fields
  exact (State.autoloadCompletion_eq hl hi hroom).trans
    (State.supervisionAtStart_none (howed'.trans howed) hsup hnow hconfig htimer)

theorem State.completion_owed {c : LapseCause} (hl : s.store.phase = .loading) (hi : s.store.loadIndex = 362)
    (hroom : ∀ p, 1 ≤ s.freeEntries p) (howed : s.lapseOwed = some c) : s.autoloadCompletion
    = if s.supervised then { s.announced with lapseOwed := none }.lapse c else { s.announced with lapseOwed := none } := by
  obtain ⟨howed', hsup, -⟩ := s.announced_fields
  exact (State.autoloadCompletion_eq hl hi hroom).trans (State.supervisionAtStart_owed (howed'.trans howed) hsup)

/-- What the last step leaves of a part with every bus FREE, and what it makes of the supervision. -/
theorem State.supervisionAtStart_of_free (hfree : ∀ b, (s.bus b).state = .free) :
    s.supervisionAtStart.store = s.store ∧ s.supervisionAtStart.tickets = s.tickets
      ∧ s.supervisionAtStart.linkRate = s.linkRate ∧ s.supervisionAtStart.units = s.units
      ∧ s.supervisionAtStart.sweep.enabled = s.sweep.enabled ∧ s.supervisionAtStart.lapseInHand = s.lapseInHand
      ∧ s.supervisionAtStart.lapseOwed = none
      ∧ s.supervisionAtStart.supervised = (s.supervised && s.lapseOwed.isNone)
      ∧ s.supervisionAtStart.supTimer = if s.lapseOwed = none ∧ s.supervised = true
          then some (s.now + 10000 * s.config.interval) else if s.supervised = true then none else s.supTimer := by
  cases howed : s.lapseOwed with
  | none =>
    rw [State.supervisionAtStart_none howed rfl rfl rfl rfl]
    refine ⟨rfl, rfl, rfl, rfl, rfl, rfl, howed, (Bool.and_true _).symm, ?_⟩
    cases hsup : s.supervised <;> simp
  | some c =>
    cases hsup : s.supervised with
    | false =>
      rw [State.supervisionAtStart_owed howed hsup]
      exact ⟨rfl, rfl, rfl, rfl, rfl, rfl, rfl, hsup, by simp⟩
    | true =>
      rw [State.supervisionAtStart_owed howed hsup, if_pos rfl]
      obtain ⟨q, st, hlapse⟩ := State.lapse_of_free (s := { s with lapseOwed := none }) hfree c
      rw [hlapse]
      exact ⟨rfl, rfl, rfl, rfl, rfl, rfl, rfl, rfl, by simp⟩

end

/-! ## The examination and the completion together -/

/-- What the examination of a list of pages gives (R147). -/
theorem examine_spec (image : List (SlotId × PageData)) (dirty : Tab Bool 256) (hsorted : image.Pairwise fun a b => a.1 < b.1) :
    (∀ n d x, (n, d) ∈ image → loadTicket d = some x →
      (∀ m < n, ∀ y, (examine image dirty).tickets.get m = some y → ¬ y.Clashes x) →
      (examine image dirty).tickets.get n = some x)
    ∧ (examine image dirty).discarded = (image.filter fun z => ((examine image dirty).tickets.get z.1).isNone).length
    ∧ (∀ n d x, (n, d) ∈ image → (examine image dirty).tickets.get n = some x →
      (CorrectedRecord d x → (examine image dirty).dirty.get n = true)
        ∧ (¬ CorrectedRecord d x → (examine image dirty).dirty.get n = dirty.get n))
    ∧ ∀ n, (∀ d, (n, d) ∉ image) → (examine image dirty).tickets.get n = none
        ∧ (examine image dirty).dirty.get n = dirty.get n := by
  refine ⟨fun n d x hmem hload hclear => ?_, ?_, fun n d x hmem hkept => ?_, fun n hn => ?_⟩
  · obtain ⟨e, -, -, hbelow, hslot, -⟩ := examine_at dirty hsorted hmem
    have hconf : conflicts e.tickets x = false := Bool.eq_false_iff.2 fun h => by
      obtain ⟨m, y, hy, hclash⟩ := conflicts_iff.1 h
      obtain ⟨hlt, hend⟩ := hbelow m y hy
      exact hclear m hlt y hend hclash
    rw [hslot, examineSlot_keeps hload hconf]
    exact Tab.get_set_self _ _ _
  · have hcount := examineAll_count image ⟨Tab.replicate 256 none, dirty, 0⟩ hsorted fun z _ => by simp
    exact hcount.trans (Nat.zero_add _)
  · obtain ⟨e, hdirty, hnone, -, hslot, hmark⟩ := examine_at dirty hsorted hmem
    rcases e.drops_or d with hdrops | ⟨y, hload, hconf⟩
    · rw [hslot, examineSlot_drops hdrops] at hkept
      exact absurd (hnone.symm.trans hkept) nofun
    · obtain rfl : y = x := by
        rw [hslot, examineSlot_keeps hload hconf] at hkept
        exact Option.some.inj ((Tab.get_set_self _ _ _).symm.trans hkept)
      rw [hmark, ← hdirty]
      exact examineSlot_mark hload hconf
  · obtain ⟨htickets, hdirty⟩ := examineAll_other image ⟨Tab.replicate 256 none, dirty, 0⟩ hn
    exact ⟨htickets.trans (by simp), hdirty⟩

/-- Tickets that load stand apart, each from a gathered page; a page whose slot stays empty marks it dirty (R147). -/
theorem examine_always (image : List (SlotId × PageData)) (dirty : Tab Bool 256) :
    (∀ n x, (examine image dirty).tickets.get n = some x → ∃ d, (n, d) ∈ image ∧ loadTicket d = some x)
    ∧ (∀ n m x y, (examine image dirty).tickets.get n = some x → (examine image dirty).tickets.get m = some y → n ≠ m →
      x.number ≠ y.number ∧ (x.state ≠ .cleared → y.state ≠ .cleared → ¬ (x.line = y.line ∧ x.cls = y.cls)))
    ∧ ∀ n d, (n, d) ∈ image → (examine image dirty).tickets.get n = none → (examine image dirty).dirty.get n = true := by
  have hapart := examine_apart image dirty
  refine ⟨fun n x hx => ?_, fun n m x y hx hy hnm => ⟨hapart.numbers n m x y hx hy hnm, hapart.classes n m x y hx hy hnm⟩,
    fun n d hmem hnone => examineAll_discarded_dirty image _ hmem hnone⟩
  exact (examineAll_source image _ x hx).resolve_left fun h => by simp at h

theorem State.reset_imageOrdered : State.reset.ImageOrdered :=
  ⟨List.Pairwise.nil, fun _ h => absurd h List.not_mem_nil⟩

section
variable {s : State}

/-- The end of the completion's event with no lapse owed, from the part as announced. -/
theorem State.completion_finish_unowed {t : State} (hs : s.Settled) (hl : s.store.phase = .loading)
    (hi : s.store.loadIndex = 362) (hroom : ∀ p, 1 ≤ s.freeEntries p) (howed : s.lapseOwed = none)
    (hflight : s.store.inFlight = none)
    (ht : State.Chooses { s.announced with
      supTimer := if s.supervised then some (s.now + 10000 * s.config.interval) else s.supTimer } t) :
    s.autoloadCompletion.finish = t := by
  obtain ⟨-, -, -, -, -, hlapse, -, hflight', hphase⟩ := s.announced_fields
  rw [State.completion_unowed hl hi hroom howed]
  refine (ht.finish_eq (hlapse.trans hs.noLapse) ?_ (hflight'.trans hflight) ?_).trans (if_neg ?_)
  · show s.announced.store.phase ≠ .loading
    rw [hphase]
    nofun
  · rintro ⟨h, -⟩
    exact absurd (hphase.symm.trans h) (by decide)
  · rintro ⟨h, -⟩
    exact absurd (hphase.symm.trans h) (by decide)

/-- Its last step over, the part runs with the tables and the units as loaded, the lapse no longer owed. -/
theorem State.completion_leaves (hs : s.Settled) (hl : s.store.phase = .loading) (hi : s.store.loadIndex = 362)
    (hfree : ∀ b, (s.bus b).state = .free) (hroom : ∀ p, 1 ≤ s.freeEntries p) :
    ∃ t, s.autoloadCompletion.finish = t ∧ t.store.phase = .running ∧ t.store.image = []
      ∧ s.TableLoaded t.tickets ∧ t.linkRate = s.config.rate
      ∧ (∀ u, (t.mu u).state = .standby ∧ (t.mu u).standby = none) ∧ t.sweep.enabled = s.sweepCfg.startEnabled
      ∧ t.supervised = (s.supervised && s.lapseOwed.isNone) ∧ t.lapseOwed = none
      ∧ t.supTimer = if s.lapseOwed = none ∧ s.supervised = true then some (s.now + 10000 * s.config.interval)
          else if s.supervised = true then none else s.supTimer := by
  obtain ⟨howed', hsup', hnow, hconfig, htimer', hlapse', hbuses, -, hphase⟩ := s.announced_fields
  obtain ⟨q, hq⟩ := s.announced_ports
  have hloaded : s.announced.store.image = [] ∧ s.announced.tickets = s.loadTickets.tickets
      ∧ s.announced.linkRate = s.config.rate ∧ s.announced.units = s.units.map standbyUnit
      ∧ s.announced.sweep.enabled = s.sweepCfg.startEnabled := by
    simp only [hq, State.seen, State.comeUp, State.blocksUp, State.loadTickets, and_self]
  obtain ⟨himage, htickets, hrate, hunits, henabled⟩ := hloaded
  have hstill : ∀ b, (s.announced.bus b).state = .free := fun b =>
    (congrArg (fun buses : Tab BusRec 4 => (buses.get b).state) hbuses).trans (hfree b)
  rw [State.autoloadCompletion_eq hl hi hroom]
  obtain ⟨hstore, htick, hlink, hmus, hen, hlapse, howed, hsup, htimer⟩ := State.supervisionAtStart_of_free hstill
  obtain ⟨st, hfinish, hrunning, hpages⟩ := State.finish_of_running (s := s.announced.supervisionAtStart)
    (hlapse.trans (hlapse'.trans hs.noLapse)) ((congrArg Store.phase hstore).trans hphase)
  rw [howed', hsup', hnow, hconfig, htimer'] at htimer
  rw [howed', hsup'] at hsup
  refine ⟨_, hfinish, hrunning, hpages.trans ((congrArg Store.image hstore).trans himage), ?_, hlink.trans hrate,
    fun u => ?_, hen.trans henabled, hsup, howed, htimer⟩
  · show s.TableLoaded s.announced.supervisionAtStart.tickets
    rw [htick, htickets]
    exact s.tableLoaded
  · have hmu : s.announced.supervisionAtStart.mu u = standbyUnit (s.mu u) := by
      rw [State.mu, hmus, hunits]
      simp [State.mu]
    exact ⟨congrArg MuRec.state hmu, congrArg MuRec.standby hmu⟩

end

/-- Settles O57: the completion by `State.autoloadCompletion_eq` and `State.comeUp_eq`, the examination by `examine_always`
and `examine_spec`, the records by `loadTicket_iff`. -/
theorem autoloadCompletionStartsThePart : Obligations.AutoloadCompletionStartsThePart := by
  refine ⟨fun s hs => ⟨fun h => ?_, ?_⟩, fun image dirty => ?_,
    fun k code => ⟨fun h => freePair_foreign h code, fun h₁ h₂ h₃ => freePair_other h₁ h₂ h₃ code⟩,
    fun d => loadTicket_none_iff, fun d t => loadedTicket_of_loadTicket, State.reset_imageOrdered,
    fun s t hs h => (step_kept h).image hs, fun s hs hl hi hfree hroom => ?_⟩
  · exact congrArg _ ((congrArg State.finish (State.autoloadCompletion_of_unread h)).trans hs.finish_eq)
  · intro tickets lines alarm top st hl hi hroom e htickets hlines halarm htop bad up started hst
    have hup : s.comeUp = up := State.comeUp_eq htickets hlines halarm htop
    have hstarted : ∀ timer, started timer = { s.announced with supTimer := timer } :=
      State.announced_timer hup hst rfl rfl
    refine ⟨fun howed hflight t ht => ?_, fun cause howed => ?_⟩
    · rw [hstarted] at ht
      exact congrArg _ (State.completion_finish_unowed hs hl hi hroom howed hflight ht)
    · intro paid
      have hpaid : paid = { s.announced with lapseOwed := none } := by
        obtain ⟨-, -, -, -, htimer, -⟩ := s.announced_fields
        show { started s.supTimer with lapseOwed := none } = _
        rw [hstarted, ← htimer]
      have hcompletion := State.completion_owed hl hi hroom howed
      rw [← hpaid] at hcompletion
      refine ⟨fun hsup t ht => ?_, fun hsup w t hw ht => ?_⟩
      · rw [hsup] at hcompletion
        exact congrArg _ ((congrArg State.finish hcompletion).trans ht.finish_eq)
      · rw [hsup, if_pos rfl, hw.eq] at hcompletion
        exact congrArg _ ((congrArg State.finish hcompletion).trans ht.finish_eq)
  · obtain ⟨hsource, hapart, hdiscarded⟩ := examine_always image dirty
    exact ⟨hsource, hapart, hdiscarded, examine_spec image dirty⟩
  · obtain ⟨t, ht, hleaves⟩ := State.completion_leaves hs hl hi hfree hroom
    exact ⟨t, congrArg _ ht, hleaves⟩

end Sys2Proof.Machine
end
